-- ==== Sys2Proof/Word.lean ====
section
/-! DEFINITION. The words of the UV9: bytes and 64-bit words (every register is 64 bits wide, 00_scope.md R6). -/

namespace Sys2Proof

/-- A byte. -/
abbrev Byte := BitVec 8

/-- A 64-bit word, the width of every register and of a burin scalar register. -/
abbrev Word := BitVec 64

/-- A finite map keyed by naturals: pairs with strictly rising keys (`Machine.sorted`, Machine/Map.lean). -/
abbrev Map (α : Type) := List (Nat × α)

/-- A finite set of naturals, strictly rising. -/
abbrev NSet := List Nat

end Sys2Proof
end

