-- ==== Sys2Proof/Types.lean ====
section
/-! DEFINITION. The data that commands carry and the state holds in common: packets, cells, targets of accesses,
work entries. -/

namespace Sys2Proof

/-- How a register is addressed: by DPA on the on-chip network, by offset of PF BAR0 (02_attach_ports.md Table 2-5), or
by offset of the register page of VF n (04_tenancy.md Table 4-4). -/
inductive RegTgt where
  | dpa (a : Nat)
  | bar0 (o : Nat)
  | page (n o : Nat)
  deriving DecidableEq, Repr

/-- A BAR2 window (02_attach_ports.md Table 2-4): of the PF, of VF n, of the port function of a port and half. -/
inductive Bar2 where
  | pf
  | vf (n : Nat)
  | port (n half : Nat)
  deriving DecidableEq, Repr

/-- Kinds of access to memory. -/
inductive Access where
  | read | write | atomic
  deriving DecidableEq, Repr

/-- An AtomicOp (02_attach_ports.md Table 2-2): FetchAdd, Swap, or CAS with its compare value. -/
inductive AtomicOp where
  | fetchAdd | swap | cas (cmp : Nat)
  deriving DecidableEq, Repr

/-- Where a translated access goes (03_translation.md Table 3-1): a DPA, or a bus address on a link half. -/
inductive Tgt where
  | dpa (a : Nat)
  | bus (port half a : Nat)
  deriving DecidableEq, Repr

/-- A transport packet (07_transport.md Tables 7-1 to 7-3): the header's fields, the cipher word (key identifier and
counter), payload and tail. -/
structure Packet where
  dstNode : Nat := 0
  hops : Nat := 0
  vc : Nat := 0
  st : Nat := 0
  tc : Nat := 0
  type : Nat := 0
  plen : Nat := 0
  dstQpn : Nat := 0
  srcNode : Nat := 0
  srcQpn : Nat := 0
  psn : Nat := 0
  enc : Bool := false
  last : Bool := false
  retx : Bool := false
  areq : Bool := false
  piece : Nat := 0
  srcInc : Nat := 0
  dstInc : Nat := 0
  argA : Nat := 0
  argB : Nat := 0
  keyId : Nat := 0
  ctr : Nat := 0
  payload : List Byte := []
  tail : Nat := 0
  deriving DecidableEq, Repr

/-- What the check of a packet by the cipher cores comes to (11_cipher.md R256, R257): a disagreement, the cores named,
the dissenting core of a Dual check if two agree, whether an Inverse check's repeat passes. -/
structure CipChk where
  bad : Bool := false
  cores : List Nat := []
  dissent : Option Nat := none
  pass : Bool := true
  deriving DecidableEq, Repr

/-- What a received packet's carrier says of it: the Ethernet port for UMT (none on Amholt), the shim's fields, the
frame's ECN mark and the timebase at start of frame (07_transport.md Table 7-4). -/
structure RxMeta where
  eth : Option Nat := none
  txTime : Nat := 0
  tsync : Bool := false
  ce : Bool := false
  ceCount : Nat := 0
  echoTx : Nat := 0
  owd : Nat := 0
  /-- IP source address and version. -/
  srcIp : Nat := 0
  v4 : Bool := false
  /-- What the cipher cores' check of the packet comes to. -/
  chk : CipChk := {}
  deriving DecidableEq, Repr

/-- An entry of the fault map (08_amholt_fabric.md R202, R543): a node lost, or the link of a node in a direction down; or
the removal of such an entry. -/
structure FaultEnt where
  lost : Bool
  node : Nat
  dim : Nat := 0
  dir : Nat := 0
  stamp : Nat := 0
  inc : Nat := 0
  removal : Bool := false
  deriving DecidableEq, Repr

/-- A trace record (17_reproducibility.md Table 17-7): `SOURCE`, `KIND`, `CYCLE` and payload. -/
structure TraceRec where
  src : Nat
  kind : Nat
  cyc : Nat
  data : List Byte := []
  deriving DecidableEq, Repr

/-- A page that a rebuild pulls (18_proofs.md R446): parity group, image page number, source: 0 to 15 the data member at that
`POS`, 16 the P holder, 17 the Q holder; its bytes. -/
structure Pull where
  group : Nat
  page : Nat
  src : Nat
  data : List Byte
  deriving DecidableEq, Repr

/-- What the power manager measures at a control instant (21_power.md R506, R508, R552; 04_tenancy.md R90): the draw of every
domain that is not a running plate, over 10 µs, and of each plate, over 1 ms, in mW; input power over 1 ms in W; energy of domains
since the last instant in µJ; HBM bytes of masters that act for no function since then; input voltage (10 mV) and current
(10 mA). -/
structure PowerMeas where
  other : Nat
  draw : Nat
  plates : List Nat
  energy : List (Nat × Nat) := []
  hbmOther : Nat := 0
  vin : Nat := 0
  iin : Nat := 0
  deriving DecidableEq, Repr

/-- A configuration request of the host to a function (23_boot_reset.md R536): MSI-X Enable and Function Mask, power state
D3hot, ATS Enable, PASID Enable and value, log2 of the size of BAR2, VF Enable, or an object of the DOE mailbox. -/
inductive CfgReq where
  | msix (en mask : Bool)
  | power (d3hot : Bool)
  | ats (en : Bool)
  | pasid (en : Bool) (v : Nat)
  | bar2 (log2 : Nat)
  | vfEnable (en : Bool)
  | doe
  deriving DecidableEq, Repr

/-- A core that runs the burin instruction set: the sequencer of plate p, its exposed burin b, transport core i. -/
inductive Core where
  | seq (p : Nat)
  | burin (p b : Nat)
  | tport (i : Nat)
  deriving DecidableEq, Repr

/-- What the memories do during a bundle or a transfer (12_plates.md R264): single-bit errors corrected; the 64-bit words
(DPA / 8) that read with a double-bit error; and the bytes the host returns for HBM it holds (02_attach_ports.md Table 2-6). -/
structure Env where
  sbe : Nat := 0
  dbe : List Nat := []
  host : List Byte := []
  deriving DecidableEq, Repr

end Sys2Proof
end

