-- ==== Sys2Proof/Syntax.lean ====
section
/-! DEFINITION. The commands of the UV9: one constructor per row of spec/opcode_table.json, with the row's operands: who
acts (a master ID, a function), the addresses and values the command carries, and what arrives from outside the block
(bytes that host or peer memory returns, packets, measurements, random draws). -/

namespace Sys2Proof

/-- The commands, in the table's order. -/
inductive Instr where
  /-- REGISTER_WRITE (R6). -/
  | registerWrite (m : Nat) (t : RegTgt) (v : Word)
  /-- PARTIAL_WRITE (R7). -/
  | partialWrite (m : Nat) (t : RegTgt) (n : Nat)
  /-- BLOCK_LOCK (R10). -/
  | blockLock (m blk : Nat)
  /-- MEMORY_REQUEST (R23). -/
  | memoryRequest (m : Nat) (acc : Access) (op : AtomicOp) (a n : Nat) (data : List Byte) (e : Env)
  /-- REFCLK_LOST (R18). -/
  | refclkLost
  /-- HOST_BAR2_WRITE (R36). -/
  | hostBar2Write (w : Bar2) (off : Nat) (data : List Byte) (be : List Bool)
  /-- HOST_BAR2_READ (R37). -/
  | hostBar2Read (w : Bar2) (off n : Nat)
  /-- HOST_ATOMICOP (R38). -/
  | hostAtomicop (w : Bar2) (op : AtomicOp) (off n v : Nat)
  /-- PORT_FUNCTION_BAR0_READ (R559). -/
  | portFunctionBar0Read (port half off n : Nat)
  /-- CXL_MEM_ACCESS (R39). -/
  | cxlMemAccess (wr : Bool) (a : Nat) (data : List Byte)
  /-- BIAS_CMD_GO (R40). -/
  | biasCmdGo (m : Nat) (v : Word)
  /-- BIAS_FLIP_END (R41). -/
  | biasFlipEnd
  /-- LINK_EN_WRITE (R53). -/
  | linkEnWrite (m port : Nat) (v : Word)
  /-- LINK_HALF_DOWN (R53). -/
  | linkHalfDown (port half : Nat)
  /-- LINK_HALF_UP (R55). -/
  | linkHalfUp (port half width rate : Nat) (cxl : Bool)
  /-- PERST_N (R533). -/
  | perstN (port : Nat) (low : Bool)
  /-- FLUSH_READ_COMPLETION (R45). -/
  | flushReadCompletion (id : Nat) (ok : Bool) (cid : Nat)
  /-- PEER_PROBE_COMPLETE (R49). -/
  | peerProbeComplete (f : Nat) (ok : Bool) (cid : Nat)
  /-- PEER_READ_FAILURE (R51). -/
  | peerReadFailure (port half cid wqn slot : Nat)
  /-- XLT_DEV_EN_WRITE (R59). -/
  | xltDevEnWrite (m f : Nat) (v : Word)
  /-- TABLE_WALK_READ_DONE (R61). -/
  | tableWalkReadDone (k f dva : Nat) (acc : Access) (stream snum : Nat) (host : List Byte)
  /-- ATS_TRANSLATION_COMPLETION (R64). -/
  | atsTranslationCompletion (k : Nat) (ok : Bool) (size out : Nat) (r w : Bool)
  /-- PAGE_REQUEST_RESPONSE (R64). -/
  | pageRequestResponse (k : Nat) (ok : Bool)
  /-- XLT_INV_GO (R70). -/
  | xltInvGo (m f : Nat) (v : Word)
  /-- XLT_INV_DRAIN_END (R70). -/
  | xltInvDrainEnd (f : Nat)
  /-- ATS_INVALIDATE_REQUEST (R72). -/
  | atsInvalidateRequest (f space lo hi tag : Nat)
  /-- ATS_INVALIDATION_COMPLETE (R72). -/
  | atsInvalidationComplete (f tag : Nat)
  /-- VFM_GRANT_WRITE (R77). -/
  | vfmGrantWrite (m key : Nat) (v : Word)
  /-- PLATE_OWNER_WRITE (R79). -/
  | plateOwnerWrite (m p : Nat) (v : Word)
  /-- DLOG_BASE_WRITE (R84). -/
  | dlogBaseWrite (m f l : Nat) (v : Word)
  /-- DLOG_HARVEST_GO (R86). -/
  | dlogHarvestGo (m f : Nat) (v : Word)
  /-- DLOG_HARVEST_DONE (R86). -/
  | dlogHarvestDone (f : Nat)
  /-- MTR_CLR (R89). -/
  | mtrClr (m f : Nat)
  /-- FUNCTION_LEVEL_RESET (R92). -/
  | functionLevelReset (f : Nat)
  /-- FLR_COMPLETE (R92). -/
  | flrComplete (f : Nat)
  /-- SCRUB (R93). -/
  | scrub (m f : Nat)
  /-- SCRUB_DONE (R93). -/
  | scrubDone (f : Nat)
  /-- FN_EN_WRITE (R106). -/
  | fnEnWrite (m f : Nat) (en : Bool)
  /-- WQ_POLL_DUE (R100). -/
  | wqPollDue (w : Nat)
  /-- POLL_WINDOW (R101). -/
  | pollWindow
  /-- WQ_KICK (R100). -/
  | wqKick (f w : Nat)
  /-- POLL_READ_COMPLETION (R99). -/
  | pollReadCompletion (w res : Nat) (data : List Byte)
  /-- SCHEDULER_GRANT (R104). -/
  | schedulerGrant (k : Nat)
  /-- NOP_ENTRY (R98). -/
  | nopEntry (w : Nat)
  /-- WRITE (R132). -/
  | write (w : Nat) (ext : List Byte)
  /-- READ (R134). -/
  | read (w : Nat) (ext : List Byte)
  /-- WAIT (R136). -/
  | wait (w : Nat)
  /-- WAIT_SATISFIED (R137). -/
  | waitSatisfied (w : Nat)
  /-- WAIT_TIMEOUT (R137). -/
  | waitTimeout (w : Nat)
  /-- FENCE (R47). -/
  | fence (w : Nat)
  /-- CREATE_WQ (R109). -/
  | createWq (f : Nat)
  /-- MODIFY_WQ (R109). -/
  | modifyWq (f obj : Nat)
  /-- ENABLE_WQ (R107). -/
  | enableWq (f obj : Nat)
  /-- DISABLE_WQ (R107). -/
  | disableWq (f obj : Nat)
  /-- DESTROY_WQ (R109). -/
  | destroyWq (f obj : Nat)
  /-- QUERY_WQ (R109). -/
  | queryWq (f obj : Nat)
  /-- CREATE_CQ (R109). -/
  | createCq (f : Nat)
  /-- RESUME_CQ (R114). -/
  | resumeCq (f obj : Nat)
  /-- DESTROY_CQ (R109). -/
  | destroyCq (f obj : Nat)
  /-- QUERY_CQ (R109). -/
  | queryCq (f obj : Nat)
  /-- CQ_HEAD_REREAD (R113). -/
  | cqHeadReread (c res : Nat) (data : List Byte)
  /-- CQ_ARM (R115). -/
  | cqArm (f : Nat) (v : Word)
  /-- CREATE_QP (R126). -/
  | createQp (f obj : Nat)
  /-- MODIFY_QP (R129). -/
  | modifyQp (f obj : Nat)
  /-- ARM_QP (R128). -/
  | armQp (f obj : Nat)
  /-- RESET_QP (R129). -/
  | resetQp (f obj : Nat)
  /-- DESTROY_QP (R129). -/
  | destroyQp (f obj : Nat)
  /-- QP_DRAIN_END (R129). -/
  | qpDrainEnd (q : Nat)
  /-- QUERY_QP (R126). -/
  | queryQp (f obj : Nat)
  /-- QP_RETIRE_EXPIRY (R127). -/
  | qpRetireExpiry (q : Nat)
  /-- REGISTER (R117). -/
  | register (f : Nat)
  /-- DEREGISTER (R125). -/
  | deregister (f obj : Nat)
  /-- QUERY_REGION (R117). -/
  | queryRegion (f obj : Nat)
  /-- REVOKE (R122). -/
  | revoke (f : Nat) (v : Word)
  /-- REVOKE_DRAIN_END (R123). -/
  | revokeDrainEnd (ix : Nat)
  /-- REFUSAL_AGGREGATION_END (R124). -/
  | refusalAggregationEnd (ix : Nat)
  /-- DATA_RECEIVED (R156). -/
  | dataReceived (p : Packet) (rx : RxMeta) (ext : List Byte)
  /-- WRITE_VISIBLE (R159). -/
  | writeVisible (q psn : Nat) (ext : List Byte)
  /-- NOTICE_RECEIVED (R159). -/
  | noticeReceived (p : Packet) (rx : RxMeta) (ext : List Byte)
  /-- READ_REQ_RECEIVED (R134). -/
  | readReqReceived (p : Packet) (rx : RxMeta) (ext : List Byte)
  /-- READ_RESP_RECEIVED (R161). -/
  | readRespReceived (p : Packet) (rx : RxMeta)
  /-- ACK_RECEIVED (R160). -/
  | ackReceived (p : Packet) (rx : RxMeta)
  /-- CONNECT_RECEIVED (R128). -/
  | connectReceived (p : Packet) (rx : RxMeta)
  /-- ACCEPT_RECEIVED (R128). -/
  | acceptReceived (p : Packet) (rx : RxMeta)
  /-- REJECT_RECEIVED (R128). -/
  | rejectReceived (p : Packet) (rx : RxMeta)
  /-- ABORT_RECEIVED (R131). -/
  | abortReceived (p : Packet) (rx : RxMeta)
  /-- ACK_DELAY_EXPIRY (R158). -/
  | ackDelayExpiry (q : Nat)
  /-- RETRANSMIT_TIMEOUT (R162). -/
  | retransmitTimeout (q : Nat)
  /-- FRAME_RELEASE (R166). -/
  | frameRelease (q : Nat) (chk : CipChk)
  /-- UMT_PORT_EN_CLEAR (R153). -/
  | umtPortEnClear (m n : Nat)
  /-- CC_EVENT_RUN (R167). -/
  | ccEventRun (core : Nat)
  /-- CC_HANDLER_ABANDON (R168). -/
  | ccHandlerAbandon (core : Nat)
  /-- CC_SWAP (R169). -/
  | ccSwap (m : Nat)
  /-- FAB_PORT_EN_WRITE (R177). -/
  | fabPortEnWrite (m n : Nat) (v : Word)
  /-- PHY_LOCK (R177). -/
  | phyLock (n : Nat)
  /-- PHY_LOCK_TIMEOUT (R177). -/
  | phyLockTimeout (n : Nat)
  /-- TRAINING_CELL_RECEIVED (R177). -/
  | trainingCellReceived (n : Nat) (c : List Byte)
  /-- TRAINING_TIMEOUT (R177). -/
  | trainingTimeout (n : Nat)
  /-- DOWN_WAIT_EXPIRY (R177). -/
  | downWaitExpiry (n : Nat)
  /-- DATA_CELL_RECEIVED (R180). -/
  | dataCellReceived (n : Nat) (c : List Byte)
  /-- CONTROL_CELL_RECEIVED (R180). -/
  | controlCellReceived (n : Nat) (c : List Byte)
  /-- ACK_SEQ_TIMEOUT (R181). -/
  | ackSeqTimeout (n : Nat)
  /-- CONTROL_CELL_DUE (R181). -/
  | controlCellDue (n : Nat)
  /-- LINK_FAIL (R182). -/
  | linkFail (n reason : Nat)
  /-- PACKET_HEAD_ARRIVAL (R186). -/
  | packetHeadArrival (n : Nat)
  /-- OUTPUT_GRANT (R196). -/
  | outputGrant (n : Nat)
  /-- VC_HEAD_TIMEOUT (R190). -/
  | vcHeadTimeout (ix vc : Nat)
  /-- VC_STALL_TIMEOUT (R198). -/
  | vcStallTimeout (ix vc : Nat)
  /-- FLIP_ARM (R194). -/
  | flipArm (m : Nat) (v : Word)
  /-- ROUTE_FLIP (R194). -/
  | routeFlip
  /-- FLIP_DRAIN_DEADLINE (R194). -/
  | flipDrainDeadline
  /-- FAULT_MAP_ENTRY_RECEIVED (R202). -/
  | faultMapEntryReceived (frm : Nat) (e : FaultEnt)
  /-- AUTO_ROUTE_WRITE (R203). -/
  | autoRouteWrite
  /-- MAC_QUAD_RECONFIG (R206). -/
  | macQuadReconfig (m n : Nat) (v : Word)
  /-- ETH_LINK_CHANGE (R208). -/
  | ethLinkChange (n : Nat) (up : Bool)
  /-- ETH_FRAME_RECEIVED (R210). -/
  | ethFrameReceived (n : Nat) (data : List Byte)
  /-- RAW_RING_ENABLE (R213). -/
  | rawRingEnable (m n : Nat) (tx : Bool) (v : Word)
  /-- RAW_TX_SLOT (R214). -/
  | rawTxSlot (n : Nat) (cut : Option Nat)
  /-- TX_FRAME_START (R216). -/
  | txFrameStart (n buffered : Nat)
  /-- TX_UNDERRUN (R217). -/
  | txUnderrun (n sent : Nat)
  /-- PPS_IN_EDGE (R220). -/
  | ppsInEdge
  /-- PPS_OUT_PULSE (R220). -/
  | ppsOutPulse
  /-- TIM_NOW_READ (R223). -/
  | timNowRead (m : Nat)
  /-- TIM_SET (R227). -/
  | timSet (m : Nat) (v : Word)
  /-- TIM_RATE_WRITE (R224). -/
  | timRateWrite (m : Nat) (v : Word)
  /-- TIME_SAMPLE (R227). -/
  | timeSample
  /-- HOLDOVER_EXPIRY (R228). -/
  | holdoverExpiry
  /-- PTP_EXCHANGE (R231). -/
  | ptpExchange (theta : Int)
  /-- SNAP_ARM (R233). -/
  | snapArm (m : Nat) (v : Word)
  /-- SNAPSHOT_TICK (R232). -/
  | snapshotTick
  /-- HATCH_ENTRY_BOUNDARY (R236). -/
  | hatchEntryBoundary (n : Nat)
  /-- HATCH_SWAP_REQUEST (R239). -/
  | hatchSwapRequest (m n : Nat) (v : Word)
  /-- HATCH_SWAP (R239). -/
  | hatchSwap (n : Nat)
  /-- BUCKET_REFILL (R242). -/
  | bucketRefill (key : Nat)
  /-- BUCKET_WRITE (R245). -/
  | bucketWrite (m key : Nat) (v : Word)
  /-- INSTALL (R249). -/
  | install
  /-- REPLACE (R250). -/
  | replace
  /-- DELETE (R251). -/
  | delete
  /-- SA_DELETE_DRAIN_END (R251). -/
  | saDeleteDrainEnd (sa : Nat)
  /-- QUERY (R261). -/
  | query
  /-- SAVE (R259). -/
  | save
  /-- RESTORE (R259). -/
  | restore
  /-- SET_KEK (R260). -/
  | setKek
  /-- START (R265). -/
  | start (m p : Nat)
  /-- STOP (R267). -/
  | stop (m p : Nat)
  /-- STOP_DRAIN_END (R267). -/
  | stopDrainEnd (p : Nat)
  /-- PROGRAM_END (R266). -/
  | programEnd (p : Nat)
  /-- PLATE_RESET (R281). -/
  | plateReset (m p : Nat)
  /-- PLATE_SCRUB_END (R281). -/
  | plateScrubEnd (p : Nat)
  /-- BARRIER_STALL (R270). -/
  | barrierStall (p b : Nat)
  /-- DISP_LIMIT_WRITE (R271). -/
  | dispLimitWrite (m p d : Nat) (v : Word)
  /-- DESCRIPTOR_END (R273). -/
  | descriptorEnd (p q : Nat) (e : Env)
  /-- BURIN_SUBSTITUTION (R276). -/
  | burinSubstitution (p : Nat) (retire : Option Nat)
  /-- LOAD_GO (R279). -/
  | loadGo (m p : Nat) (v : Word)
  /-- LOAD_END (R279). -/
  | loadEnd (p : Nat) (ext : List Byte)
  /-- NOP (R317). -/
  | nop (c : Core) (e : Env)
  /-- ADD (R317). -/
  | add (c : Core) (e : Env)
  /-- SUB (R317). -/
  | sub (c : Core) (e : Env)
  /-- MUL (R317). -/
  | mul (c : Core) (e : Env)
  /-- MULH (R317). -/
  | mulh (c : Core) (e : Env)
  /-- MULHU (R317). -/
  | mulhu (c : Core) (e : Env)
  /-- DIV (R317). -/
  | div (c : Core) (e : Env)
  /-- DIVU (R317). -/
  | divu (c : Core) (e : Env)
  /-- REM (R317). -/
  | rem (c : Core) (e : Env)
  /-- REMU (R317). -/
  | remu (c : Core) (e : Env)
  /-- AND (R317). -/
  | and (c : Core) (e : Env)
  /-- OR (R317). -/
  | or (c : Core) (e : Env)
  /-- XOR (R317). -/
  | xor (c : Core) (e : Env)
  /-- SHL (R317). -/
  | shl (c : Core) (e : Env)
  /-- SHR (R317). -/
  | shr (c : Core) (e : Env)
  /-- SRA (R317). -/
  | sra (c : Core) (e : Env)
  /-- SLT (R317). -/
  | slt (c : Core) (e : Env)
  /-- SLTU (R317). -/
  | sltu (c : Core) (e : Env)
  /-- MIN (R317). -/
  | min (c : Core) (e : Env)
  /-- MAX (R317). -/
  | max (c : Core) (e : Env)
  /-- CLZ (R317). -/
  | clz (c : Core) (e : Env)
  /-- POPC (R317). -/
  | popc (c : Core) (e : Env)
  /-- ADDI (R317). -/
  | addi (c : Core) (e : Env)
  /-- ANDI (R317). -/
  | andi (c : Core) (e : Env)
  /-- ORI (R317). -/
  | ori (c : Core) (e : Env)
  /-- XORI (R317). -/
  | xori (c : Core) (e : Env)
  /-- SHLI (R317). -/
  | shli (c : Core) (e : Env)
  /-- SHRI (R317). -/
  | shri (c : Core) (e : Env)
  /-- SRAI (R317). -/
  | srai (c : Core) (e : Env)
  /-- SLTI (R317). -/
  | slti (c : Core) (e : Env)
  /-- LI (R317). -/
  | li (c : Core) (e : Env)
  /-- LIH (R317). -/
  | lih (c : Core) (e : Env)
  /-- FADD (R318). -/
  | fadd (c : Core) (e : Env)
  /-- FSUB (R318). -/
  | fsub (c : Core) (e : Env)
  /-- FMUL (R318). -/
  | fmul (c : Core) (e : Env)
  /-- FFMA (R318). -/
  | ffma (c : Core) (e : Env)
  /-- FDIV (R318). -/
  | fdiv (c : Core) (e : Env)
  /-- FSQRT (R318). -/
  | fsqrt (c : Core) (e : Env)
  /-- FMIN (R318). -/
  | fmin (c : Core) (e : Env)
  /-- FMAX (R318). -/
  | fmax (c : Core) (e : Env)
  /-- FCMPEQ (R318). -/
  | fcmpeq (c : Core) (e : Env)
  /-- FCMPLT (R318). -/
  | fcmplt (c : Core) (e : Env)
  /-- FCMPLE (R318). -/
  | fcmple (c : Core) (e : Env)
  /-- FCVT (R318). -/
  | fcvt (c : Core) (e : Env)
  /-- LD (R319). -/
  | ld (c : Core) (e : Env)
  /-- LDU (R319). -/
  | ldu (c : Core) (e : Env)
  /-- ST (R319). -/
  | st (c : Core) (e : Env)
  /-- AADD (R320). -/
  | aadd (c : Core) (e : Env)
  /-- ASWAP (R320). -/
  | aswap (c : Core) (e : Env)
  /-- ACAS (R320). -/
  | acas (c : Core) (e : Env)
  /-- AFADD (R320). -/
  | afadd (c : Core) (e : Env)
  /-- BEQ (R292). -/
  | beq (c : Core) (e : Env)
  /-- BNE (R292). -/
  | bne (c : Core) (e : Env)
  /-- BLT (R292). -/
  | blt (c : Core) (e : Env)
  /-- BGE (R292). -/
  | bge (c : Core) (e : Env)
  /-- BLTU (R292). -/
  | bltu (c : Core) (e : Env)
  /-- BGEU (R292). -/
  | bgeu (c : Core) (e : Env)
  /-- CALL (R292). -/
  | call (c : Core) (e : Env)
  /-- JR (R292). -/
  | jr (c : Core) (e : Env)
  /-- LOOP (R294). -/
  | loop (c : Core) (e : Env)
  /-- SETMODE (R291). -/
  | setmode (c : Core) (e : Env)
  /-- CRD (R290). -/
  | crd (c : Core) (e : Env)
  /-- CWR (R290). -/
  | cwr (c : Core) (e : Env)
  /-- MSYNC (R300). -/
  | msync (c : Core) (e : Env)
  /-- PHASE (R305). -/
  | phase (c : Core) (e : Env)
  /-- HALT (R313). -/
  | halt (c : Core) (e : Env)
  /-- BREAK (R306). -/
  | brk (c : Core) (e : Env)
  /-- TRAP (R306). -/
  | trap (c : Core) (e : Env)
  /-- ERET (R309). -/
  | eret (c : Core) (e : Env)
  /-- BARW (R322). -/
  | barw (c : Core) (e : Env)
  /-- BARMASK (R322). -/
  | barmask (c : Core) (e : Env)
  /-- BARGEN (R322). -/
  | bargen (c : Core) (e : Env)
  /-- CLAIM (R271). -/
  | claim (c : Core) (e : Env)
  /-- VNOP (R324). -/
  | vnop (c : Core) (e : Env)
  /-- VADD (R324). -/
  | vadd (c : Core) (e : Env)
  /-- VSUB (R324). -/
  | vsub (c : Core) (e : Env)
  /-- VMUL (R324). -/
  | vmul (c : Core) (e : Env)
  /-- VFMA (R324). -/
  | vfma (c : Core) (e : Env)
  /-- VMIN (R324). -/
  | vmin (c : Core) (e : Env)
  /-- VMAX (R324). -/
  | vmax (c : Core) (e : Env)
  /-- VABS (R324). -/
  | vabs (c : Core) (e : Env)
  /-- VNEG (R324). -/
  | vneg (c : Core) (e : Env)
  /-- VDIV (R324). -/
  | vdiv (c : Core) (e : Env)
  /-- VSQRT (R324). -/
  | vsqrt (c : Core) (e : Env)
  /-- VAND (R324). -/
  | vand (c : Core) (e : Env)
  /-- VOR (R324). -/
  | vor (c : Core) (e : Env)
  /-- VXOR (R324). -/
  | vxor (c : Core) (e : Env)
  /-- VSHL (R324). -/
  | vshl (c : Core) (e : Env)
  /-- VSHR (R324). -/
  | vshr (c : Core) (e : Env)
  /-- VSRA (R324). -/
  | vsra (c : Core) (e : Env)
  /-- VCMPEQ (R325). -/
  | vcmpeq (c : Core) (e : Env)
  /-- VCMPLT (R325). -/
  | vcmplt (c : Core) (e : Env)
  /-- VCMPLE (R325). -/
  | vcmple (c : Core) (e : Env)
  /-- VCMPUN (R325). -/
  | vcmpun (c : Core) (e : Env)
  /-- MAND (R325). -/
  | mand (c : Core) (e : Env)
  /-- MOR (R325). -/
  | mor (c : Core) (e : Env)
  /-- MXOR (R325). -/
  | mxor (c : Core) (e : Env)
  /-- MNOT (R325). -/
  | mnot (c : Core) (e : Env)
  /-- MSET (R325). -/
  | mset (c : Core) (e : Env)
  /-- MGET (R325). -/
  | mget (c : Core) (e : Env)
  /-- MPOPC (R325). -/
  | mpopc (c : Core) (e : Env)
  /-- VCVT (R326). -/
  | vcvt (c : Core) (e : Env)
  /-- VSCALE (R349). -/
  | vscale (c : Core) (e : Env)
  /-- VQNT (R350). -/
  | vqnt (c : Core) (e : Env)
  /-- VDQ (R351). -/
  | vdq (c : Core) (e : Env)
  /-- VREDADD (R327). -/
  | vredadd (c : Core) (e : Env)
  /-- VREDMAX (R327). -/
  | vredmax (c : Core) (e : Env)
  /-- VREDMIN (R327). -/
  | vredmin (c : Core) (e : Env)
  /-- VBADD (R355). -/
  | vbadd (c : Core) (e : Env)
  /-- VBMRG (R356). -/
  | vbmrg (c : Core) (e : Env)
  /-- VBRND (R357). -/
  | vbrnd (c : Core) (e : Env)
  /-- VMOV (R328). -/
  | vmov (c : Core) (e : Env)
  /-- VSEL (R328). -/
  | vsel (c : Core) (e : Env)
  /-- VPERM (R328). -/
  | vperm (c : Core) (e : Env)
  /-- VBCAST (R328). -/
  | vbcast (c : Core) (e : Env)
  /-- VEXT (R328). -/
  | vext (c : Core) (e : Env)
  /-- VINS (R328). -/
  | vins (c : Core) (e : Env)
  /-- VLD (R329). -/
  | vld (c : Core) (e : Env)
  /-- VLD2 (R329). -/
  | vld2 (c : Core) (e : Env)
  /-- VST (R329). -/
  | vst (c : Core) (e : Env)
  /-- VLDS (R329). -/
  | vlds (c : Core) (e : Env)
  /-- VSTS (R329). -/
  | vsts (c : Core) (e : Env)
  /-- VGATH (R329). -/
  | vgath (c : Core) (e : Env)
  /-- VSCAT (R329). -/
  | vscat (c : Core) (e : Env)
  /-- MMA (R331). -/
  | mma (c : Core) (e : Env)
  /-- ACCZ (R330). -/
  | accz (c : Core) (e : Env)
  /-- ACCGET (R330). -/
  | accget (c : Core) (e : Env)
  /-- ACCPUT (R330). -/
  | accput (c : Core) (e : Env)
  /-- ACCLD (R330). -/
  | accld (c : Core) (e : Env)
  /-- ACCST (R330). -/
  | accst (c : Core) (e : Env)
  /-- XPOST (R301). -/
  | xpost (c : Core) (e : Env)
  /-- XCOUNT (R303). -/
  | xcount (c : Core) (e : Env)
  /-- XWAIT (R303). -/
  | xwait (c : Core) (e : Env)
  /-- XERR (R303). -/
  | xerr (c : Core) (e : Env)
  /-- XCLR (R303). -/
  | xclr (c : Core) (e : Env)
  /-- CISSUE (R304). -/
  | cissue (c : Core) (e : Env)
  /-- CWAIT (R304). -/
  | cwait (c : Core) (e : Env)
  /-- CREATE_GROUP (R366). -/
  | createGroup (f : Nat)
  /-- SET_RING (R368). -/
  | setRing (f obj : Nat)
  /-- SET_PROG (R366). -/
  | setProg (f obj : Nat)
  /-- ENABLE_GROUP (R370). -/
  | enableGroup (f obj : Nat) (ext : List Byte)
  /-- DISABLE_GROUP (R366). -/
  | disableGroup (f obj : Nat)
  /-- DESTROY_GROUP (R369). -/
  | destroyGroup (f obj : Nat)
  /-- QUERY_GROUP (R386). -/
  | queryGroup (f obj : Nat)
  /-- LAUNCH (R372). -/
  | launch (w : Nat) (ext : List Byte)
  /-- ALLREDUCE (R375). -/
  | allreduce (w : Nat) (ext : List Byte)
  /-- REDUCE_SCATTER (R375). -/
  | reduceScatter (w : Nat) (ext : List Byte)
  /-- ALLGATHER (R375). -/
  | allgather (w : Nat) (ext : List Byte)
  /-- BROADCAST (R375). -/
  | broadcast (w : Nat) (ext : List Byte)
  /-- REDUCE (R375). -/
  | reduce (w : Nat) (ext : List Byte)
  /-- ALLTOALL (R375). -/
  | alltoall (w : Nat) (ext : List Byte)
  /-- BARRIER (R375). -/
  | barrier (w : Nat) (ext : List Byte)
  /-- COLLECTIVE_START (R373). -/
  | collectiveStart (g : Nat) (ext : List Byte)
  /-- CHUNK_START (R378). -/
  | chunkStart (n : Nat) (ext : List Byte)
  /-- CHUNK_NOTICE_RECEIVED (R383). -/
  | chunkNoticeReceived (q : Nat) (ext : List Byte)
  /-- SLOT_RETURN_RECEIVED (R378). -/
  | slotReturnReceived (q : Nat)
  /-- RECORD_DONE (R383). -/
  | recordDone (p n : Nat) (ext : List Byte)
  /-- COLLECTIVE_END (R374). -/
  | collectiveEnd (g : Nat)
  /-- COLLECTIVE_TIMEOUT (R387). -/
  | collectiveTimeout (g : Nat)
  /-- CPF_GO (R401). -/
  | cpfGo (m : Nat)
  /-- CPF_ORIGIN_REACHED (R402, R407): what the partner says; its plan is keyed (plate * 64 + exposed burin) * 16 + point. -/
  | cpfOriginReached (top fw dig delay : Nat) (ok : Bool) (ident : List (Nat × Word)) (plan : List (Nat × Nat))
  /-- CPF_STOP (R413). -/
  | cpfStop (m : Nat)
  /-- TRACE_RECORD_ARRIVAL (R405). -/
  | traceRecordArrival (r : TraceRec) (lc : Nat) (dbe : Bool)
  /-- REPLAY_INPUT (R402). -/
  | replayInput (fa fb : Bool)
  /-- COMPARATOR_SELFTEST (R411). -/
  | comparatorSelftest (fa fb : Bool)
  /-- VERIFIED_REPORT (R412). -/
  | verifiedReport (cyc : Nat)
  /-- CREATE_JOB (R418). -/
  | createJob (f : Nat) (host : List Byte)
  /-- ADD_REGION (R422). -/
  | addRegion (f : Nat)
  /-- REMOVE_REGION (R422). -/
  | removeRegion (f obj : Nat)
  /-- BIND_QP (R425). -/
  | bindQp (f : Nat)
  /-- BIND_COMMIT_WQ (R431). -/
  | bindCommitWq (f : Nat)
  /-- STEP (R427). -/
  | step (f : Nat)
  /-- RESUME (R447). -/
  | resume (f : Nat)
  /-- RESTORE_FLASH (R434). -/
  | restoreFlash (f : Nat)
  /-- FLASH_RESTORE_DONE (R434). -/
  | flashRestoreDone (f : Nat) (ok : Bool)
  /-- DESTROY_JOB (R451). -/
  | destroyJob (f : Nat)
  /-- ADD_SPARES (R445). -/
  | addSpares (f : Nat) (host : List Byte)
  /-- ADD_SPARES_REPORT_RECEIVED (R445). -/
  | addSparesReportReceived (id m n : Nat) (ack : Bool)
  /-- UNDO_COPY_DONE (R423). -/
  | undoCopyDone (g : Nat)
  /-- PEER_COPY_DONE (R424). -/
  | peerCopyDone (f r : Nat) (ok : Bool) (data : List Byte)
  /-- DELTA_NOTICE_RECEIVED (R425). -/
  | deltaNoticeReceived (q : Nat) (host : List Byte)
  /-- MEMBER_PREPARED (R428). -/
  | memberPrepared (f : Nat)
  /-- PREPARED_RECEIVED (R428). -/
  | preparedReceived (id n m : Nat)
  /-- COMMIT_RECEIVED (R429). -/
  | commitReceived (id n : Nat) (from_ : Option Nat)
  /-- FAIL_RECEIVED (R429). -/
  | failReceived (id n : Nat)
  /-- FLASH_PROOF_WRITTEN (R433). -/
  | flashProofWritten (f : Nat)
  /-- FLASH_DONE_RECEIVED (R433). -/
  | flashDoneReceived (id n m : Nat)
  /-- FLASH_FAILED_RECEIVED (R459). -/
  | flashFailedReceived (id n m : Nat)
  /-- FLASH_USABLE_RECEIVED (R433). -/
  | flashUsableReceived (id n : Nat)
  /-- HEARTBEAT_DUE (R435). -/
  | heartbeatDue
  /-- HEARTBEAT_RECEIVED (R436). -/
  | heartbeatReceived (x : Nat)
  /-- HEARTBEAT_SILENCE (R436). -/
  | heartbeatSilence (x : Nat)
  /-- SUSPECT_RECEIVED (R436). -/
  | suspectReceived (x by_ : Nat) (withdrawn : Bool)
  /-- LEAVE_RECEIVED (R437). -/
  | leaveReceived (id m : Nat)
  /-- LOST_RECEIVED (R438). -/
  | lostReceived (x : Nat)
  /-- FAULT_REPORT_RECEIVED (R440). -/
  | faultReportReceived (origin unit sig time count : Nat) (link : List Nat)
  /-- FAULT_REPORT_WINDOW_END (R440). -/
  | faultReportWindowEnd (sig : Nat)
  /-- ROLLBACK_RECEIVED (R443). -/
  | rollbackReceived (id c : Nat) (lost : List Nat) (unrec : Bool)
  /-- ROLLBACK_RESTORE_DONE (R443). -/
  | rollbackRestoreDone (f : Nat)
  /-- ROLLED_RECEIVED (R447). -/
  | rolledReceived (id m : Nat) (rebuilt : Bool)
  /-- TAKEOVER_RECEIVED (R444). -/
  | takeoverReceived (x : Nat)
  /-- MOVE_RECEIVED (R444). -/
  | moveReceived (x pos frm : Nat)
  /-- REBUILD_DONE (R446). -/
  | rebuildDone (f c : Nat) (pulls : List Pull)
  /-- RECOVERED_RECEIVED (R447). -/
  | recoveredReceived (id c : Nat)
  /-- CREATE_VOL (R458). -/
  | createVol (m : Nat)
  /-- DELETE_VOL (R458). -/
  | deleteVol (m : Nat)
  /-- QUERY_VOL (R458). -/
  | queryVol (m : Nat)
  /-- VOLUME_READ (R458). -/
  | volumeRead (m reread rebuilt : Nat) (bad : Option Nat)
  /-- VOLUME_WRITE (R457). -/
  | volumeWrite (m : Nat) (host : List Byte)
  /-- TRUNCATE (R458). -/
  | truncate (m : Nat)
  /-- POWER_FAIL (R550). -/
  | powerFail (pg : Bool)
  /-- PS_CHECKPOINT (R463). -/
  | psCheckpoint
  /-- HOLDUP_TEST (R465). -/
  | holdupTest (us : Nat)
  /-- PS_SCRUB (R467). -/
  | psScrub (v ix corr : Nat) (aged : Bool) (reread rebuilt : Nat)
  /-- WEAR_LEVEL_MOVE (R466). -/
  | wearLevelMove (v ix days : Nat)
  /-- PROGRAM_FAILURE (R468). -/
  | programFailure (d moved : Nat) (whole : Bool)
  /-- ERASE_FAILURE (R468). -/
  | eraseFailure (d : Nat) (whole : Bool)
  /-- MBX_SEND (R474). -/
  | mbxSend (m c : Nat) (v : Word)
  /-- MBX_POP (R476). -/
  | mbxPop (m c : Nat)
  /-- WAKE_HOLD_EXPIRY (R482). -/
  | wakeHoldExpiry (d : Nat)
  /-- EDGE_SOURCE_EVENT (R485). -/
  | edgeSourceEvent (ix : Nat)
  /-- LEVEL_SOURCE_CHANGE (R483). -/
  | levelSourceChange (ix : Nat) (up : Bool)
  /-- ICU_CLAIM (R487). -/
  | icuClaim (m t : Nat)
  /-- ICU_COMPLETE (R488). -/
  | icuComplete (m t ix : Nat)
  /-- ICU_SRC_WRITE (R490). -/
  | icuSrcWrite (m ix : Nat) (v : Word)
  /-- MSIX_COALESCE_TIMEOUT (R491). -/
  | msixCoalesceTimeout (f v : Nat)
  /-- MSIX_UNMASK (R494). -/
  | msixUnmask (f v : Nat)
  /-- DOMAIN_ON_REQUEST (R497). -/
  | domainOnRequest (m d : Nat) (v : Word)
  /-- DOMAIN_RAMP_END (R498). -/
  | domainRampEnd (d : Nat)
  /-- DOMAIN_ISOLATION_RELEASE (R498). -/
  | domainIsolationRelease (d : Nat)
  /-- HEADSWITCH_FAULT (R499). -/
  | headswitchFault (d : Nat)
  /-- RAMP_PAUSE_END (R499). -/
  | rampPauseEnd (g : Nat)
  /-- CAP_WRITE (R505). -/
  | capWrite (m : Nat) (v : Word)
  /-- CONTROL_INSTANT (R506). -/
  | controlInstant (x : PowerMeas)
  /-- SHIFT_REPORT_DUE (R510). -/
  | shiftReportDue
  /-- SHIFT_ALLOCATION (R511). -/
  | shiftAllocation
  /-- SHIFT_REPLY_RECEIVED (R511). -/
  | shiftReplyReceived (e : Nat)
  /-- SHIFT_LEADER_SILENCE (R513). -/
  | shiftLeaderSilence
  /-- DROOP_DETECT (R514). -/
  | droopDetect (p : Nat)
  /-- DROOP_RECOVERY (R514). -/
  | droopRecovery (p : Nat)
  /-- BRAKE_ASSERT (R515). -/
  | brakeAssert
  /-- BRAKE_RELEASE (R515). -/
  | brakeRelease
  /-- THERMAL_SAMPLE (R516). -/
  | thermalSample (r : List (Option Int))
  /-- SUPPLY_TRIP (R551). -/
  | supplyTrip (rail volt set_ : Nat)
  /-- BURR_REPORT (R519). -/
  | burrReport (p b drift : Nat)
  /-- REPLAN (R520). -/
  | replan (m : Option Nat)
  /-- CAPTURE_SAMPLE (R524). -/
  | captureSample (u : Nat) (v : Int)
  /-- CAPTURE_CLEAR (R524). -/
  | captureClear (m u : Nat) (base : Bool) (v : Word)
  /-- EVENT_QUEUE_DRAIN (R531). -/
  | eventQueueDrain
  /-- LOG_HEAD_WRITE (R529). -/
  | logHeadWrite (m f : Nat) (v : Word)
  /-- LOG_RING_ENABLE (R526). -/
  | logRingEnable (m f : Nat) (v : Word)
  /-- ALARM_POP (R530). -/
  | alarmPop (m : Nat)
  /-- PG_IN_RISE (R533). -/
  | pgInRise (refsel : Bool)
  /-- RESET_N_RELEASE (R533). -/
  | resetNRelease
  /-- TOP_RESET_COLD (R534). -/
  | topResetCold (m : Nat)
  /-- TOP_RESET_WARM (R534). -/
  | topResetWarm (m : Nat)
  /-- WATCHDOG_EXPIRY (R533). -/
  | watchdogExpiry
  /-- BOOT_IMAGE_VERIFIED (R537). -/
  | bootImageVerified (readable ckptOk logOk : Bool) (rnd : Nat)
  /-- BOOT_READY (R536). -/
  | bootReady (hbmOk planOk fwOk : Bool)
  /-- STAGE (R538). -/
  | stage (m : Nat) (flashOk : Bool)
  /-- COMMIT (R538). -/
  | commit (m : Nat) (flashOk : Bool)
  /-- RAISE_SVN (R538). -/
  | raiseSvn (m : Nat)
  /-- MGMT_READ (R555). -/
  | mgmtRead (off : Nat) (aux : Bool)
  /-- TAP_BYPASS (R556). -/
  | tapBypass (tdi : List Bool)
  /-- TAP_IDCODE (R556). -/
  | tapIdcode
  /-- TAP_SAMPLE_PRELOAD (R556). -/
  | tapSamplePreload (n pins load : Nat)
  /-- TAP_EXTEST (R556). -/
  | tapExtest
  /-- REGISTER_READ (R6). -/
  | registerRead (m : Nat) (t : RegTgt) (n : Nat)
  /-- HOST_SNOOP (R42). -/
  | hostSnoop (line : Nat)
  /-- CONFIGURATION_REQUEST (R536). -/
  | configurationRequest (f : Nat) (r : CfgReq)
  /-- SHIFT_REPORT_RECEIVED (R510). -/
  | shiftReportReceived (node draw cap limit : Nat) (atMax : Bool) (steps late : Nat)
  /-- VIN_IN_RANGE (R550). -/
  | vinInRange
  deriving DecidableEq, Repr

end Sys2Proof
end

