-- ==== Sys2Proof/Machine/Map.lean ====
section
/-! DEFINITION. Finite maps and sets as canonical sorted lists. A map with a default (memory, registers) lists no
entry equal to the default, so that equal contents are equal lists. -/

namespace Sys2Proof.Machine

variable {α : Type}

/-- The entry at k. -/
def mget : Map α → Nat → Option α
  | [], _ => none
  | (a, v) :: t, k => if k = a then some v else mget t k

/-- The map with entry v at k. -/
def mput : Map α → Nat → α → Map α
  | [], k, v => [(k, v)]
  | (a, w) :: t, k, v =>
    if k < a then (k, v) :: (a, w) :: t
    else if k = a then (k, v) :: t
    else (a, w) :: mput t k v

/-- The map without an entry at k. -/
def mdel (m : Map α) (k : Nat) : Map α := m.filter fun e => e.1 ≠ k

/-- The map without the entries from lo up to, not including, hi. -/
def mclear (m : Map α) (lo hi : Nat) : Map α := m.filter fun e => ¬ (lo ≤ e.1 ∧ e.1 < hi)

/-- The map with the entry at k, or the given one where there is none, changed by f. -/
def mmod (m : Map α) (k : Nat) (d : α) (f : α → α) : Map α := mput m k (f ((mget m k).getD d))

/-- The map with the entry at k, if there is one, changed by f. -/
def mupd (m : Map α) (k : Nat) (f : α → α) : Map α :=
  m.map fun e => if e.1 = k then (e.1, f e.2) else e

/-- The value at k of a map whose unlisted keys hold d. -/
def dget (m : Map α) (d : α) (k : Nat) : α := (mget m k).getD d

/-- The map with value v at k, where unlisted keys hold d: no entry equal to d is listed. -/
def dput [DecidableEq α] (m : Map α) (d : α) (k : Nat) (v : α) : Map α :=
  if v = d then mdel m k else mput m k v

/-- The keys rise strictly. -/
def sorted : Map α → Bool
  | [] => true
  | [_] => true
  | a :: b :: t => decide (a.1 < b.1) && sorted (b :: t)

/-- The set with n in it. -/
def sins : NSet → Nat → NSet
  | [], n => [n]
  | a :: t, n => if n < a then n :: a :: t else if n = a then a :: t else a :: sins t n

/-- The set without n. -/
def sdel (s : NSet) (n : Nat) : NSet := s.filter (· ≠ n)

/-- The naturals from lo, n of them. -/
def range' (lo n : Nat) : List Nat := (List.range n).map (lo + ·)

/-- The first natural from lo, among n, that satisfies p. -/
def firstFrom (p : Nat → Bool) : Nat → Nat → Option Nat
  | _, 0 => none
  | lo, n + 1 => if p lo then some lo else firstFrom p (lo + 1) n

end Sys2Proof.Machine
end

