-- ==== Sys2Proof/Machine/Operands.lean ====
section
/-! DEFINITION. The words of the burin instruction set: fields, element types, and what makes an instruction word illegal
by itself (13_burin_isa.md R283-R286, 14_burin_opcodes.md). A word is a natural below 2^64. -/

namespace Sys2Proof.Machine

/-! ### Fields (Table 13-1) -/

/-- `OPC`. -/
def opc (w : Nat) : Nat := nbits w 63 56
/-- `FMT`. -/
def fmtOf (w : Nat) : Nat := nbits w 55 53
/-- `D` of formats R, I, L, M, X, C. -/
def rD (w : Nat) : Nat := nbits w 52 48
/-- `A` of formats R, I, M, X, C. -/
def rA (w : Nat) : Nat := nbits w 47 43
/-- `B` of formats R, M, X. -/
def rB (w : Nat) : Nat := nbits w 42 38
/-- `C` of format R. -/
def rC (w : Nat) : Nat := nbits w 37 33
/-- `A` of format B. -/
def bA (w : Nat) : Nat := nbits w 52 48
/-- `B` of format B. -/
def bB (w : Nat) : Nat := nbits w 47 43
/-- `IMM` of formats I, X and `OFF` of format B, as 32 bits. -/
def imm32 (w : Nat) : Nat := nbits w 31 0
/-- `IMM` sign-extended to 64 bits. -/
def immS (w : Nat) : Nat := wrap 64 (sgn 32 (imm32 w))
/-- `IMM48` of format L, sign-extended. -/
def imm48 (w : Nat) : Nat := wrap 64 (sgn 48 (nbits w 47 0))
/-- `CR` of format C. -/
def crOf (w : Nat) : Nat := nbits w 7 0
/-- `RND` of format R. -/
def rndF (w : Nat) : Nat := nbits w 23 20
/-- `TYPE` of format R. -/
def typR (w : Nat) : Nat := nbits w 28 24
/-- `TYPE` of format M. -/
def typM (w : Nat) : Nat := nbits w 29 24
/-- `MV` and `M` of format R. -/
def mvR (w : Nat) : Bool := nbit w 32
@[inherit_doc mvR] def mR (w : Nat) : Nat := nbits w 31 29
/-- `MV` and `M` of format M. -/
def mvM (w : Nat) : Bool := nbit w 33
@[inherit_doc mvM] def mM (w : Nat) : Nat := nbits w 32 30
/-- `SH` of format M. -/
def shM (w : Nat) : Nat := nbits w 37 34
/-- `DISP` of format M. -/
def dispM (w : Nat) : Int := sgn 24 (nbits w 23 0)

/-! ### Element types -/

/-- Element formats (R285). -/
inductive Elt where
  | i64 | i32 | i8 | i16 | f64 | f32 | f16 | bf16 | e4m3 | e5m2 | bs8 | bs4
  deriving DecidableEq, Repr

/-- The element format of a `TYPE` code. -/
def Elt.ofCode : Nat → Option Elt
  | 0 => some .i64
  | 1 => some .i32
  | 2 => some .i8
  | 3 => some .i16
  | 8 => some .f64
  | 9 => some .f32
  | 10 => some .f16
  | 11 => some .bf16
  | 12 => some .e4m3
  | 13 => some .e5m2
  | 16 => some .bs8
  | 17 => some .bs4
  | _ => none

/-- Bits of an element. -/
def Elt.width : Elt → Nat
  | .i64 | .f64 => 64
  | .i32 | .f32 => 32
  | .i16 | .f16 | .bf16 => 16
  | .i8 | .e4m3 | .e5m2 | .bs8 => 8
  | .bs4 => 4

/-- Whether a `TYPE` code is one of the types given. -/
def tyIn (c : Nat) (l : List Elt) : Bool := (Elt.ofCode c).any l.contains

/-- Bytes of a scalar access (R319). -/
def scalarSize (c : Nat) : Nat :=
  match c with
  | 0 => 8
  | 1 => 4
  | 2 => 1
  | _ => 2

/-! ### Classes and slots (R284, Table 13-11) -/

/-- Kinds of core, as the profiles tell them apart. -/
inductive CoreKind where
  | burin | seq | tport
  deriving DecidableEq, Repr

/-- Whether an opcode of the S slot is defined. -/
def sDefined (o : Nat) : Bool :=
  decide (o ≤ 0x15) || (decide (0x18 ≤ o) && decide (o ≤ 0x21)) || (decide (0x28 ≤ o) && decide (o ≤ 0x33)) ||
  (decide (0x38 ≤ o) && decide (o ≤ 0x3F) && decide (o ≠ 0x3B)) || (decide (0x40 ≤ o) && decide (o ≤ 0x51)) ||
  (decide (0x58 ≤ o) && decide (o ≤ 0x5B))

/-- Whether an opcode of the V slot is defined. -/
def vDefined (o : Nat) : Bool :=
  (decide (0x80 ≤ o) && decide (o ≤ 0x8A)) || (decide (0x8C ≤ o) && decide (o ≤ 0x91)) ||
  (decide (0x94 ≤ o) && decide (o ≤ 0xA5)) || (decide (0xA8 ≤ o) && decide (o ≤ 0xAE)) ||
  (decide (0xB0 ≤ o) && decide (o ≤ 0xB2)) || (decide (0xB8 ≤ o) && decide (o ≤ 0xBE)) ||
  (decide (0xC0 ≤ o) && decide (o ≤ 0xC5)) || (decide (0xD0 ≤ o) && decide (o ≤ 0xD4)) ||
  decide (o = 0xD8) || decide (o = 0xD9)

/-- The format an opcode uses; `SETMODE` takes two (Tables 14-1 to 14-14). -/
def fmtOk (o f : Nat) : Bool :=
  if 0x18 ≤ o ∧ o ≤ 0x1F ∨ o = 0x21 then f = 1
  else if o = 0x20 then f = 3
  else if 0x38 ≤ o ∧ o ≤ 0x3A then f = 4
  else if 0x3C ≤ o ∧ o ≤ 0x3F then f = 5
  else if 0x40 ≤ o ∧ o ≤ 0x46 then f = 2
  else if o = 0x48 ∨ o = 0x4D ∨ o = 0x4F ∨ o = 0x50 ∨ (0x58 ≤ o ∧ o ≤ 0x5B) then f = 1
  else if o = 0x49 then f = 0 || f = 1
  else if o = 0x4A ∨ o = 0x4B then f = 6
  else if 0xB8 ≤ o ∧ o ≤ 0xBE ∨ o = 0xC4 ∨ o = 0xC5 then f = 4
  else if 0xD0 ≤ o ∧ o ≤ 0xD4 then f = 1
  else f = 0

/-- Whether the reserved bits of a word's format are 0 (Table 13-1). -/
def reservedOk (w : Nat) : Bool :=
  match fmtOf w with
  | 0 => nbits w 19 0 = 0
  | 1 => nbits w 42 32 = 0
  | 2 => nbits w 42 32 = 0
  | 3 => true
  | 4 => true
  | 5 => nbits w 37 32 = 0
  | 6 => nbits w 42 8 = 0
  | _ => false

/-- The FP types of vector arithmetic (R324). -/
def vfp : List Elt := [.f64, .f32, .f16, .bf16]
/-- The integer types. -/
def ints : List Elt := [.i64, .i32, .i16, .i8]
/-- The types VCVT converts between (R326). -/
def cvtTypes : List Elt := [.f64, .f32, .f16, .bf16, .e4m3, .e5m2, .i32, .i8]
/-- The types that give an element width alone (R328). -/
def widthTypes : List Elt := [.i64, .i32, .i8, .i16, .f64, .f32, .f16, .bf16, .e4m3, .e5m2]

/-- The larger width over the smaller (R326). -/
def widthRatio (a b : Elt) : Nat := max a.width b.width / min a.width b.width

/-- Parts of a register in a block quantization (Table 14-8). -/
def blockParts (wide blk : Elt) : Nat := wide.width / blk.width

/-- Registers of a matrix operand (R331). -/
def mmaRegs (t : Elt) : Nat := t.width / 2

/-- Whether the types of a format R word are allowed for its opcode (chapter 14). -/
def typesOk (w : Nat) : Bool :=
  let o := opc w
  let t := typR w
  if o ≤ 0x15 then t = 0
  else if 0x28 ≤ o ∧ o ≤ 0x32 then tyIn t [.f64, .f32]
  else if o = 0x33 then tyIn t [.i64, .i32, .f64, .f32] && tyIn (rC w) [.i64, .i32, .f64, .f32]
  else if o < 0x80 then t = 0
  else if o = 0x81 ∨ o = 0x82 ∨ o = 0x83 ∨ o = 0x85 ∨ o = 0x86 then tyIn t (vfp ++ [.i8, .i16, .i32])
  else if o = 0x84 ∨ (0x87 ≤ o ∧ o ≤ 0x8A) then tyIn t vfp
  else if 0x8C ≤ o ∧ o ≤ 0x91 then tyIn t ints
  else if 0x94 ≤ o ∧ o ≤ 0x96 then tyIn t [.f64, .f32, .i32, .i64]
  else if o = 0x97 then tyIn t [.f64, .f32]
  else if o = 0x98 then
    (match Elt.ofCode t, Elt.ofCode (rC w) with
    | some a, some b => cvtTypes.contains a && cvtTypes.contains b && decide (mR w < widthRatio a b)
    | _, _ => false)
  else if 0x99 ≤ o ∧ o ≤ 0x9B then
    (match Elt.ofCode t, Elt.ofCode (rC w) with
    | some a, some b => [Elt.f32, .bf16].contains a && [Elt.bs8, .bs4].contains b && (decide (o = 0x99) || decide (mR w < blockParts a b))
    | _, _ => false)
  else if 0x9C ≤ o ∧ o ≤ 0x9E then tyIn t [.f64, .f32, .i32]
  else if 0xA0 ≤ o ∧ o ≤ 0xA5 then tyIn t widthTypes
  else if o = 0xB0 ∨ o = 0xB2 then tyIn t [.f64, .f32]
  else if o = 0xC0 then tyIn t [.bs4, .bs8, .e4m3, .e5m2, .i8, .f16, .bf16]
  else t = 0

/-- Whether an opcode of format R rounds, so that it takes an `RND` (R338). -/
def rounds (o : Nat) : Bool :=
  (decide (0x28 ≤ o) && decide (o ≤ 0x2D)) || decide (o = 0x33) || (decide (0x81 ≤ o) && decide (o ≤ 0x84)) ||
  decide (o = 0x89) || decide (o = 0x8A) || decide (o = 0x98) || decide (o = 0x9A) || decide (o = 0x9B) || decide (o = 0x9C) ||
  decide (o = 0xB2) || decide (o = 0xC0)

/-- Whether a V-slot opcode of format R may take a mask (R288, R325-R330). -/
def maskable (o : Nat) : Bool :=
  (decide (0x81 ≤ o) && decide (o ≤ 0x97)) || (decide (0x9C ≤ o) && decide (o ≤ 0x9E)) || (decide (0xA0 ≤ o) && decide (o ≤ 0xA3)) ||
  decide (o = 0xB0)

/-- Whether the mask fields of a V-slot word are as R288 and the opcode demand. -/
def maskOk (w : Nat) : Bool :=
  let o := opc w
  match fmtOf w with
  | 0 =>
    if 0x98 ≤ o ∧ o ≤ 0x9B then !mvR w
    else if o = 0xA1 then mvR w
    else if maskable o then mvR w || decide (mR w = 0)
    else !mvR w && decide (mR w = 0)
  | 4 =>
    if o = 0xC4 ∨ o = 0xC5 then !mvM w && decide (mM w = 0) else mvM w || decide (mM w = 0)
  | _ => true

/-- Whether the register fields that name a mask register or an accumulator, and the other operand rules of an opcode, hold
(chapters 13 and 14). -/
def operandsOk (w : Nat) : Bool :=
  let o := opc w
  let n := match Elt.ofCode (typR w) with | some t => mmaRegs t | none => 1
  if 0x1C ≤ o ∧ o ≤ 0x1E then nbits (imm32 w) 31 6 = 0
  else if 0x38 ≤ o ∧ o ≤ 0x3A then decide (typM w < 4)
  else if o = 0x46 then bB w = 0
  else if o = 0x48 then decide (rD w ≤ 1) && decide (nbits (imm32 w) 15 14 = 0) && decide (1 ≤ nbits (imm32 w) 13 0)
  else if o = 0x4A then decide (crOf w ≤ 10)
  else if o = 0x4B then decide (1 ≤ crOf w) && decide (crOf w ≤ 8)
  else if o = 0x4D then nbits (imm32 w) 31 4 = 0
  else if 0x58 ≤ o ∧ o ≤ 0x5B then nbits (imm32 w) 31 3 = 0
  else if 0x94 ≤ o ∧ o ≤ 0x97 then decide (rD w < 8)
  else if 0xA8 ≤ o ∧ o ≤ 0xAA then decide (rD w < 8) && decide (rA w < 8) && decide (rB w < 8)
  else if o = 0xAB then decide (rD w < 8) && decide (rA w < 8)
  else if o = 0xAC then decide (rD w < 8)
  else if o = 0xAD ∨ o = 0xAE then decide (rA w < 8)
  else if o = 0xB8 ∨ o = 0xB9 then typM w = 0
  else if o = 0xBE then decide (typM w = 0) && decide (rD w % 2 = 0)
  else if o = 0xBA ∨ o = 0xBB then decide (shM w = 0) && tyIn (typM w) widthTypes
  else if o = 0xBC ∨ o = 0xBD then tyIn (typM w) [.i64, .i32, .f64, .f32]
  else if o = 0xC0 then
    decide (rD w < 4) && decide (rA w % n = 0) && decide (rB w % n = 0) && (tyIn (typR w) [.bs8, .bs4] || decide (rC w = 0))
  else if o = 0xC1 then decide (rD w < 4)
  else if o = 0xC2 then decide (rA w < 4) && decide (rC w < 16)
  else if o = 0xC3 then decide (rD w < 4) && decide (rC w < 16)
  else if o = 0xC4 ∨ o = 0xC5 then decide (rD w < 4) && decide (typM w = 0)
  else if 0xD0 ≤ o ∧ o ≤ 0xD4 then nbits (imm32 w) 31 2 = 0
  else true

/-- Whether a core of a kind executes an opcode (Table 13-11). -/
def inProfile (k : CoreKind) (o : Nat) : Bool :=
  match k with
  | .burin => decide (o ≠ 0xD0)
  | .seq => decide (o < 0x80) || decide (o = 0x80) || decide (0xD0 ≤ o)
  | .tport => (decide (o < 0x51)) || decide (o = 0x80)

/-- Whether a word is legal by itself in its slot (R286): defined there, in its format, with reserved bits 0, its types and
rounding allowed, within the profile. -/
def wordOk (k : CoreKind) (vslot : Bool) (w : Nat) : Bool :=
  let o := opc w
  (if vslot then vDefined o else sDefined o) && fmtOk o (fmtOf w) && reservedOk w && inProfile k o &&
  (decide (o ≠ 0) || decide (w = 0)) && (decide (o ≠ 0x80) || decide (w = 0x8000000000000000)) &&
  (decide (fmtOf w ≠ 0) || (typesOk w && decide (rndF w ≤ 5) && (rounds o || decide (rndF w = 0)))) &&
  (!vslot || maskOk w) && operandsOk w

/-! ### What an instruction writes and reads (R286, R293) -/

/-- A register an instruction names as its destination. -/
inductive RegName where
  | s (n : Nat)
  | v (n : Nat)
  | m (n : Nat)
  | a (n : Nat)
  deriving DecidableEq, Repr

/-- The registers a word writes; s0 takes no write (R289). -/
def dests (w : Nat) : List RegName :=
  let o := opc w
  let sd (n : Nat) : List RegName := if n = 0 then [] else [.s n]
  if o = 0 then []
  else if o ≤ 0x33 ∨ o = 0x38 ∨ o = 0x39 ∨ (0x3C ≤ o ∧ o ≤ 0x3F) then sd (rD w)
  else if o = 0x46 then sd (bA w)
  else if o = 0x47 ∨ o = 0x4A ∨ o = 0x5A ∨ o = 0x5B then sd (rD w)
  else if o < 0x81 then []
  else if (0x94 ≤ o ∧ o ≤ 0x97) ∨ (0xA8 ≤ o ∧ o ≤ 0xAC) then [.m (rD w)]
  else if o = 0x99 ∨ o = 0xA4 ∨ o = 0xAD ∨ o = 0xAE ∨ o = 0xD0 ∨ o = 0xD1 ∨ o = 0xD3 ∨ o = 0xD8 ∨ o = 0xD9 then sd (rD w)
  else if o = 0xB9 ∨ o = 0xBB ∨ o = 0xBD ∨ o = 0xC5 ∨ o = 0xD2 ∨ o = 0xD4 then []
  else if o = 0xBE then [.v (rD w), .v (rD w + 1)]
  else if o = 0xC0 ∨ o = 0xC1 ∨ o = 0xC3 ∨ o = 0xC4 then [.a (rD w)]
  else [.v (rD w)]

/-- Whether a word is a branch (Table 14-4). -/
def isBranch (w : Nat) : Bool := decide (0x40 ≤ opc w) && decide (opc w ≤ 0x47)

/-- The scalar registers a branch reads. -/
def branchReads (w : Nat) : List Nat :=
  if opc w = 0x46 then [] else if opc w = 0x47 then [rA w] else [bA w, bB w]

/-- Whether both slots write one register, or the V slot a scalar register that the S slot's branch reads (R286, Table
13-6). -/
def pairOk (sw vw : Nat) : Bool :=
  (dests sw).all (fun d => !(dests vw).contains d) &&
  (!isBranch sw || (branchReads sw).all fun n => !(dests vw).contains (.s n))

end Sys2Proof.Machine
end

