-- ==== Sys2Proof/Config.lean ====
section
/-! DEFINITION. What the spec leaves open, as constants without a body: nothing in Lean can evaluate them, and a
statement holds whatever they are. -/

namespace Sys2Proof.Config

/-- The n-th free value: a value that the spec does not state (log 1). -/
opaque freeValue : Nat → Word

/-- The set of the translation cache that an entry's tag selects (R65 gives no index function): function, space, PASID,
page size, page. -/
opaque xltSet : Nat → Nat → Nat → Nat → Nat → Nat

/-- The 14-bit hash of R150: source QP, destination QP, source node, destination node. -/
opaque udpHash : Nat → Nat → Nat → Nat → BitVec 14

/-- Where in a QP's context of 256 bytes its 64 bytes of congestion-control state lie, in units of 64 (R167 gives the address
to a program and states no place). -/
opaque ccStateSlot : BitVec 2

/-- The bytes of a TLP on an attach link: its kind, its fields, its data (the spec leaves them to PCIe; R409). -/
opaque tlpBytes : Nat → List Nat → List Byte → List Byte

/-- The configuration digest of R401 over the register fields it covers (key, value); the spec gives no serialization. -/
opaque cfgDigest : List (Nat × Nat) → BitVec 384

end Sys2Proof.Config
end

