-- ==== Sys2Proof/Machine/Regs.lean ====
section
/-! DEFINITION. The registers of the UV9: the key of each register (its DPA less 0x7F_0000_0000), its fields with
their places, access codes and reset values, and the table of them all, from the register tables of spec/ (the file and
line of each is in its docstring). A field whose reset the spec makes depend on the instance has its reset in
`resetOverride` (Machine/RegAccess.lean). `trig` is a W1S bit whose setting is a command of its own. -/

namespace Sys2Proof.Machine

/-- The access codes of Table 0-2 (00_scope.md R9), and `trig`: an action bit whose setting is a row of the table. -/
inductive Acc where
  | rw | ro | wo | w1c | w1s | rc | rwl | trig
  deriving DecidableEq, Repr

/-- A field: bits [hi:lo], access code, reset value. -/
structure Fld where
  hi : Nat
  lo : Nat
  acc : Acc
  rst : Nat
  deriving DecidableEq, Repr

/-- A register, or an array of registers: first key, (stride, count) of each index, fields. Reserved bits are in no
field, so they read 0 (R8). -/
structure RegDef where
  base : Nat
  dims : List (Nat × Nat)
  flds : List Fld
  deriving DecidableEq, Repr


/-- TOP_ID (00_scope.md line 22). -/
def Reg.topId : Nat := 0x0
def F.topId_device : Fld := ⟨39, 24, .ro, 9⟩
def F.topId_plates : Fld := ⟨23, 16, .ro, 0⟩
def F.topId_grade : Fld := ⟨15, 8, .ro, 0⟩
def F.topId_step_letter : Fld := ⟨7, 4, .ro, 2⟩
def F.topId_step_digit : Fld := ⟨3, 0, .ro, 0⟩

/-- HIF_PORT_CFGn (02_attach_ports.md line 235). -/
def Reg.hifPortCfg (n : Nat) : Nat := 0x1000000 + n * 256
def F.hifPortCfg_data_ro : Fld := ⟨6, 6, .rw, 0⟩
def F.hifPortCfg_cxl_en : Fld := ⟨5, 5, .rwl, 0⟩
def F.hifPortCfg_bifurcate : Fld := ⟨4, 4, .rwl, 0⟩
def F.hifPortCfg_max_rate : Fld := ⟨3, 1, .rwl, 0⟩
def F.hifPortCfg_link_en : Fld := ⟨0, 0, .rw, 1⟩

/-- HIF_PORT_STATUSn (02_attach_ports.md line 248). -/
def Reg.hifPortStatus (n : Nat) : Nat := 0x1000008 + n * 256
def F.hifPortStatus_down_count : Fld := ⟨47, 32, .ro, 0⟩
def F.hifPortStatus_down1 : Fld := ⟨20, 20, .w1c, 0⟩
def F.hifPortStatus_down0 : Fld := ⟨19, 19, .w1c, 0⟩
def F.hifPortStatus_cxl : Fld := ⟨18, 18, .ro, 0⟩
def F.hifPortStatus_width1 : Fld := ⟨17, 13, .ro, 0⟩
def F.hifPortStatus_width0 : Fld := ⟨12, 8, .ro, 0⟩
def F.hifPortStatus_rate1 : Fld := ⟨7, 5, .ro, 0⟩
def F.hifPortStatus_rate0 : Fld := ⟨4, 2, .ro, 0⟩
def F.hifPortStatus_up1 : Fld := ⟨1, 1, .ro, 0⟩
def F.hifPortStatus_up0 : Fld := ⟨0, 0, .ro, 0⟩

/-- HIF_WIN_BASE (02_attach_ports.md line 267). -/
def Reg.hifWinBase : Nat := 0x1000400
def F.hifWinBase_base : Fld := ⟨39, 26, .rw, 0⟩

/-- HIF_BIAS_CMD (02_attach_ports.md line 277). -/
def Reg.hifBiasCmd : Nat := 0x1000410
def F.hifBiasCmd_go : Fld := ⟨63, 63, .trig, 0⟩
def F.hifBiasCmd_to : Fld := ⟨38, 38, .rw, 0⟩
def F.hifBiasCmd_count : Fld := ⟨37, 22, .rw, 0⟩
def F.hifBiasCmd_page : Fld := ⟨21, 0, .rw, 0⟩

/-- HIF_BIAS_STATUS (02_attach_ports.md line 289). -/
def Reg.hifBiasStatus : Nat := 0x1000418
def F.hifBiasStatus_auto_flips : Fld := ⟨63, 32, .ro, 0⟩
def F.hifBiasStatus_err : Fld := ⟨1, 1, .w1c, 0⟩
def F.hifBiasStatus_busy : Fld := ⟨0, 0, .ro, 0⟩

/-- HIF_HOST_FLUSH (02_attach_ports.md line 300). -/
def Reg.hifHostFlush : Nat := 0x1000420
def F.hifHostFlush_addr : Fld := ⟨63, 3, .rw, 0⟩

/-- HIF_INB_OWNERn[s] (02_attach_ports.md line 309). -/
def Reg.hifInbOwner (n : Nat) (s : Nat) : Nat := 0x1010000 + n * 32768 + s * 8
def F.hifInbOwner_wr_en : Fld := ⟨12, 12, .rw, 0⟩
def F.hifInbOwner_master : Fld := ⟨11, 0, .rw, 4095⟩

/-- XLT_FN_CFGf (03_translation.md line 198). -/
def Reg.xltFnCfg (f : Nat) : Nat := 0x2000000 + f * 16
def F.xltFnCfg_miss_max : Fld := ⟨13, 8, .rw, 32⟩
def F.xltFnCfg_ways : Fld := ⟨7, 4, .rw, 0⟩
def F.xltFnCfg_dev_en : Fld := ⟨0, 0, .rw, 0⟩

/-- XLT_FN_ROOTf (03_translation.md line 210). -/
def Reg.xltFnRoot (f : Nat) : Nat := 0x2000008 + f * 16
def F.xltFnRoot_root : Fld := ⟨39, 12, .rw, 0⟩

/-- XLT_INV_CMDf (03_translation.md line 220). -/
def Reg.xltInvCmd (f : Nat) : Nat := 0x2008000 + f * 16
def F.xltInvCmd_go : Fld := ⟨63, 63, .trig, 0⟩
def F.xltInvCmd_scope : Fld := ⟨62, 61, .rw, 0⟩
def F.xltInvCmd_count : Fld := ⟨60, 43, .rw, 0⟩
def F.xltInvCmd_addr : Fld := ⟨42, 16, .rw, 0⟩

/-- XLT_INV_STATUSf (03_translation.md line 232). -/
def Reg.xltInvStatus (f : Nat) : Nat := 0x2008008 + f * 16
def F.xltInvStatus_err : Fld := ⟨2, 2, .w1c, 0⟩
def F.xltInvStatus_done : Fld := ⟨1, 1, .w1c, 0⟩
def F.xltInvStatus_busy : Fld := ⟨0, 0, .ro, 0⟩

/-- VFM_FN_CTRLf (04_tenancy.md line 220). -/
def Reg.vfmFnCtrl (f : Nat) : Nat := 0x3000000 + f * 64
def F.vfmFnCtrl_mtr_clr : Fld := ⟨7, 7, .trig, 0⟩
def F.vfmFnCtrl_scrub_busy : Fld := ⟨6, 6, .ro, 0⟩
def F.vfmFnCtrl_scrub : Fld := ⟨5, 5, .trig, 0⟩
def F.vfmFnCtrl_flr_busy : Fld := ⟨4, 4, .ro, 0⟩
def F.vfmFnCtrl_flr : Fld := ⟨3, 3, .trig, 0⟩
def F.vfmFnCtrl_err : Fld := ⟨2, 2, .w1c, 0⟩
def F.vfmFnCtrl_en : Fld := ⟨0, 0, .rw, 0⟩

/-- VFM_FN_PARTf (04_tenancy.md line 236). -/
def Reg.vfmFnPart (f : Nat) : Nat := 0x3000008 + f * 64
def F.vfmFnPart_size : Fld := ⟨43, 32, .rw, 0⟩
def F.vfmFnPart_base : Fld := ⟨11, 0, .rw, 0⟩

/-- VFM_FN_QPf (04_tenancy.md line 247). -/
def Reg.vfmFnQp (f : Nat) : Nat := 0x3000010 + f * 64
def F.vfmFnQp_hbm_wt : Fld := ⟨47, 40, .rw, 16⟩
def F.vfmFnQp_attach_wt : Fld := ⟨39, 32, .rw, 16⟩
def F.vfmFnQp_qp_count : Fld := ⟨24, 12, .rw, 0⟩
def F.vfmFnQp_qp_base : Fld := ⟨11, 0, .rw, 0⟩

/-- VFM_FN_QUOTAf (04_tenancy.md line 260). -/
def Reg.vfmFnQuota (f : Nat) : Nat := 0x3000018 + f * 64
def F.vfmFnQuota_msix : Fld := ⟨58, 52, .rw, 1⟩
def F.vfmFnQuota_grp : Fld := ⟨51, 39, .rw, 0⟩
def F.vfmFnQuota_sa : Fld := ⟨38, 26, .rw, 0⟩
def F.vfmFnQuota_reg : Fld := ⟨25, 13, .rw, 0⟩
def F.vfmFnQuota_wq : Fld := ⟨12, 0, .rw, 0⟩

/-- VFM_DLOG_BASEf[l] (04_tenancy.md line 273). -/
def Reg.vfmDlogBase (f : Nat) (l : Nat) : Nat := 0x3000020 + f * 64 + l * 8
def F.vfmDlogBase_en : Fld := ⟨63, 63, .rw, 0⟩
def F.vfmDlogBase_base : Fld := ⟨39, 12, .rw, 0⟩

/-- VFM_DLOG_CMDf (04_tenancy.md line 284). -/
def Reg.vfmDlogCmd (f : Nat) : Nat := 0x3000030 + f * 64
def F.vfmDlogCmd_go : Fld := ⟨63, 63, .trig, 0⟩
def F.vfmDlogCmd_log : Fld := ⟨8, 8, .rw, 0⟩
def F.vfmDlogCmd_active1 : Fld := ⟨3, 3, .ro, 0⟩
def F.vfmDlogCmd_active0 : Fld := ⟨2, 2, .ro, 0⟩
def F.vfmDlogCmd_err : Fld := ⟨1, 1, .w1c, 0⟩
def F.vfmDlogCmd_done : Fld := ⟨0, 0, .w1c, 0⟩

/-- VFM_PLATE_OWNERp (04_tenancy.md line 299). -/
def Reg.vfmPlateOwner (p : Nat) : Nat := 0x3020000 + p * 8
def F.vfmPlateOwner_faulted : Fld := ⟨13, 13, .ro, 0⟩
def F.vfmPlateOwner_scrubbing : Fld := ⟨12, 12, .ro, 0⟩
def F.vfmPlateOwner_owner : Fld := ⟨10, 0, .rw, 2047⟩

/-- WQE_POLL_SLICE (05_work_queues.md line 279). -/
def Reg.wqePollSlice : Nat := 0x4000000
def F.wqePollSlice_slice3 : Fld := ⟨31, 24, .rw, 16⟩
def F.wqePollSlice_slice2 : Fld := ⟨23, 16, .rw, 16⟩
def F.wqePollSlice_slice1 : Fld := ⟨15, 8, .rw, 16⟩
def F.wqePollSlice_slice0 : Fld := ⟨7, 0, .rw, 16⟩

/-- WQE_POLL_STATUSc (05_work_queues.md line 291). -/
def Reg.wqePollStatus (c : Nat) : Nat := 0x4000010 + c * 8
def F.wqePollStatus_overrun : Fld := ⟨63, 32, .rc, 0⟩
def F.wqePollStatus_demand : Fld := ⟨15, 0, .ro, 0⟩

/-- WQE_CMDf (05_work_queues.md line 301). -/
def Reg.wqeCmd (f : Nat) : Nat := 0x4010000 + f * 256
def F.wqeCmd_go : Fld := ⟨63, 63, .trig, 0⟩
def F.wqeCmd_status : Fld := ⟨55, 48, .ro, 0⟩
def F.wqeCmd_cmd : Fld := ⟨39, 32, .rw, 0⟩
def F.wqeCmd_obj : Fld := ⟨15, 0, .rw, 0⟩

/-- WQE_ARGf[i] (05_work_queues.md line 315). -/
def Reg.wqeArg (f : Nat) (i : Nat) : Nat := 0x4010040 + f * 256 + i * 8
def F.wqeArg_arg : Fld := ⟨63, 0, .rw, 0⟩

/-- WQE_CQ_ARMf (05_work_queues.md line 323). -/
def Reg.wqeCqArm (f : Nat) : Nat := 0x4010080 + f * 256
def F.wqeCqArm_mode : Fld := ⟨48, 48, .wo, 0⟩
def F.wqeCqArm_head : Fld := ⟨47, 16, .wo, 0⟩
def F.wqeCqArm_cqn : Fld := ⟨15, 0, .wo, 0⟩

/-- WQE_WQ_KICKf (05_work_queues.md line 334). -/
def Reg.wqeWqKick (f : Nat) : Nat := 0x4010088 + f * 256
def F.wqeWqKick_wqn : Fld := ⟨15, 0, .wo, 0⟩

/-- QPE_CTX_BASE (06_remote_memory.md line 257). -/
def Reg.qpeCtxBase : Nat := 0x5000000
def F.qpeCtxBase_lock : Fld := ⟨63, 63, .w1s, 0⟩
def F.qpeCtxBase_base : Fld := ⟨39, 26, .rwl, 0⟩

/-- QPE_TRK_STATUS (06_remote_memory.md line 268). -/
def Reg.qpeTrkStatus : Nat := 0x5000008
def F.qpeTrkStatus_stalls : Fld := ⟨63, 40, .rc, 0⟩
def F.qpeTrkStatus_refused : Fld := ⟨39, 20, .rc, 0⟩
def F.qpeTrkStatus_in_use : Fld := ⟨19, 0, .ro, 0⟩

/-- QPE_FN_TRKf (06_remote_memory.md line 276). -/
def Reg.qpeFnTrk (f : Nat) : Nat := 0x5001000 + f * 8
def F.qpeFnTrk_max : Fld := ⟨25, 16, .rw, 512⟩
def F.qpeFnTrk_res : Fld := ⟨9, 0, .rw, 0⟩

/-- QPE_CMDf (06_remote_memory.md line 285). -/
def Reg.qpeCmd (f : Nat) : Nat := 0x5010000 + f * 256
def F.qpeCmd_go : Fld := ⟨63, 63, .trig, 0⟩
def F.qpeCmd_status : Fld := ⟨55, 48, .ro, 0⟩
def F.qpeCmd_cmd : Fld := ⟨39, 32, .rw, 0⟩
def F.qpeCmd_obj : Fld := ⟨23, 0, .rw, 0⟩

/-- QPE_ARGf[i] (06_remote_memory.md line 297). -/
def Reg.qpeArg (f : Nat) (i : Nat) : Nat := 0x5010040 + f * 256 + i * 8
def F.qpeArg_arg : Fld := ⟨63, 0, .rw, 0⟩

/-- QPE_REVOKEf (06_remote_memory.md line 334). -/
def Reg.qpeRevoke (f : Nat) : Nat := 0x5010080 + f * 256
def F.qpeRevoke_go : Fld := ⟨63, 63, .trig, 0⟩
def F.qpeRevoke_done : Fld := ⟨62, 62, .w1c, 0⟩
def F.qpeRevoke_err : Fld := ⟨61, 61, .w1c, 0⟩
def F.qpeRevoke_status : Fld := ⟨55, 48, .ro, 0⟩
def F.qpeRevoke_gen : Fld := ⟨31, 24, .ro, 0⟩
def F.qpeRevoke_index : Fld := ⟨23, 0, .rw, 0⟩

/-- UMT_CFG (07_transport.md line 322). -/
def Reg.umtCfg : Nat := 0x6000000
def F.umtCfg_lock : Fld := ⟨63, 63, .w1s, 0⟩
def F.umtCfg_rto_max_e : Fld := ⟨47, 43, .rw, 18⟩
def F.umtCfg_rto_am_e : Fld := ⟨42, 38, .rw, 2⟩
def F.umtCfg_rto_eth_e : Fld := ⟨37, 33, .rw, 4⟩
def F.umtCfg_ack_delay : Fld := ⟨32, 25, .rw, 125⟩
def F.umtCfg_ack_coal : Fld := ⟨24, 21, .rw, 8⟩
def F.umtCfg_max_pay : Fld := ⟨17, 16, .rw, 0⟩
def F.umtCfg_udp_port : Fld := ⟨15, 0, .rwl, 18975⟩

/-- UMT_PORTn (07_transport.md line 339). -/
def Reg.umtPort (n : Nat) : Nat := 0x6000100 + n * 32
def F.umtPort_gw_mac : Fld := ⟨63, 16, .rw, 0⟩
def F.umtPort_ip6_en : Fld := ⟨3, 3, .rw, 0⟩
def F.umtPort_ip4_en : Fld := ⟨2, 2, .rw, 0⟩
def F.umtPort_up : Fld := ⟨1, 1, .ro, 0⟩
def F.umtPort_en : Fld := ⟨0, 0, .rw, 0⟩

/-- UMT_IP6n_HI (07_transport.md line 352). -/
def Reg.umtIp6nHi (n : Nat) : Nat := 0x6000108 + n * 32
def F.umtIp6nHi_addr_hi : Fld := ⟨63, 0, .rw, 0⟩

/-- UMT_IP6n_LO (07_transport.md line 360). -/
def Reg.umtIp6nLo (n : Nat) : Nat := 0x6000110 + n * 32
def F.umtIp6nLo_addr_lo : Fld := ⟨63, 0, .rw, 0⟩

/-- UMT_IP4n (07_transport.md line 368). -/
def Reg.umtIp4 (n : Nat) : Nat := 0x6000118 + n * 32
def F.umtIp4_addr : Fld := ⟨31, 0, .rw, 0⟩

/-- UMT_DSCP (07_transport.md line 377). -/
def Reg.umtDscp : Nat := 0x6000300
def F.umtDscp_dscp : Fld := ⟨47, 0, .rw, 0⟩

/-- UMT_CC_CTRL (07_transport.md line 386). -/
def Reg.umtCcCtrl : Nat := 0x6000400
def F.umtCcCtrl_swap : Fld := ⟨63, 63, .trig, 0⟩
def F.umtCcCtrl_load_err : Fld := ⟨62, 62, .w1c, 0⟩
def F.umtCcCtrl_active : Fld := ⟨0, 0, .ro, 0⟩

/-- UMT_CC_STATUS (07_transport.md line 397). -/
def Reg.umtCcStatus : Nat := 0x6000408
def F.umtCcStatus_overrun : Fld := ⟨63, 32, .rc, 0⟩
def F.umtCcStatus_merged : Fld := ⟨31, 0, .rc, 0⟩

/-- UMT_CC_HASH[i] (07_transport.md line 406). -/
def Reg.umtCcHash (i : Nat) : Nat := 0x6000440 + i * 8
def F.umtCcHash_hash : Fld := ⟨63, 0, .rw, 0⟩

/-- UMT_CC_PARAM[i] (07_transport.md line 408). -/
def Reg.umtCcParam (i : Nat) : Nat := 0x6000500 + i * 8
def F.umtCcParam_param : Fld := ⟨63, 0, .rw, 0⟩

/-- UMT_DROP[r] (07_transport.md line 410). -/
def Reg.umtDrop (r : Nat) : Nat := 0x6000600 + r * 8
def F.umtDrop_count : Fld := ⟨63, 0, .rc, 0⟩

/-- UMT_CC_IMEM (07_transport.md line 412). -/
def Reg.umtCcImem : Nat := 0x6100000
def F.umtCcImem_word : Fld := ⟨63, 0, .wo, 0⟩

/-- FAB_CTRL (08_amholt_fabric.md line 432). -/
def Reg.fabCtrl : Nat := 0x7000000
def F.fabCtrl_lock : Fld := ⟨63, 63, .w1s, 0⟩
def F.fabCtrl_stall_ms : Fld := ⟨55, 48, .rw, 10⟩
def F.fabCtrl_drain_us : Fld := ⟨47, 40, .rw, 100⟩
def F.fabCtrl_lead : Fld := ⟨39, 32, .rw, 15⟩
def F.fabCtrl_auto_route : Fld := ⟨17, 17, .rw, 1⟩
def F.fabCtrl_inj_state : Fld := ⟨16, 16, .ro, 0⟩
def F.fabCtrl_node_id : Fld := ⟨15, 0, .rwl, 0⟩

/-- FAB_GEOM (08_amholt_fabric.md line 448). -/
def Reg.fabGeom : Nat := 0x7000008
def F.fabGeom_dims : Fld := ⟨50, 48, .rwl, 4⟩
def F.fabGeom_size : Fld := ⟨47, 0, .rwl, 0⟩

/-- FAB_FLIP (08_amholt_fabric.md line 458). -/
def Reg.fabFlip : Nat := 0x7000040
def F.fabFlip_arm : Fld := ⟨63, 63, .trig, 0⟩
def F.fabFlip_err : Fld := ⟨62, 62, .w1c, 0⟩
def F.fabFlip_old_held : Fld := ⟨47, 16, .ro, 0⟩
def F.fabFlip_to : Fld := ⟨0, 0, .rw, 0⟩

/-- FAB_FLIP_TIME (08_amholt_fabric.md line 471). -/
def Reg.fabFlipTime : Nat := 0x7000048
def F.fabFlipTime_time : Fld := ⟨63, 0, .rw, 0⟩

/-- FAB_PORTn (08_amholt_fabric.md line 479). -/
def Reg.fabPort (n : Nat) : Nat := 0x7000100 + n * 32
def F.fabPort_exp_node : Fld := ⟨63, 48, .rw, 0⟩
def F.fabPort_exp_en : Fld := ⟨47, 47, .rw, 0⟩
def F.fabPort_asym : Fld := ⟨31, 16, .rw, 0⟩
def F.fabPort_dateline : Fld := ⟨7, 7, .rw, 0⟩
def F.fabPort_dir : Fld := ⟨6, 6, .rw, 0⟩
def F.fabPort_dim : Fld := ⟨5, 3, .rw, 0⟩
def F.fabPort_en : Fld := ⟨0, 0, .rw, 0⟩

/-- FAB_PORT_STATUSn (08_amholt_fabric.md line 496). -/
def Reg.fabPortStatus (n : Nat) : Nat := 0x7000108 + n * 32
def F.fabPortStatus_peer_node : Fld := ⟨63, 48, .ro, 0⟩
def F.fabPortStatus_peer_port : Fld := ⟨47, 44, .ro, 0⟩
def F.fabPortStatus_lstate : Fld := ⟨43, 41, .ro, 0⟩
def F.fabPortStatus_down_reason : Fld := ⟨40, 38, .ro, 0⟩
def F.fabPortStatus_last_good_seq : Fld := ⟨37, 26, .ro, 0⟩
def F.fabPortStatus_last_ack_seq : Fld := ⟨25, 14, .ro, 0⟩
def F.fabPortStatus_rtt : Fld := ⟨13, 0, .ro, 0⟩

/-- FAB_PORT_ERRn (08_amholt_fabric.md line 510). -/
def Reg.fabPortErr (n : Nat) : Nat := 0x7000110 + n * 32
def F.fabPortErr_bad_cells : Fld := ⟨63, 32, .rc, 0⟩
def F.fabPortErr_resends : Fld := ⟨31, 16, .rc, 0⟩
def F.fabPortErr_down_count : Fld := ⟨15, 0, .ro, 0⟩

/-- FAB_DROP[r] (08_amholt_fabric.md line 520). -/
def Reg.fabDrop (r : Nat) : Nat := 0x7000400 + r * 8
def F.fabDrop_count : Fld := ⟨63, 0, .rc, 0⟩

/-- FAB_RT[s][i] (08_amholt_fabric.md line 533). -/
def Reg.fabRt (s : Nat) (i : Nat) : Nat := 0x7100000 + s * 131072 + i * 8
def F.fabRt_e0 : Fld := ⟨4, 0, .rw, 15⟩
def F.fabRt_e1 : Fld := ⟨20, 16, .rw, 15⟩
def F.fabRt_e2 : Fld := ⟨36, 32, .rw, 15⟩
def F.fabRt_e3 : Fld := ⟨52, 48, .rw, 15⟩

/-- MAC_QUADn (09_ethernet_ports.md line 157). -/
def Reg.macQuad (n : Nat) : Nat := 0x8000000 + n * 4096
def F.macQuad_tx_thresh : Fld := ⟨57, 52, .rw, 4⟩
def F.macQuad_max_frame : Fld := ⟨45, 32, .rw, 9216⟩
def F.macQuad_ptp_fw : Fld := ⟨8, 8, .rw, 1⟩
def F.macQuad_bcast_en : Fld := ⟨7, 7, .rw, 1⟩
def F.macQuad_an_en : Fld := ⟨6, 6, .rw, 0⟩
def F.macQuad_media : Fld := ⟨5, 5, .rw, 0⟩
def F.macQuad_speed : Fld := ⟨4, 3, .rw, 0⟩
def F.macQuad_up : Fld := ⟨2, 2, .ro, 0⟩
def F.macQuad_mode : Fld := ⟨1, 0, .rw, 0⟩

/-- MAC_ADDRn[i] (09_ethernet_ports.md line 176). -/
def Reg.macAddr (n : Nat) (i : Nat) : Nat := 0x8000100 + n * 4096 + i * 8
def F.macAddr_en : Fld := ⟨63, 63, .rw, 0⟩
def F.macAddr_addr : Fld := ⟨47, 0, .rw, 0⟩

/-- MAC_RAW_IDXn (09_ethernet_ports.md line 198). -/
def Reg.macRawIdx (n : Nat) : Nat := 0x8000210 + n * 4096
def F.macRawIdx_tx_done : Fld := ⟨63, 48, .ro, 0⟩
def F.macRawIdx_tx_tail : Fld := ⟨47, 32, .rw, 0⟩
def F.macRawIdx_rx_prod : Fld := ⟨31, 16, .ro, 0⟩
def F.macRawIdx_rx_head : Fld := ⟨15, 0, .rw, 0⟩

/-- MAC_STATn[i] (09_ethernet_ports.md line 209). -/
def Reg.macStat (n : Nat) (i : Nat) : Nat := 0x8000400 + n * 4096 + i * 8
def F.macStat_count : Fld := ⟨63, 0, .rc, 0⟩

/-- MAC_PPS (09_ethernet_ports.md line 211). -/
def Reg.macPps : Nat := 0x800F000
def F.macPps_out_en : Fld := ⟨63, 63, .rw, 0⟩
def F.macPps_width : Fld := ⟨55, 48, .rw, 10⟩
def F.macPps_in_count : Fld := ⟨47, 32, .ro, 0⟩

/-- MAC_PPS_IN (09_ethernet_ports.md line 223). -/
def Reg.macPpsIn : Nat := 0x800F008
def F.macPpsIn_time : Fld := ⟨63, 0, .ro, 0⟩

/-- TIM_NOW (10_time_and_gates.md line 174). -/
def Reg.timNow : Nat := 0x9000000
def F.timNow_ns : Fld := ⟨63, 0, .ro, 0⟩

/-- TIM_NOW_FRAC (10_time_and_gates.md line 176). -/
def Reg.timNowFrac : Nat := 0x9000008
def F.timNowFrac_frac : Fld := ⟨15, 0, .ro, 0⟩

/-- TIM_CTRL (10_time_and_gates.md line 178). -/
def Reg.timCtrl : Nat := 0x9000010
def F.timCtrl_lock_tbl : Fld := ⟨63, 63, .w1s, 0⟩
def F.timCtrl_role : Fld := ⟨62, 61, .rwl, 0⟩
def F.timCtrl_src : Fld := ⟨60, 59, .rw, 0⟩
def F.timCtrl_open_unlocked : Fld := ⟨58, 58, .rw, 0⟩
def F.timCtrl_ptp_port : Fld := ⟨57, 54, .rw, 0⟩
def F.timCtrl_ptp_domain : Fld := ⟨53, 46, .rw, 0⟩
def F.timCtrl_lock_ns : Fld := ⟨45, 40, .rw, 2⟩
def F.timCtrl_step : Fld := ⟨39, 32, .rw, 125⟩
def F.timCtrl_backup_node : Fld := ⟨31, 16, .rwl, 0⟩
def F.timCtrl_root_node : Fld := ⟨15, 0, .rwl, 0⟩

/-- TIM_STATUS (10_time_and_gates.md line 195). -/
def Reg.timStatus : Nat := 0x9000018
def F.timStatus_eff_root : Fld := ⟨63, 48, .ro, 0⟩
def F.timStatus_offset : Fld := ⟨47, 32, .ro, 0⟩
def F.timStatus_steps : Fld := ⟨31, 16, .ro, 0⟩
def F.timStatus_parent : Fld := ⟨7, 4, .ro, 15⟩
def F.timStatus_holdover : Fld := ⟨3, 3, .ro, 0⟩
def F.timStatus_lock_chg : Fld := ⟨1, 1, .w1c, 0⟩
def F.timStatus_lock : Fld := ⟨0, 0, .ro, 0⟩

/-- TIM_RATE (10_time_and_gates.md line 211). -/
def Reg.timRate : Nat := 0x9000020
def F.timRate_rate : Fld := ⟨31, 0, .rw, 0⟩

/-- TIM_SET (10_time_and_gates.md line 213). -/
def Reg.timSet : Nat := 0x9000028
def F.timSet_ns : Fld := ⟨63, 0, .wo, 0⟩

/-- TIM_SNAP_CTRL (10_time_and_gates.md line 215). -/
def Reg.timSnapCtrl : Nat := 0x9000040
def F.timSnapCtrl_arm : Fld := ⟨63, 63, .trig, 0⟩
def F.timSnapCtrl_period : Fld := ⟨31, 0, .rw, 0⟩

/-- TIM_SNAP_TIME (10_time_and_gates.md line 217). -/
def Reg.timSnapTime : Nat := 0x9000048
def F.timSnapTime_time : Fld := ⟨63, 0, .rw, 0⟩

/-- TIM_SNAP_STATUS (10_time_and_gates.md line 219). -/
def Reg.timSnapStatus : Nat := 0x9000050
def F.timSnapStatus_seq : Fld := ⟨63, 32, .ro, 0⟩
def F.timSnapStatus_unlocked : Fld := ⟨0, 0, .ro, 0⟩

/-- TIM_HL_CTRLn (10_time_and_gates.md line 221). -/
def Reg.timHlCtrl (n : Nat) : Nat := 0x9001000 + n * 64
def F.timHlCtrl_swap : Fld := ⟨63, 63, .trig, 0⟩
def F.timHlCtrl_err : Fld := ⟨62, 62, .w1c, 0⟩
def F.timHlCtrl_active : Fld := ⟨61, 61, .ro, 0⟩
def F.timHlCtrl_en : Fld := ⟨60, 60, .rw, 0⟩
def F.timHlCtrl_guard : Fld := ⟨47, 32, .rw, 16⟩

/-- TIM_HL_CYCLEn[b] (10_time_and_gates.md line 235). -/
def Reg.timHlCycle (n : Nat) (b : Nat) : Nat := 0x9001008 + n * 64 + b * 8
def F.timHlCycle_len : Fld := ⟨42, 32, .rw, 1⟩
def F.timHlCycle_cycle : Fld := ⟨31, 0, .rw, 0⟩

/-- TIM_HL_BASEn[b] (10_time_and_gates.md line 245). -/
def Reg.timHlBase (n : Nat) (b : Nat) : Nat := 0x9001018 + n * 64 + b * 8
def F.timHlBase_base : Fld := ⟨63, 0, .rw, 0⟩

/-- TIM_HL_STATUSn (10_time_and_gates.md line 247). -/
def Reg.timHlStatus (n : Nat) : Nat := 0x9001028 + n * 64
def F.timHlStatus_overlong : Fld := ⟨63, 32, .rc, 0⟩
def F.timHlStatus_entry : Fld := ⟨9, 0, .ro, 0⟩

/-- TIM_HL_ENTn[b][i] (10_time_and_gates.md line 249). -/
def Reg.timHlEnt (n : Nat) (b : Nat) (i : Nat) : Nat := 0x9100000 + n * 16384 + b * 8192 + i * 8
def F.timHlEnt_mask : Fld := ⟨31, 24, .rw, 255⟩
def F.timHlEnt_duration : Fld := ⟨23, 0, .rw, 0⟩

/-- TIM_SHP_PORTn[t] (10_time_and_gates.md line 259). -/
def Reg.timShpPort (n : Nat) (t : Nat) : Nat := 0x9020000 + n * 64 + t * 8
def F.timShpPort_en : Fld := ⟨63, 63, .rw, 0⟩
def F.timShpPort_chg : Fld := ⟨62, 62, .rw, 0⟩
def F.timShpPort_burst : Fld := ⟨47, 32, .rw, 1⟩
def F.timShpPort_quantum : Fld := ⟨31, 16, .rw, 1⟩
def F.timShpPort_period : Fld := ⟨15, 0, .rw, 1⟩

/-- CIP_CTRL (11_cipher.md line 172). -/
def Reg.cipCtrl : Nat := 0xA000000
def F.cipCtrl_lock : Fld := ⟨63, 63, .w1s, 0⟩
def F.cipCtrl_clear_ok : Fld := ⟨62, 62, .rwl, 0⟩
def F.cipCtrl_kek_set : Fld := ⟨61, 61, .ro, 0⟩
def F.cipCtrl_auth_max : Fld := ⟨51, 32, .rw, 65536⟩
def F.cipCtrl_check_rx : Fld := ⟨5, 4, .rw, 1⟩
def F.cipCtrl_check_tx : Fld := ⟨1, 0, .rw, 1⟩

/-- CIP_CMD (11_cipher.md line 188). -/
def Reg.cipCmd : Nat := 0xA000008
def F.cipCmd_go : Fld := ⟨63, 63, .trig, 0⟩
def F.cipCmd_status : Fld := ⟨55, 48, .ro, 0⟩
def F.cipCmd_cmd : Fld := ⟨7, 0, .rw, 0⟩

/-- CIP_ARG[i] (11_cipher.md line 200). -/
def Reg.cipArg (i : Nat) : Nat := 0xA000040 + i * 8
def F.cipArg_arg : Fld := ⟨63, 0, .rw, 0⟩

/-- CIP_KEY_STAGE[i] (11_cipher.md line 218). -/
def Reg.cipKeyStage (i : Nat) : Nat := 0xA000100 + i * 8
def F.cipKeyStage_key : Fld := ⟨63, 0, .wo, 0⟩

/-- CIP_CORE_STATUS (11_cipher.md line 220). -/
def Reg.cipCoreStatus : Nat := 0xA000200
def F.cipCoreStatus_quar : Fld := ⟨63, 0, .ro, 0⟩

/-- CIP_STAT[i] (11_cipher.md line 228). -/
def Reg.cipStat (i : Nat) : Nat := 0xA000300 + i * 8
def F.cipStat_count : Fld := ⟨63, 0, .rc, 0⟩

/-- PLT_CTRL (12_plates.md line 258). -/
def Reg.pltCtrl (p : Nat) : Nat := 0x20000000 + p * 1048576
def F.pltCtrl_bar_stall_us : Fld := ⟨63, 48, .rw, 1000⟩
def F.pltCtrl_dmode : Fld := ⟨4, 4, .rw, 0⟩
def F.pltCtrl_reset : Fld := ⟨2, 2, .trig, 0⟩
def F.pltCtrl_stop : Fld := ⟨1, 1, .trig, 0⟩
def F.pltCtrl_start : Fld := ⟨0, 0, .trig, 0⟩

/-- PLT_STATUS (12_plates.md line 272). -/
def Reg.pltStatus (p : Nat) : Nat := 0x20000008 + p * 1048576
def F.pltStatus_running : Fld := ⟨63, 32, .ro, 0⟩
def F.pltStatus_load_result : Fld := ⟨26, 24, .ro, 0⟩
def F.pltStatus_end : Fld := ⟨20, 18, .ro, 0⟩
def F.pltStatus_spares : Fld := ⟨9, 8, .ro, 2⟩
def F.pltStatus_subst_pend : Fld := ⟨6, 6, .ro, 0⟩
def F.pltStatus_lost : Fld := ⟨5, 5, .ro, 0⟩
def F.pltStatus_loaded : Fld := ⟨4, 4, .ro, 0⟩
def F.pltStatus_scrubbing : Fld := ⟨3, 3, .ro, 0⟩
def F.pltStatus_exc : Fld := ⟨2, 2, .ro, 0⟩
def F.pltStatus_loading : Fld := ⟨1, 1, .ro, 0⟩
def F.pltStatus_run : Fld := ⟨0, 0, .ro, 0⟩

/-- PLT_LOAD (12_plates.md line 294). -/
def Reg.pltLoad (p : Nat) : Nat := 0x20000010 + p * 1048576
def F.pltLoad_addr : Fld := ⟨63, 6, .rw, 0⟩
def F.pltLoad_space : Fld := ⟨5, 4, .rw, 0⟩
def F.pltLoad_go : Fld := ⟨0, 0, .trig, 0⟩

/-- PLT_DIGEST[i] (12_plates.md line 305). -/
def Reg.pltDigest (p : Nat) (i : Nat) : Nat := 0x20000040 + p * 1048576 + i * 8
def F.pltDigest_digest : Fld := ⟨63, 0, .rw, 0⟩

/-- PLT_MAP[i] (12_plates.md line 307). -/
def Reg.pltMap (p : Nat) (i : Nat) : Nat := 0x20000080 + p * 1048576 + i * 8
def F.pltMap_phys : Fld := ⟨47, 0, .ro, 0⟩

/-- PLT_DISP[d] (12_plates.md line 316). -/
def Reg.pltDisp (p : Nat) (d : Nat) : Nat := 0x20000100 + p * 1048576 + d * 8
def F.pltDisp_next : Fld := ⟨63, 32, .ro, 0⟩
def F.pltDisp_limit : Fld := ⟨31, 0, .rw, 0⟩

/-- PLT_EXC (13_burin_isa.md line 316). -/
def Reg.pltExc (p : Nat) : Nat := 0x200000C0 + p * 1048576
def F.pltExc_epc : Fld := ⟨49, 32, .ro, 0⟩
def F.pltExc_cause : Fld := ⟨31, 24, .ro, 0⟩
def F.pltExc_ds : Fld := ⟨23, 23, .ro, 0⟩
def F.pltExc_shadow : Fld := ⟨22, 21, .ro, 0⟩
def F.pltExc_double : Fld := ⟨20, 20, .ro, 0⟩
def F.pltExc_seq : Fld := ⟨16, 16, .ro, 0⟩
def F.pltExc_burin : Fld := ⟨4, 0, .ro, 0⟩

/-- PLT_EXC_ADDR (13_burin_isa.md line 333). -/
def Reg.pltExcAddr (p : Nat) : Nat := 0x200000C8 + p * 1048576
def F.pltExcAddr_eaddr : Fld := ⟨63, 0, .ro, 0⟩

/-- COL_CMDf (16_collectives.md line 387). -/
def Reg.colCmd (f : Nat) : Nat := 0x11010000 + f * 256
def F.colCmd_go : Fld := ⟨63, 63, .trig, 0⟩
def F.colCmd_status : Fld := ⟨55, 48, .ro, 0⟩
def F.colCmd_cmd : Fld := ⟨39, 32, .rw, 0⟩
def F.colCmd_obj : Fld := ⟨11, 0, .rw, 0⟩

/-- COL_ARGf[i] (16_collectives.md line 401). -/
def Reg.colArg (f : Nat) (i : Nat) : Nat := 0x11010040 + f * 256 + i * 8
def F.colArg_arg : Fld := ⟨63, 0, .rw, 0⟩

/-- CPF_CTRL (17_reproducibility.md line 213). -/
def Reg.cpfCtrl : Nat := 0x10000000
def F.cpfCtrl_lock : Fld := ⟨63, 63, .w1s, 0⟩
def F.cpfCtrl_go : Fld := ⟨62, 62, .trig, 0⟩
def F.cpfCtrl_stop : Fld := ⟨61, 61, .trig, 0⟩
def F.cpfCtrl_role : Fld := ⟨60, 59, .rw, 0⟩
def F.cpfCtrl_rec : Fld := ⟨58, 58, .rw, 0⟩
def F.cpfCtrl_state_cmp : Fld := ⟨57, 57, .rw, 0⟩
def F.cpfCtrl_on_mismatch : Fld := ⟨56, 56, .rw, 0⟩
def F.cpfCtrl_tlinks : Fld := ⟨55, 44, .rw, 0⟩
def F.cpfCtrl_delay : Fld := ⟨35, 18, .rw, 12500⟩

/-- CPF_STATUS (17_reproducibility.md line 231). -/
def Reg.cpfStatus : Nat := 0x10000008
def F.cpfStatus_selftests : Fld := ⟨63, 48, .rc, 0⟩
def F.cpfStatus_fifo_kib : Fld := ⟨47, 32, .ro, 0⟩
def F.cpfStatus_end_cause : Fld := ⟨15, 12, .ro, 0⟩
def F.cpfStatus_state : Fld := ⟨1, 0, .ro, 0⟩

/-- CPF_ORIGIN (17_reproducibility.md line 244). -/
def Reg.cpfOrigin : Nat := 0x10000010
def F.cpfOrigin_time : Fld := ⟨63, 0, .rw, 0⟩

/-- CPF_CYCLE (17_reproducibility.md line 246). -/
def Reg.cpfCycle : Nat := 0x10000018
def F.cpfCycle_cycle : Fld := ⟨47, 0, .ro, 0⟩

/-- CPF_VERIFIED (17_reproducibility.md line 248). -/
def Reg.cpfVerified : Nat := 0x10000020
def F.cpfVerified_cycle : Fld := ⟨47, 0, .ro, 0⟩

/-- CPF_MISMATCH_LEAD[i] (17_reproducibility.md line 250). -/
def Reg.cpfMismatchLead (i : Nat) : Nat := 0x10000040 + i * 8
def F.cpfMismatchLead_word : Fld := ⟨63, 0, .ro, 0⟩

/-- CPF_VGEOMf (17_reproducibility.md line 259). -/
def Reg.cpfVgeom (f : Nat) : Nat := 0x10001000 + f * 8
def F.cpfVgeom_en : Fld := ⟨63, 63, .rw, 0⟩
def F.cpfVgeom_plates : Fld := ⟨6, 0, .rw, 0⟩

/-- PRF_CTRL (18_proofs.md line 262). -/
def Reg.prfCtrl : Nat := 0xF000000
def F.prfCtrl_lock : Fld := ⟨63, 63, .w1s, 0⟩
def F.prfCtrl_hb_en : Fld := ⟨48, 48, .rwl, 1⟩
def F.prfCtrl_sink_node : Fld := ⟨47, 32, .rw, 0⟩
def F.prfCtrl_loss_ms : Fld := ⟨15, 8, .rwl, 50⟩

/-- PRF_FAULT_STATUS (18_proofs.md line 276). -/
def Reg.prfFaultStatus : Nat := 0xF000008
def F.prfFaultStatus_sent : Fld := ⟨63, 32, .rc, 0⟩
def F.prfFaultStatus_suppressed : Fld := ⟨31, 0, .rc, 0⟩

/-- PRF_CMDf (18_proofs.md line 278). -/
def Reg.prfCmd (f : Nat) : Nat := 0xF010000 + f * 256
def F.prfCmd_go : Fld := ⟨63, 63, .trig, 0⟩
def F.prfCmd_status : Fld := ⟨55, 48, .ro, 0⟩
def F.prfCmd_cmd : Fld := ⟨39, 32, .rw, 0⟩
def F.prfCmd_obj : Fld := ⟨5, 0, .rw, 0⟩

/-- PRF_ARGf[i] (18_proofs.md line 292). -/
def Reg.prfArg (f : Nat) (i : Nat) : Nat := 0xF010040 + f * 256 + i * 8
def F.prfArg_arg : Fld := ⟨63, 0, .rw, 0⟩

/-- PRF_JOBf (18_proofs.md line 324). -/
def Reg.prfJob (f : Nat) : Nat := 0xF010080 + f * 256
def F.prfJob_lost_count : Fld := ⟨63, 48, .ro, 0⟩
def F.prfJob_coord : Fld := ⟨47, 32, .ro, 0⟩
def F.prfJob_flash_busy : Fld := ⟨3, 3, .ro, 0⟩
def F.prfJob_state : Fld := ⟨2, 0, .ro, 0⟩

/-- PRF_COMMITTEDf (18_proofs.md line 336). -/
def Reg.prfCommitted (f : Nat) : Nat := 0xF010088 + f * 256
def F.prfCommitted_proof : Fld := ⟨63, 0, .ro, 0⟩

/-- PRF_FLASHf (18_proofs.md line 338). -/
def Reg.prfFlash (f : Nat) : Nat := 0xF010090 + f * 256
def F.prfFlash_proof : Fld := ⟨63, 0, .ro, 0⟩

/-- PRF_PS_CMD (19_proof_store.md line 163). -/
def Reg.prfPsCmd : Nat := 0xF004000
def F.prfPsCmd_go : Fld := ⟨63, 63, .trig, 0⟩
def F.prfPsCmd_result : Fld := ⟨50, 48, .ro, 0⟩
def F.prfPsCmd_cmd : Fld := ⟨7, 0, .rw, 0⟩

/-- PRF_PS_ARG[i] (19_proof_store.md line 175). -/
def Reg.prfPsArg (i : Nat) : Nat := 0xF004040 + i * 8
def F.prfPsArg_arg : Fld := ⟨63, 0, .rw, 0⟩

/-- PRF_PS_HEALTH (19_proof_store.md line 189). -/
def Reg.prfPsHealth : Nat := 0xF004080
def F.prfPsHealth_state : Fld := ⟨63, 62, .ro, 0⟩
def F.prfPsHealth_holdup_low : Fld := ⟨61, 61, .ro, 0⟩
def F.prfPsHealth_dies_retired : Fld := ⟨55, 48, .ro, 0⟩
def F.prfPsHealth_spare_pct : Fld := ⟨47, 40, .ro, 100⟩
def F.prfPsHealth_used : Fld := ⟨39, 32, .ro, 0⟩
def F.prfPsHealth_free_seg : Fld := ⟨31, 16, .ro, 0⟩
def F.prfPsHealth_max_pe : Fld := ⟨15, 0, .ro, 0⟩

/-- PRF_PS_STAT[i] (19_proof_store.md line 204). -/
def Reg.prfPsStat (i : Nat) : Nat := 0xF004100 + i * 8
def F.prfPsStat_count : Fld := ⟨63, 0, .rc, 0⟩

/-- MBX_CTRL (20_mailboxes_interrupts.md line 178). -/
def Reg.mbxCtrl : Nat := 0xB000000
def F.mbxCtrl_lock : Fld := ⟨63, 63, .w1s, 0⟩

/-- MBX_CHANc (20_mailboxes_interrupts.md line 187). -/
def Reg.mbxChan (c : Nat) : Nat := 0xB001000 + c * 8
def F.mbxChan_en : Fld := ⟨63, 63, .rwl, 0⟩
def F.mbxChan_depth : Fld := ⟨59, 56, .rwl, 0⟩
def F.mbxChan_wake : Fld := ⟨55, 55, .rwl, 0⟩
def F.mbxChan_domain : Fld := ⟨54, 48, .rwl, 127⟩
def F.mbxChan_receiver : Fld := ⟨23, 12, .rwl, 4095⟩
def F.mbxChan_sender : Fld := ⟨11, 0, .rwl, 4095⟩

/-- ICU_CTRL (20_mailboxes_interrupts.md line 227). -/
def Reg.icuCtrl : Nat := 0xC000000
def F.icuCtrl_lock : Fld := ⟨63, 63, .w1s, 0⟩
def F.icuCtrl_svc_mode : Fld := ⟨0, 0, .rw, 1⟩

/-- ICU_LATCH_OVF (20_mailboxes_interrupts.md line 237). -/
def Reg.icuLatchOvf : Nat := 0xC000008
def F.icuLatchOvf_count : Fld := ⟨31, 0, .rc, 0⟩

/-- ICU_MSIX_DROP (20_mailboxes_interrupts.md line 239). -/
def Reg.icuMsixDrop : Nat := 0xC000010
def F.icuMsixDrop_count : Fld := ⟨31, 0, .rc, 0⟩

/-- ICU_SRCs (20_mailboxes_interrupts.md line 255). -/
def Reg.icuSrc (s : Nat) : Nat := 0xC010000 + s * 8
def F.icuSrc_en : Fld := ⟨63, 63, .rw, 0⟩
def F.icuSrc_insvc : Fld := ⟨62, 62, .ro, 0⟩
def F.icuSrc_pend : Fld := ⟨61, 61, .ro, 0⟩
def F.icuSrc_latch : Fld := ⟨60, 60, .ro, 0⟩
def F.icuSrc_trig : Fld := ⟨59, 59, .ro, 0⟩
def F.icuSrc_prio : Fld := ⟨55, 52, .rw, 0⟩
def F.icuSrc_host : Fld := ⟨50, 50, .rw, 0⟩
def F.icuSrc_core : Fld := ⟨49, 48, .rw, 0⟩
def F.icuSrc_fn : Fld := ⟨42, 32, .rw, 0⟩
def F.icuSrc_vec : Fld := ⟨10, 0, .rw, 0⟩

/-- PWR_CTRL (21_power.md line 285). -/
def Reg.pwrCtrl : Nat := 0xD000000
def F.pwrCtrl_lock : Fld := ⟨63, 63, .w1s, 0⟩
def F.pwrCtrl_shift_max : Fld := ⟨55, 48, .rw, 100⟩
def F.pwrCtrl_quantum : Fld := ⟨47, 40, .rw, 5⟩
def F.pwrCtrl_boost : Fld := ⟨39, 36, .rw, 2⟩
def F.pwrCtrl_shift_en : Fld := ⟨35, 35, .rw, 0⟩
def F.pwrCtrl_pool_node : Fld := ⟨31, 16, .rw, 0⟩
def F.pwrCtrl_droop_mv : Fld := ⟨15, 8, .rw, 40⟩
def F.pwrCtrl_guard : Fld := ⟨7, 0, .rw, 10⟩

/-- PWR_CAP (21_power.md line 302). -/
def Reg.pwrCap : Nat := 0xD000008
def F.pwrCap_brake_w : Fld := ⟨41, 32, .rw, 400⟩
def F.pwrCap_cap : Fld := ⟨9, 0, .rw, 1000⟩

/-- PWR_STATUS (21_power.md line 313). -/
def Reg.pwrStatus : Nat := 0xD000010
def F.pwrStatus_eff_cap : Fld := ⟨63, 54, .ro, 1000⟩
def F.pwrStatus_draw : Fld := ⟨53, 44, .ro, 0⟩
def F.pwrStatus_duty : Fld := ⟨43, 40, .ro, 15⟩
def F.pwrStatus_chg : Fld := ⟨7, 7, .w1c, 0⟩
def F.pwrStatus_sensor_fault : Fld := ⟨4, 4, .ro, 0⟩
def F.pwrStatus_throttle : Fld := ⟨3, 3, .ro, 0⟩
def F.pwrStatus_fallback : Fld := ⟨2, 2, .ro, 1⟩
def F.pwrStatus_brake : Fld := ⟨1, 1, .ro, 0⟩
def F.pwrStatus_cap_unreachable : Fld := ⟨0, 0, .ro, 0⟩

/-- PWR_REPLAN (21_power.md line 331). -/
def Reg.pwrReplan : Nat := 0xD000018
def F.pwrReplan_go : Fld := ⟨63, 63, .trig, 0⟩
def F.pwrReplan_done : Fld := ⟨62, 62, .w1c, 0⟩
def F.pwrReplan_changed : Fld := ⟨47, 32, .ro, 0⟩
def F.pwrReplan_retired : Fld := ⟨7, 0, .ro, 0⟩

/-- PWR_DOMAINd (21_power.md line 344). -/
def Reg.pwrDomain (d : Nat) : Nat := 0xD001000 + d * 8
def F.pwrDomain_err : Fld := ⟨3, 3, .w1c, 0⟩
def F.pwrDomain_state : Fld := ⟨2, 1, .ro, 0⟩
def F.pwrDomain_on : Fld := ⟨0, 0, .rw, 1⟩

/-- PWR_PLATEp (21_power.md line 355). -/
def Reg.pwrPlate (p : Nat) : Nat := 0xD002000 + p * 8
def F.pwrPlate_phase : Fld := ⟨63, 60, .ro, 0⟩
def F.pwrPlate_pref : Fld := ⟨59, 56, .ro, 15⟩
def F.pwrPlate_op : Fld := ⟨55, 52, .ro, 0⟩
def F.pwrPlate_floor : Fld := ⟨51, 48, .ro, 0⟩
def F.pwrPlate_kp : Fld := ⟨46, 40, .ro, 24⟩
def F.pwrPlate_duty : Fld := ⟨39, 36, .ro, 15⟩
def F.pwrPlate_therm : Fld := ⟨35, 32, .ro, 15⟩
def F.pwrPlate_droops : Fld := ⟨31, 0, .rc, 0⟩

/-- PWR_PREFf (21_power.md line 371). DESIGN CHOICE (log 56): the spec's offset 0x4000 + f × 8 meets PWR_THERMs for f = 512 to 603
and PWR_THERM_LIM[c] for f = 640 to 642; the sensors have those offsets, and these functions' words stand at 0xF0_0000 + f × 8. -/
def Reg.pwrPref (f : Nat) : Nat :=
  if (512 ≤ f ∧ f < 604) ∨ (640 ≤ f ∧ f < 643) then 0xDF00000 + f * 8 else 0xD004000 + f * 8
def F.pwrPref_pref : Fld := ⟨63, 0, .rw, 18446744073709551615⟩

/-- PWR_THERMs (21_power.md line 379). -/
def Reg.pwrTherm (s : Nat) : Nat := 0xD005000 + s * 8
def F.pwrTherm_fault : Fld := ⟨63, 63, .ro, 0⟩
def F.pwrTherm_max : Fld := ⟨47, 32, .rc, 0⟩
def F.pwrTherm_temp : Fld := ⟨15, 0, .ro, 0⟩

/-- PWR_THERM_LIM[c] (21_power.md line 391). -/
def Reg.pwrThermLim (c : Nat) : Nat := 0xD005400 + c * 8
def F.pwrThermLim_trip : Fld := ⟨31, 24, .rwl, 0⟩
def F.pwrThermLim_throttle : Fld := ⟨23, 16, .rw, 0⟩
def F.pwrThermLim_hyst : Fld := ⟨7, 0, .rw, 3⟩

/-- PWR_FPLAN[p][b][h] (21_power.md line 403). -/
def Reg.pwrFplan (p : Nat) (b : Nat) (h : Nat) : Nat := 0xD100000 + p * 1024 + b * 16 + h * 8
def F.pwrFplan_lim : Fld := ⟨47, 0, .ro, 0⟩

/-- PWR_BURR[p][b] (21_power.md line 412). -/
def Reg.pwrBurr (p : Nat) (b : Nat) : Nat := 0xD180000 + p * 512 + b * 8
def F.pwrBurr_retired : Fld := ⟨63, 63, .ro, 0⟩
def F.pwrBurr_drift_plan : Fld := ⟨47, 32, .ro, 0⟩
def F.pwrBurr_drift : Fld := ⟨15, 0, .ro, 0⟩

/-- MON_CTRL (22_monitors.md line 242). -/
def Reg.monCtrl : Nat := 0xE000000
def F.monCtrl_lock : Fld := ⟨63, 63, .w1s, 0⟩

/-- MON_LOG_STAT (22_monitors.md line 244). -/
def Reg.monLogStat : Nat := 0xE000008
def F.monLogStat_trace_dropped : Fld := ⟨63, 32, .rc, 0⟩
def F.monLogStat_lost_off : Fld := ⟨31, 0, .rc, 0⟩

/-- MON_LOG_NORING (22_monitors.md line 246). -/
def Reg.monLogNoring : Nat := 0xE000018
def F.monLogNoring_count : Fld := ⟨31, 0, .rc, 0⟩

/-- MON_ALARM_STAT (22_monitors.md line 248). -/
def Reg.monAlarmStat : Nat := 0xE000010
def F.monAlarmStat_pop : Fld := ⟨63, 63, .trig, 0⟩
def F.monAlarmStat_count : Fld := ⟨38, 32, .ro, 0⟩
def F.monAlarmStat_lost : Fld := ⟨31, 0, .rc, 0⟩

/-- MON_ALARM_RECi (22_monitors.md line 250). -/
def Reg.monAlarmRec (i : Nat) : Nat := 0xE000100 + i * 8
def F.monAlarmRec_word : Fld := ⟨63, 0, .ro, 0⟩

/-- MON_SNAP_OFF[i] (22_monitors.md line 252). -/
def Reg.monSnapOff (i : Nat) : Nat := 0xE000180 + i * 8
def F.monSnapOff_off : Fld := ⟨63, 0, .ro, 0⟩

/-- MON_ECCp (22_monitors.md line 254). -/
def Reg.monEcc (p : Nat) : Nat := 0xE003000 + p * 8
def F.monEcc_count : Fld := ⟨63, 0, .rc, 0⟩

/-- MON_LOGf (22_monitors.md line 258). -/
def Reg.monLog (f : Nat) : Nat := 0xE080000 + f * 32
def F.monLog_en : Fld := ⟨63, 63, .rw, 0⟩
def F.monLog_irq : Fld := ⟨62, 62, .rw, 0⟩
def F.monLog_log2 : Fld := ⟨57, 52, .rw, 8⟩
def F.monLog_vec : Fld := ⟨50, 40, .rw, 0⟩
def F.monLog_base : Fld := ⟨39, 12, .rw, 0⟩

/-- MON_LOG_IDXf (22_monitors.md line 273). -/
def Reg.monLogIdx (f : Nat) : Nat := 0xE080008 + f * 32
def F.monLogIdx_prod : Fld := ⟨63, 32, .ro, 0⟩
def F.monLogIdx_head : Fld := ⟨31, 0, .rw, 0⟩

/-- TOP_INC (23_boot_reset.md line 194). -/
def Reg.topInc : Nat := 0x8
def F.topInc_inc : Fld := ⟨15, 0, .ro, 0⟩

/-- TOP_RESET (23_boot_reset.md line 203). -/
def Reg.topReset : Nat := 0x10
def F.topReset_cold : Fld := ⟨63, 63, .trig, 0⟩
def F.topReset_warm : Fld := ⟨62, 62, .trig, 0⟩
def F.topReset_node_ovr_en : Fld := ⟨16, 16, .ro, 0⟩
def F.topReset_node_ovr : Fld := ⟨15, 0, .ro, 0⟩

/-- TOP_BOOT_STATUS (23_boot_reset.md line 215). -/
def Reg.topBootStatus : Nat := 0x18
def F.topBootStatus_ready : Fld := ⟨63, 63, .ro, 0⟩
def F.topBootStatus_stage : Fld := ⟨55, 48, .ro, 0⟩
def F.topBootStatus_error : Fld := ⟨47, 40, .ro, 0⟩
def F.topBootStatus_cause : Fld := ⟨39, 37, .ro, 0⟩
def F.topBootStatus_slot : Fld := ⟨36, 36, .ro, 0⟩
def F.topBootStatus_inc_random : Fld := ⟨35, 35, .ro, 0⟩
def F.topBootStatus_fallback : Fld := ⟨34, 34, .ro, 0⟩
def F.topBootStatus_version : Fld := ⟨31, 0, .ro, 0⟩

/-- TOP_FW_CMD (23_boot_reset.md line 232). -/
def Reg.topFwCmd : Nat := 0x20
def F.topFwCmd_go : Fld := ⟨63, 63, .trig, 0⟩
def F.topFwCmd_result : Fld := ⟨58, 56, .ro, 0⟩
def F.topFwCmd_cmd : Fld := ⟨7, 0, .rw, 0⟩

/-- TOP_FW_ARG (23_boot_reset.md line 244). -/
def Reg.topFwArg : Nat := 0x28
def F.topFwArg_length : Fld := ⟨63, 40, .rw, 0⟩
def F.topFwArg_dpa : Fld := ⟨39, 6, .rw, 0⟩

/-- VFM meters (Table 4-5) (04_tenancy.md line 311). -/
def Reg.vfmMeter (f : Nat) (i : Nat) : Nat := 0x3040000 + f * 256 + i * 8
def F.vfmMeter_count : Fld := ⟨63, 0, .ro, 0⟩

/-- shadows of the meters (04_tenancy.md line 311). -/
def Reg.vfmMeterShadow (f : Nat) (i : Nat) : Nat := 0x3040080 + f * 256 + i * 8
def F.vfmMeterShadow_count : Fld := ⟨63, 0, .ro, 0⟩

/-- MAC_RAW_RXn (09_ethernet_ports.md line 186). -/
def Reg.macRawRx (n : Nat) : Nat := 0x8000200 + n * 4096
def F.macRawRx_en : Fld := ⟨63, 63, .rw, 0⟩
def F.macRawRx_base : Fld := ⟨39, 12, .rw, 0⟩
def F.macRawRx_log2 : Fld := ⟨3, 0, .rw, 4⟩

/-- MAC_RAW_TXn (09_ethernet_ports.md line 186). -/
def Reg.macRawTx (n : Nat) : Nat := 0x8000208 + n * 4096
def F.macRawTx_en : Fld := ⟨63, 63, .rw, 0⟩
def F.macRawTx_base : Fld := ⟨39, 12, .rw, 0⟩
def F.macRawTx_log2 : Fld := ⟨3, 0, .rw, 4⟩

/-- shadows of MAC_STATn (09_ethernet_ports.md line 209). -/
def Reg.macStatShadow (n : Nat) (i : Nat) : Nat := 0x8000500 + n * 4096 + i * 8
def F.macStatShadow_count : Fld := ⟨63, 0, .ro, 0⟩

/-- shadows of CIP_STAT (11_cipher.md line 228). -/
def Reg.cipStatShadow (i : Nat) : Nat := 0xA000380 + i * 8
def F.cipStatShadow_count : Fld := ⟨63, 0, .ro, 0⟩

/-- shadows of PRF_PS_STAT (19_proof_store.md line 204). -/
def Reg.prfPsStatShadow (i : Nat) : Nat := 0xF004180 + i * 8
def F.prfPsStatShadow_count : Fld := ⟨63, 0, .ro, 0⟩

/-- shadows of MON_ECCp (22_monitors.md line 254). -/
def Reg.monEccShadow (p : Nat) : Nat := 0xE003200 + p * 8
def F.monEccShadow_count : Fld := ⟨63, 0, .ro, 0⟩

/-- MBX_TXc (Table 20-6) (20_mailboxes_interrupts.md line 206). -/
def Reg.mbxTx (c : Nat) : Nat := 0xB100000 + c * 64
def F.mbxTx_notice : Fld := ⟨63, 0, .wo, 0⟩

/-- MBX_TX_STATc (20_mailboxes_interrupts.md line 207). -/
def Reg.mbxTxStat (c : Nat) : Nat := 0xB100008 + c * 64
def F.mbxTxStat_drops : Fld := ⟨63, 32, .rc, 0⟩
def F.mbxTxStat_full : Fld := ⟨8, 8, .w1c, 0⟩
def F.mbxTxStat_credit : Fld := ⟨4, 0, .ro, 0⟩

/-- MBX_RXc (20_mailboxes_interrupts.md line 213). -/
def Reg.mbxRx (c : Nat) : Nat := 0xB100010 + c * 64
def F.mbxRx_notice : Fld := ⟨63, 0, .ro, 0⟩

/-- MBX_RX_STATc (20_mailboxes_interrupts.md line 214). -/
def Reg.mbxRxStat (c : Nat) : Nat := 0xB100018 + c * 64
def F.mbxRxStat_pop : Fld := ⟨63, 63, .trig, 0⟩
def F.mbxRxStat_seq : Fld := ⟨47, 32, .ro, 0⟩
def F.mbxRxStat_count : Fld := ⟨12, 8, .ro, 0⟩
def F.mbxRxStat_underflow : Fld := ⟨1, 1, .w1c, 0⟩
def F.mbxRxStat_valid : Fld := ⟨0, 0, .ro, 0⟩

/-- MBX_RX_TIMEc (20_mailboxes_interrupts.md line 222). -/
def Reg.mbxRxTime (c : Nat) : Nat := 0xB100020 + c * 64
def F.mbxRxTime_time : Fld := ⟨63, 0, .ro, 0⟩

/-- ICU_CLAIMt (Table 20-8) (20_mailboxes_interrupts.md line 247). -/
def Reg.icuClaim (t : Nat) : Nat := 0xC000100 + t * 32
def F.icuClaim_valid : Fld := ⟨63, 63, .rc, 0⟩
def F.icuClaim_source : Fld := ⟨11, 0, .rc, 0⟩

/-- ICU_COMPLETEt (20_mailboxes_interrupts.md line 250). -/
def Reg.icuComplete (t : Nat) : Nat := 0xC000108 + t * 32
def F.icuComplete_source : Fld := ⟨11, 0, .wo, 0⟩

/-- ICU_THRESHt (20_mailboxes_interrupts.md line 251). -/
def Reg.icuThresh (t : Nat) : Nat := 0xC000110 + t * 32
def F.icuThresh_err : Fld := ⟨63, 63, .w1c, 0⟩
def F.icuThresh_thresh : Fld := ⟨3, 0, .rw, 0⟩

/-- ICU_COAL_PF (20_mailboxes_interrupts.md line 276). -/
def Reg.icuCoalPf (v : Nat) : Nat := 0xC080000 + v * 8
def F.icuCoalPf_events : Fld := ⟨31, 24, .ro, 0⟩
def F.icuCoalPf_count : Fld := ⟨23, 16, .rw, 1⟩
def F.icuCoalPf_time : Fld := ⟨15, 0, .rw, 0⟩

/-- ICU_COAL_VF, f counted from VF1 (20_mailboxes_interrupts.md line 276). -/
def Reg.icuCoalVf (f : Nat) (v : Nat) : Nat := 0xC100000 + f * 512 + v * 8
def F.icuCoalVf_events : Fld := ⟨31, 24, .ro, 0⟩
def F.icuCoalVf_count : Fld := ⟨23, 16, .rw, 1⟩
def F.icuCoalVf_time : Fld := ⟨15, 0, .rw, 0⟩

/-- MON_TRACE (22_monitors.md line 256). -/
def Reg.monTrace : Nat := 0xE007000
def F.monTrace_en : Fld := ⟨63, 63, .rw, 0⟩
def F.monTrace_log2 : Fld := ⟨57, 52, .rw, 8⟩
def F.monTrace_base : Fld := ⟨39, 12, .rw, 0⟩

/-- MON_TRACE_IDX (22_monitors.md line 256). -/
def Reg.monTraceIdx : Nat := 0xE007008
def F.monTraceIdx_prod : Fld := ⟨63, 32, .ro, 0⟩
def F.monTraceIdx_head : Fld := ⟨31, 0, .rw, 0⟩

/-- MON_CAPu_CFG (Table 22-6) (22_monitors.md line 275). -/
def Reg.monCapCfg (u : Nat) : Nat := 0xE010000 + u * 512
def F.monCapCfg_en : Fld := ⟨63, 63, .rw, 0⟩
def F.monCapCfg_clr : Fld := ⟨62, 62, .trig, 0⟩
def F.monCapCfg_autoclr : Fld := ⟨61, 61, .rw, 0⟩
def F.monCapCfg_log : Fld := ⟨60, 60, .rw, 0⟩
def F.monCapCfg_shift : Fld := ⟨59, 54, .rw, 0⟩
def F.monCapCfg_sel : Fld := ⟨47, 36, .rw, 0⟩
def F.monCapCfg_src : Fld := ⟨35, 28, .rw, 0⟩

/-- MON_CAPu_BASE (22_monitors.md line 275). -/
def Reg.monCapBase (u : Nat) : Nat := 0xE010008 + u * 512
def F.monCapBase_base : Fld := ⟨63, 0, .rw, 0⟩

/-- COUNT (22_monitors.md line 275). -/
def Reg.monCapCount (u : Nat) : Nat := 0xE010010 + u * 512
def F.monCapCount_count : Fld := ⟨63, 0, .ro, 0⟩

/-- SUM (22_monitors.md line 275). -/
def Reg.monCapSum (u : Nat) : Nat := 0xE010018 + u * 512
def F.monCapSum_sum : Fld := ⟨63, 0, .ro, 0⟩

/-- MIN (22_monitors.md line 275). -/
def Reg.monCapMin (u : Nat) : Nat := 0xE010020 + u * 512
def F.monCapMin_min : Fld := ⟨63, 0, .ro, 9223372036854775807⟩

/-- MAX (22_monitors.md line 275). -/
def Reg.monCapMax (u : Nat) : Nat := 0xE010028 + u * 512
def F.monCapMax_max : Fld := ⟨63, 0, .ro, 9223372036854775808⟩

/-- DROPPED (22_monitors.md line 275). -/
def Reg.monCapDropped (u : Nat) : Nat := 0xE010030 + u * 512
def F.monCapDropped_dropped : Fld := ⟨31, 0, .ro, 0⟩

/-- bins 2i and 2i + 1 (22_monitors.md line 275). -/
def Reg.monCapBin (u : Nat) (i : Nat) : Nat := 0xE010040 + u * 512 + i * 8
def F.monCapBin_even : Fld := ⟨31, 0, .ro, 0⟩
def F.monCapBin_odd : Fld := ⟨63, 32, .ro, 0⟩

/-- COUNT (22_monitors.md line 275). -/
def Reg.monCapCountShadow (u : Nat) : Nat := 0xE010110 + u * 512
def F.monCapCountShadow_count : Fld := ⟨63, 0, .ro, 0⟩

/-- SUM (22_monitors.md line 275). -/
def Reg.monCapSumShadow (u : Nat) : Nat := 0xE010118 + u * 512
def F.monCapSumShadow_sum : Fld := ⟨63, 0, .ro, 0⟩

/-- MIN (22_monitors.md line 275). -/
def Reg.monCapMinShadow (u : Nat) : Nat := 0xE010120 + u * 512
def F.monCapMinShadow_min : Fld := ⟨63, 0, .ro, 9223372036854775807⟩

/-- MAX (22_monitors.md line 275). -/
def Reg.monCapMaxShadow (u : Nat) : Nat := 0xE010128 + u * 512
def F.monCapMaxShadow_max : Fld := ⟨63, 0, .ro, 9223372036854775808⟩

/-- DROPPED (22_monitors.md line 275). -/
def Reg.monCapDroppedShadow (u : Nat) : Nat := 0xE010130 + u * 512
def F.monCapDroppedShadow_dropped : Fld := ⟨31, 0, .ro, 0⟩

/-- bins 2i and 2i + 1 (22_monitors.md line 275). -/
def Reg.monCapBinShadow (u : Nat) (i : Nat) : Nat := 0xE010140 + u * 512 + i * 8
def F.monCapBinShadow_even : Fld := ⟨31, 0, .ro, 0⟩
def F.monCapBinShadow_odd : Fld := ⟨63, 32, .ro, 0⟩

/-- CPF_MISMATCH_FOLL (17_reproducibility.md line 250). -/
def Reg.cpfMismatchFoll (i : Nat) : Nat := 0x10000060 + i * 8
def F.cpfMismatchFoll_word : Fld := ⟨63, 0, .ro, 0⟩

/-- TIM_SHP_FNf (10_time_and_gates.md line 259). -/
def Reg.timShpFn (f : Nat) : Nat := 0x9030000 + f * 16
def F.timShpFn_en : Fld := ⟨63, 63, .rw, 0⟩
def F.timShpFn_chg : Fld := ⟨62, 62, .rw, 0⟩
def F.timShpFn_burst : Fld := ⟨47, 32, .rw, 1⟩
def F.timShpFn_quantum : Fld := ⟨31, 16, .rw, 1⟩
def F.timShpFn_period : Fld := ⟨15, 0, .rw, 1⟩

/-- TIM_POL_FNf (10_time_and_gates.md line 259). -/
def Reg.timPolFn (f : Nat) : Nat := 0x9030008 + f * 16
def F.timPolFn_en : Fld := ⟨63, 63, .rw, 0⟩
def F.timPolFn_chg : Fld := ⟨62, 62, .rw, 0⟩
def F.timPolFn_burst : Fld := ⟨47, 32, .rw, 1⟩
def F.timPolFn_quantum : Fld := ⟨31, 16, .rw, 1⟩
def F.timPolFn_period : Fld := ⟨15, 0, .rw, 1⟩

/-- The registers of block TOP. -/
def topRegs : List RegDef := [
  ⟨0x0, [], [F.topId_device, F.topId_plates, F.topId_grade, F.topId_step_letter, F.topId_step_digit]⟩,
  ⟨0x8, [], [F.topInc_inc]⟩,
  ⟨0x10, [], [F.topReset_cold, F.topReset_warm, F.topReset_node_ovr_en, F.topReset_node_ovr]⟩,
  ⟨0x18, [], [F.topBootStatus_ready, F.topBootStatus_stage, F.topBootStatus_error, F.topBootStatus_cause, F.topBootStatus_slot, F.topBootStatus_inc_random, F.topBootStatus_fallback, F.topBootStatus_version]⟩,
  ⟨0x20, [], [F.topFwCmd_go, F.topFwCmd_result, F.topFwCmd_cmd]⟩,
  ⟨0x28, [], [F.topFwArg_length, F.topFwArg_dpa]⟩]

/-- The registers of block HIF. -/
def hifRegs : List RegDef := [
  ⟨0x1000000, [(256, 4)], [F.hifPortCfg_data_ro, F.hifPortCfg_cxl_en, F.hifPortCfg_bifurcate, F.hifPortCfg_max_rate, F.hifPortCfg_link_en]⟩,
  ⟨0x1000008, [(256, 4)], [F.hifPortStatus_down_count, F.hifPortStatus_down1, F.hifPortStatus_down0, F.hifPortStatus_cxl, F.hifPortStatus_width1, F.hifPortStatus_width0, F.hifPortStatus_rate1, F.hifPortStatus_rate0, F.hifPortStatus_up1, F.hifPortStatus_up0]⟩,
  ⟨0x1000400, [], [F.hifWinBase_base]⟩,
  ⟨0x1000410, [], [F.hifBiasCmd_go, F.hifBiasCmd_to, F.hifBiasCmd_count, F.hifBiasCmd_page]⟩,
  ⟨0x1000418, [], [F.hifBiasStatus_auto_flips, F.hifBiasStatus_err, F.hifBiasStatus_busy]⟩,
  ⟨0x1000420, [], [F.hifHostFlush_addr]⟩,
  ⟨0x1010000, [(32768, 4), (8, 4096)], [F.hifInbOwner_wr_en, F.hifInbOwner_master]⟩]

/-- The registers of block XLT. -/
def xltRegs : List RegDef := [
  ⟨0x2000000, [(16, 1025)], [F.xltFnCfg_miss_max, F.xltFnCfg_ways, F.xltFnCfg_dev_en]⟩,
  ⟨0x2000008, [(16, 1025)], [F.xltFnRoot_root]⟩,
  ⟨0x2008000, [(16, 1025)], [F.xltInvCmd_go, F.xltInvCmd_scope, F.xltInvCmd_count, F.xltInvCmd_addr]⟩,
  ⟨0x2008008, [(16, 1025)], [F.xltInvStatus_err, F.xltInvStatus_done, F.xltInvStatus_busy]⟩]

/-- The registers of block VFM. -/
def vfmRegs : List RegDef := [
  ⟨0x3000000, [(64, 1025)], [F.vfmFnCtrl_mtr_clr, F.vfmFnCtrl_scrub_busy, F.vfmFnCtrl_scrub, F.vfmFnCtrl_flr_busy, F.vfmFnCtrl_flr, F.vfmFnCtrl_err, F.vfmFnCtrl_en]⟩,
  ⟨0x3000008, [(64, 1025)], [F.vfmFnPart_size, F.vfmFnPart_base]⟩,
  ⟨0x3000010, [(64, 1025)], [F.vfmFnQp_hbm_wt, F.vfmFnQp_attach_wt, F.vfmFnQp_qp_count, F.vfmFnQp_qp_base]⟩,
  ⟨0x3000018, [(64, 1025)], [F.vfmFnQuota_msix, F.vfmFnQuota_grp, F.vfmFnQuota_sa, F.vfmFnQuota_reg, F.vfmFnQuota_wq]⟩,
  ⟨0x3000020, [(64, 1025), (8, 2)], [F.vfmDlogBase_en, F.vfmDlogBase_base]⟩,
  ⟨0x3000030, [(64, 1025)], [F.vfmDlogCmd_go, F.vfmDlogCmd_log, F.vfmDlogCmd_active1, F.vfmDlogCmd_active0, F.vfmDlogCmd_err, F.vfmDlogCmd_done]⟩,
  ⟨0x3020000, [(8, 64)], [F.vfmPlateOwner_faulted, F.vfmPlateOwner_scrubbing, F.vfmPlateOwner_owner]⟩,
  ⟨0x3040000, [(256, 1026), (8, 16)], [F.vfmMeter_count]⟩,
  ⟨0x3040080, [(256, 1026), (8, 16)], [F.vfmMeterShadow_count]⟩]

/-- The registers of block WQE. -/
def wqeRegs : List RegDef := [
  ⟨0x4000000, [], [F.wqePollSlice_slice3, F.wqePollSlice_slice2, F.wqePollSlice_slice1, F.wqePollSlice_slice0]⟩,
  ⟨0x4000010, [(8, 4)], [F.wqePollStatus_overrun, F.wqePollStatus_demand]⟩,
  ⟨0x4010000, [(256, 1025)], [F.wqeCmd_go, F.wqeCmd_status, F.wqeCmd_cmd, F.wqeCmd_obj]⟩,
  ⟨0x4010040, [(256, 1025), (8, 4)], [F.wqeArg_arg]⟩,
  ⟨0x4010080, [(256, 1025)], [F.wqeCqArm_mode, F.wqeCqArm_head, F.wqeCqArm_cqn]⟩,
  ⟨0x4010088, [(256, 1025)], [F.wqeWqKick_wqn]⟩]

/-- The registers of block QPE. -/
def qpeRegs : List RegDef := [
  ⟨0x5000000, [], [F.qpeCtxBase_lock, F.qpeCtxBase_base]⟩,
  ⟨0x5000008, [], [F.qpeTrkStatus_stalls, F.qpeTrkStatus_refused, F.qpeTrkStatus_in_use]⟩,
  ⟨0x5001000, [(8, 1025)], [F.qpeFnTrk_max, F.qpeFnTrk_res]⟩,
  ⟨0x5010000, [(256, 1025)], [F.qpeCmd_go, F.qpeCmd_status, F.qpeCmd_cmd, F.qpeCmd_obj]⟩,
  ⟨0x5010040, [(256, 1025), (8, 4)], [F.qpeArg_arg]⟩,
  ⟨0x5010080, [(256, 1025)], [F.qpeRevoke_go, F.qpeRevoke_done, F.qpeRevoke_err, F.qpeRevoke_status, F.qpeRevoke_gen, F.qpeRevoke_index]⟩]

/-- The registers of block UMT. -/
def umtRegs : List RegDef := [
  ⟨0x6000000, [], [F.umtCfg_lock, F.umtCfg_rto_max_e, F.umtCfg_rto_am_e, F.umtCfg_rto_eth_e, F.umtCfg_ack_delay, F.umtCfg_ack_coal, F.umtCfg_max_pay, F.umtCfg_udp_port]⟩,
  ⟨0x6000100, [(32, 12)], [F.umtPort_gw_mac, F.umtPort_ip6_en, F.umtPort_ip4_en, F.umtPort_up, F.umtPort_en]⟩,
  ⟨0x6000108, [(32, 12)], [F.umtIp6nHi_addr_hi]⟩,
  ⟨0x6000110, [(32, 12)], [F.umtIp6nLo_addr_lo]⟩,
  ⟨0x6000118, [(32, 12)], [F.umtIp4_addr]⟩,
  ⟨0x6000300, [], [F.umtDscp_dscp]⟩,
  ⟨0x6000400, [], [F.umtCcCtrl_swap, F.umtCcCtrl_load_err, F.umtCcCtrl_active]⟩,
  ⟨0x6000408, [], [F.umtCcStatus_overrun, F.umtCcStatus_merged]⟩,
  ⟨0x6000440, [(8, 6)], [F.umtCcHash_hash]⟩,
  ⟨0x6000500, [(8, 16)], [F.umtCcParam_param]⟩,
  ⟨0x6000600, [(8, 7)], [F.umtDrop_count]⟩,
  ⟨0x6100000, [], [F.umtCcImem_word]⟩]

/-- The registers of block FAB. -/
def fabRegs : List RegDef := [
  ⟨0x7000000, [], [F.fabCtrl_lock, F.fabCtrl_stall_ms, F.fabCtrl_drain_us, F.fabCtrl_lead, F.fabCtrl_auto_route, F.fabCtrl_inj_state, F.fabCtrl_node_id]⟩,
  ⟨0x7000008, [], [F.fabGeom_dims, F.fabGeom_size]⟩,
  ⟨0x7000040, [], [F.fabFlip_arm, F.fabFlip_err, F.fabFlip_old_held, F.fabFlip_to]⟩,
  ⟨0x7000048, [], [F.fabFlipTime_time]⟩,
  ⟨0x7000100, [(32, 12)], [F.fabPort_exp_node, F.fabPort_exp_en, F.fabPort_asym, F.fabPort_dateline, F.fabPort_dir, F.fabPort_dim, F.fabPort_en]⟩,
  ⟨0x7000108, [(32, 12)], [F.fabPortStatus_peer_node, F.fabPortStatus_peer_port, F.fabPortStatus_lstate, F.fabPortStatus_down_reason, F.fabPortStatus_last_good_seq, F.fabPortStatus_last_ack_seq, F.fabPortStatus_rtt]⟩,
  ⟨0x7000110, [(32, 12)], [F.fabPortErr_bad_cells, F.fabPortErr_resends, F.fabPortErr_down_count]⟩,
  ⟨0x7000400, [(8, 9)], [F.fabDrop_count]⟩,
  ⟨0x7100000, [(131072, 2), (8, 16384)], [F.fabRt_e0, F.fabRt_e1, F.fabRt_e2, F.fabRt_e3]⟩]

/-- The registers of block MAC. -/
def macRegs : List RegDef := [
  ⟨0x8000000, [(4096, 12)], [F.macQuad_tx_thresh, F.macQuad_max_frame, F.macQuad_ptp_fw, F.macQuad_bcast_en, F.macQuad_an_en, F.macQuad_media, F.macQuad_speed, F.macQuad_up, F.macQuad_mode]⟩,
  ⟨0x8000100, [(4096, 12), (8, 16)], [F.macAddr_en, F.macAddr_addr]⟩,
  ⟨0x8000200, [(4096, 12)], [F.macRawRx_en, F.macRawRx_base, F.macRawRx_log2]⟩,
  ⟨0x8000208, [(4096, 12)], [F.macRawTx_en, F.macRawTx_base, F.macRawTx_log2]⟩,
  ⟨0x8000210, [(4096, 12)], [F.macRawIdx_tx_done, F.macRawIdx_tx_tail, F.macRawIdx_rx_prod, F.macRawIdx_rx_head]⟩,
  ⟨0x8000400, [(4096, 12), (8, 32)], [F.macStat_count]⟩,
  ⟨0x8000500, [(4096, 12), (8, 32)], [F.macStatShadow_count]⟩,
  ⟨0x800f000, [], [F.macPps_out_en, F.macPps_width, F.macPps_in_count]⟩,
  ⟨0x800f008, [], [F.macPpsIn_time]⟩]

/-- The registers of block TIM. -/
def timRegs : List RegDef := [
  ⟨0x9000000, [], [F.timNow_ns]⟩,
  ⟨0x9000008, [], [F.timNowFrac_frac]⟩,
  ⟨0x9000010, [], [F.timCtrl_lock_tbl, F.timCtrl_role, F.timCtrl_src, F.timCtrl_open_unlocked, F.timCtrl_ptp_port, F.timCtrl_ptp_domain, F.timCtrl_lock_ns, F.timCtrl_step, F.timCtrl_backup_node, F.timCtrl_root_node]⟩,
  ⟨0x9000018, [], [F.timStatus_eff_root, F.timStatus_offset, F.timStatus_steps, F.timStatus_parent, F.timStatus_holdover, F.timStatus_lock_chg, F.timStatus_lock]⟩,
  ⟨0x9000020, [], [F.timRate_rate]⟩,
  ⟨0x9000028, [], [F.timSet_ns]⟩,
  ⟨0x9000040, [], [F.timSnapCtrl_arm, F.timSnapCtrl_period]⟩,
  ⟨0x9000048, [], [F.timSnapTime_time]⟩,
  ⟨0x9000050, [], [F.timSnapStatus_seq, F.timSnapStatus_unlocked]⟩,
  ⟨0x9001000, [(64, 12)], [F.timHlCtrl_swap, F.timHlCtrl_err, F.timHlCtrl_active, F.timHlCtrl_en, F.timHlCtrl_guard]⟩,
  ⟨0x9001008, [(64, 12), (8, 2)], [F.timHlCycle_len, F.timHlCycle_cycle]⟩,
  ⟨0x9001018, [(64, 12), (8, 2)], [F.timHlBase_base]⟩,
  ⟨0x9001028, [(64, 12)], [F.timHlStatus_overlong, F.timHlStatus_entry]⟩,
  ⟨0x9020000, [(64, 12), (8, 8)], [F.timShpPort_en, F.timShpPort_chg, F.timShpPort_burst, F.timShpPort_quantum, F.timShpPort_period]⟩,
  ⟨0x9030000, [(16, 1025)], [F.timShpFn_en, F.timShpFn_chg, F.timShpFn_burst, F.timShpFn_quantum, F.timShpFn_period]⟩,
  ⟨0x9030008, [(16, 1025)], [F.timPolFn_en, F.timPolFn_chg, F.timPolFn_burst, F.timPolFn_quantum, F.timPolFn_period]⟩,
  ⟨0x9100000, [(16384, 12), (8192, 2), (8, 1024)], [F.timHlEnt_mask, F.timHlEnt_duration]⟩]

/-- The registers of block CIP. -/
def cipRegs : List RegDef := [
  ⟨0xa000000, [], [F.cipCtrl_lock, F.cipCtrl_clear_ok, F.cipCtrl_kek_set, F.cipCtrl_auth_max, F.cipCtrl_check_rx, F.cipCtrl_check_tx]⟩,
  ⟨0xa000008, [], [F.cipCmd_go, F.cipCmd_status, F.cipCmd_cmd]⟩,
  ⟨0xa000040, [(8, 6)], [F.cipArg_arg]⟩,
  ⟨0xa000100, [(8, 8)], [F.cipKeyStage_key]⟩,
  ⟨0xa000200, [], [F.cipCoreStatus_quar]⟩,
  ⟨0xa000300, [(8, 4)], [F.cipStat_count]⟩,
  ⟨0xa000380, [(8, 4)], [F.cipStatShadow_count]⟩]

/-- The registers of block MBX. -/
def mbxRegs : List RegDef := [
  ⟨0xb000000, [], [F.mbxCtrl_lock]⟩,
  ⟨0xb001000, [(8, 512)], [F.mbxChan_en, F.mbxChan_depth, F.mbxChan_wake, F.mbxChan_domain, F.mbxChan_receiver, F.mbxChan_sender]⟩,
  ⟨0xb100000, [(64, 512)], [F.mbxTx_notice]⟩,
  ⟨0xb100008, [(64, 512)], [F.mbxTxStat_drops, F.mbxTxStat_full, F.mbxTxStat_credit]⟩,
  ⟨0xb100010, [(64, 512)], [F.mbxRx_notice]⟩,
  ⟨0xb100018, [(64, 512)], [F.mbxRxStat_pop, F.mbxRxStat_seq, F.mbxRxStat_count, F.mbxRxStat_underflow, F.mbxRxStat_valid]⟩,
  ⟨0xb100020, [(64, 512)], [F.mbxRxTime_time]⟩]

/-- The registers of block ICU. -/
def icuRegs : List RegDef := [
  ⟨0xc000000, [], [F.icuCtrl_lock, F.icuCtrl_svc_mode]⟩,
  ⟨0xc000008, [], [F.icuLatchOvf_count]⟩,
  ⟨0xc000010, [], [F.icuMsixDrop_count]⟩,
  ⟨0xc000100, [(32, 4)], [F.icuClaim_valid, F.icuClaim_source]⟩,
  ⟨0xc000108, [(32, 4)], [F.icuComplete_source]⟩,
  ⟨0xc000110, [(32, 4)], [F.icuThresh_err, F.icuThresh_thresh]⟩,
  ⟨0xc010000, [(8, 4096)], [F.icuSrc_en, F.icuSrc_insvc, F.icuSrc_pend, F.icuSrc_latch, F.icuSrc_trig, F.icuSrc_prio, F.icuSrc_host, F.icuSrc_core, F.icuSrc_fn, F.icuSrc_vec]⟩,
  ⟨0xc080000, [(8, 2048)], [F.icuCoalPf_events, F.icuCoalPf_count, F.icuCoalPf_time]⟩,
  ⟨0xc100000, [(512, 1024), (8, 64)], [F.icuCoalVf_events, F.icuCoalVf_count, F.icuCoalVf_time]⟩]

/-- The registers of block PWR. -/
def pwrRegs : List RegDef := [
  ⟨0xd000000, [], [F.pwrCtrl_lock, F.pwrCtrl_shift_max, F.pwrCtrl_quantum, F.pwrCtrl_boost, F.pwrCtrl_shift_en, F.pwrCtrl_pool_node, F.pwrCtrl_droop_mv, F.pwrCtrl_guard]⟩,
  ⟨0xd000008, [], [F.pwrCap_brake_w, F.pwrCap_cap]⟩,
  ⟨0xd000010, [], [F.pwrStatus_eff_cap, F.pwrStatus_draw, F.pwrStatus_duty, F.pwrStatus_chg, F.pwrStatus_sensor_fault, F.pwrStatus_throttle, F.pwrStatus_fallback, F.pwrStatus_brake, F.pwrStatus_cap_unreachable]⟩,
  ⟨0xd000018, [], [F.pwrReplan_go, F.pwrReplan_done, F.pwrReplan_changed, F.pwrReplan_retired]⟩,
  ⟨0xd001000, [(8, 96)], [F.pwrDomain_err, F.pwrDomain_state, F.pwrDomain_on]⟩,
  ⟨0xd002000, [(8, 64)], [F.pwrPlate_phase, F.pwrPlate_pref, F.pwrPlate_op, F.pwrPlate_floor, F.pwrPlate_kp, F.pwrPlate_duty, F.pwrPlate_therm, F.pwrPlate_droops]⟩,
  ⟨0xd005000, [(8, 92)], [F.pwrTherm_fault, F.pwrTherm_max, F.pwrTherm_temp]⟩,
  ⟨0xd005400, [(8, 3)], [F.pwrThermLim_trip, F.pwrThermLim_throttle, F.pwrThermLim_hyst]⟩,
  ⟨0xd004000, [(8, 1025)], [F.pwrPref_pref]⟩,
  ⟨0xdf01000, [(8, 92)], [F.pwrPref_pref]⟩,
  ⟨0xdf01400, [(8, 3)], [F.pwrPref_pref]⟩,
  ⟨0xd100000, [(1024, 64), (16, 35), (8, 2)], [F.pwrFplan_lim]⟩,
  ⟨0xd180000, [(512, 64), (8, 35)], [F.pwrBurr_retired, F.pwrBurr_drift_plan, F.pwrBurr_drift]⟩]

/-- The registers of block MON. -/
def monRegs : List RegDef := [
  ⟨0xe000000, [], [F.monCtrl_lock]⟩,
  ⟨0xe000008, [], [F.monLogStat_trace_dropped, F.monLogStat_lost_off]⟩,
  ⟨0xe000010, [], [F.monAlarmStat_pop, F.monAlarmStat_count, F.monAlarmStat_lost]⟩,
  ⟨0xe000018, [], [F.monLogNoring_count]⟩,
  ⟨0xe000100, [(8, 4)], [F.monAlarmRec_word]⟩,
  ⟨0xe000180, [(8, 2)], [F.monSnapOff_off]⟩,
  ⟨0xe003000, [(8, 64)], [F.monEcc_count]⟩,
  ⟨0xe003200, [(8, 64)], [F.monEccShadow_count]⟩,
  ⟨0xe007000, [], [F.monTrace_en, F.monTrace_log2, F.monTrace_base]⟩,
  ⟨0xe007008, [], [F.monTraceIdx_prod, F.monTraceIdx_head]⟩,
  ⟨0xe010000, [(512, 64)], [F.monCapCfg_en, F.monCapCfg_clr, F.monCapCfg_autoclr, F.monCapCfg_log, F.monCapCfg_shift, F.monCapCfg_sel, F.monCapCfg_src]⟩,
  ⟨0xe010008, [(512, 64)], [F.monCapBase_base]⟩,
  ⟨0xe010010, [(512, 64)], [F.monCapCount_count]⟩,
  ⟨0xe010018, [(512, 64)], [F.monCapSum_sum]⟩,
  ⟨0xe010020, [(512, 64)], [F.monCapMin_min]⟩,
  ⟨0xe010028, [(512, 64)], [F.monCapMax_max]⟩,
  ⟨0xe010030, [(512, 64)], [F.monCapDropped_dropped]⟩,
  ⟨0xe010040, [(512, 64), (8, 16)], [F.monCapBin_even, F.monCapBin_odd]⟩,
  ⟨0xe010110, [(512, 64)], [F.monCapCountShadow_count]⟩,
  ⟨0xe010118, [(512, 64)], [F.monCapSumShadow_sum]⟩,
  ⟨0xe010120, [(512, 64)], [F.monCapMinShadow_min]⟩,
  ⟨0xe010128, [(512, 64)], [F.monCapMaxShadow_max]⟩,
  ⟨0xe010130, [(512, 64)], [F.monCapDroppedShadow_dropped]⟩,
  ⟨0xe010140, [(512, 64), (8, 16)], [F.monCapBinShadow_even, F.monCapBinShadow_odd]⟩,
  ⟨0xe080000, [(32, 1025)], [F.monLog_en, F.monLog_irq, F.monLog_log2, F.monLog_vec, F.monLog_base]⟩,
  ⟨0xe080008, [(32, 1025)], [F.monLogIdx_prod, F.monLogIdx_head]⟩]

/-- The registers of block PRF. -/
def prfRegs : List RegDef := [
  ⟨0xf000000, [], [F.prfCtrl_lock, F.prfCtrl_hb_en, F.prfCtrl_sink_node, F.prfCtrl_loss_ms]⟩,
  ⟨0xf000008, [], [F.prfFaultStatus_sent, F.prfFaultStatus_suppressed]⟩,
  ⟨0xf004000, [], [F.prfPsCmd_go, F.prfPsCmd_result, F.prfPsCmd_cmd]⟩,
  ⟨0xf004040, [(8, 4)], [F.prfPsArg_arg]⟩,
  ⟨0xf004080, [], [F.prfPsHealth_state, F.prfPsHealth_holdup_low, F.prfPsHealth_dies_retired, F.prfPsHealth_spare_pct, F.prfPsHealth_used, F.prfPsHealth_free_seg, F.prfPsHealth_max_pe]⟩,
  ⟨0xf004100, [(8, 6)], [F.prfPsStat_count]⟩,
  ⟨0xf004180, [(8, 6)], [F.prfPsStatShadow_count]⟩,
  ⟨0xf010000, [(256, 1025)], [F.prfCmd_go, F.prfCmd_status, F.prfCmd_cmd, F.prfCmd_obj]⟩,
  ⟨0xf010040, [(256, 1025), (8, 6)], [F.prfArg_arg]⟩,
  ⟨0xf010080, [(256, 1025)], [F.prfJob_lost_count, F.prfJob_coord, F.prfJob_flash_busy, F.prfJob_state]⟩,
  ⟨0xf010088, [(256, 1025)], [F.prfCommitted_proof]⟩,
  ⟨0xf010090, [(256, 1025)], [F.prfFlash_proof]⟩]

/-- The registers of block CPF. -/
def cpfRegs : List RegDef := [
  ⟨0x10000000, [], [F.cpfCtrl_lock, F.cpfCtrl_go, F.cpfCtrl_stop, F.cpfCtrl_role, F.cpfCtrl_rec, F.cpfCtrl_state_cmp, F.cpfCtrl_on_mismatch, F.cpfCtrl_tlinks, F.cpfCtrl_delay]⟩,
  ⟨0x10000008, [], [F.cpfStatus_selftests, F.cpfStatus_fifo_kib, F.cpfStatus_end_cause, F.cpfStatus_state]⟩,
  ⟨0x10000010, [], [F.cpfOrigin_time]⟩,
  ⟨0x10000018, [], [F.cpfCycle_cycle]⟩,
  ⟨0x10000020, [], [F.cpfVerified_cycle]⟩,
  ⟨0x10000040, [(8, 4)], [F.cpfMismatchLead_word]⟩,
  ⟨0x10000060, [(8, 4)], [F.cpfMismatchFoll_word]⟩,
  ⟨0x10001000, [(8, 1025)], [F.cpfVgeom_en, F.cpfVgeom_plates]⟩]

/-- The registers of block COL. -/
def colRegs : List RegDef := [
  ⟨0x11010000, [(256, 1025)], [F.colCmd_go, F.colCmd_status, F.colCmd_cmd, F.colCmd_obj]⟩,
  ⟨0x11010040, [(256, 1025), (8, 4)], [F.colArg_arg]⟩]

/-- The registers of block PLT. -/
def pltRegs : List RegDef := [
  ⟨0x20000000, [(1048576, 64)], [F.pltCtrl_bar_stall_us, F.pltCtrl_dmode, F.pltCtrl_reset, F.pltCtrl_stop, F.pltCtrl_start]⟩,
  ⟨0x20000008, [(1048576, 64)], [F.pltStatus_running, F.pltStatus_load_result, F.pltStatus_end, F.pltStatus_spares, F.pltStatus_subst_pend, F.pltStatus_lost, F.pltStatus_loaded, F.pltStatus_scrubbing, F.pltStatus_exc, F.pltStatus_loading, F.pltStatus_run]⟩,
  ⟨0x20000010, [(1048576, 64)], [F.pltLoad_addr, F.pltLoad_space, F.pltLoad_go]⟩,
  ⟨0x20000040, [(1048576, 64), (8, 6)], [F.pltDigest_digest]⟩,
  ⟨0x20000080, [(1048576, 64), (8, 4)], [F.pltMap_phys]⟩,
  ⟨0x200000c0, [(1048576, 64)], [F.pltExc_epc, F.pltExc_cause, F.pltExc_ds, F.pltExc_shadow, F.pltExc_double, F.pltExc_seq, F.pltExc_burin]⟩,
  ⟨0x200000c8, [(1048576, 64)], [F.pltExcAddr_eaddr]⟩,
  ⟨0x20000100, [(1048576, 64), (8, 8)], [F.pltDisp_next, F.pltDisp_limit]⟩]

/-- The registers of register block i (Table 1-6), and of the PLT spaces (i from 32). -/
def blockRegs (i : Nat) : List RegDef :=
  match i with
  | 0 => topRegs
  | 1 => hifRegs
  | 2 => xltRegs
  | 3 => vfmRegs
  | 4 => wqeRegs
  | 5 => qpeRegs
  | 6 => umtRegs
  | 7 => fabRegs
  | 8 => macRegs
  | 9 => timRegs
  | 10 => cipRegs
  | 11 => mbxRegs
  | 12 => icuRegs
  | 13 => pwrRegs
  | 14 => monRegs
  | 15 => prfRegs
  | 16 => cpfRegs
  | 17 => colRegs
  | n => if 32 ≤ n ∧ n < 36 then pltRegs else []

end Sys2Proof.Machine
end

