-- ==== Sys2Proof/Machine/RegAccess.lean ====
section
/-! DEFINITION. Which register a key names, what it resets to, and what a software write or read does to a word under
the access codes of Table 0-2 (00_scope.md R6-R10). -/

namespace Sys2Proof.Machine

/-- Grades of the UV9 (00_scope.md R2). -/
inductive Grade where
  | a64 | b60
  deriving DecidableEq, Repr

/-- Exposed plates of a grade (00_scope.md R2). -/
def Grade.plates : Grade → Nat
  | .a64 => 64
  | .b60 => 60

/-- Whether the offset o from a register's base is one of its instances. -/
def dimsHit : List (Nat × Nat) → Nat → Bool
  | [], o => o = 0
  | (st, n) :: ds, o => decide (o / st < n) && dimsHit ds (o % st)

/-- The register a key names, if any (R21: an offset with none is a reserved field). -/
def findReg (k : Nat) : Option RegDef :=
  (blockRegs (k / 2 ^ 24)).find? fun d => decide (d.base ≤ k) && dimsHit d.dims (k - d.base)

/-- Offset of a key in its array of registers with first key b. -/
def keyOff (k b st : Nat) : Nat := (k - b) / st

/-- Sources whose trigger is edge (Table 20-2). -/
def edgeSource (i : Nat) : Bool :=
  decide (i < 0x4C) || i = 0x61 || (decide (0x80 ≤ i) && decide (i < 0x8C))

/-- Reset values that the spec makes depend on the instance or the grade. -/
def resetOverride (g : Grade) (k : Nat) : Option Word :=
  if k = Reg.topId then
    some (BitVec.ofNat 64 (0x9 * 2 ^ 24 + g.plates * 2 ^ 16 + (match g with | .a64 => 1 | .b60 => 2) * 2 ^ 8 + 0x20))
  else if k = Reg.hifPortCfg 0 then some (BitVec.ofNat 64 (5 * 2 + 1))
  else if k = Reg.hifPortCfg 1 ∨ k = Reg.hifPortCfg 2 ∨ k = Reg.hifPortCfg 3 then some (BitVec.ofNat 64 (6 * 2 + 1))
  else if k = Reg.xltFnCfg 0 then some (BitVec.ofNat 64 (32 * 2 ^ 8 + 8 * 2 ^ 4))
  else if k / 2 ^ 24 = 2 ∧ k < Reg.xltInvCmd 0 ∧ k % 16 = 0 then some (BitVec.ofNat 64 (32 * 2 ^ 8 + 2 * 2 ^ 4))
  else if k = Reg.vfmFnCtrl 0 then some 1
  else if k = Reg.fabGeom then some (BitVec.ofNat 64 (4 * 2 ^ 48 + 0x010110101010))
  else if k = Reg.umtCcParam 0 then some 4000
  else if k = Reg.umtCcParam 1 then some 128
  else if k = Reg.umtCcParam 2 then some 500
  else if k = Reg.umtCcParam 3 then some 100
  else if k = Reg.umtCcParam 4 then some 10000000
  else if k = Reg.umtCcParam 5 then some 4
  else if k = Reg.umtCcParam 6 then some 10000
  else if 0x20000000 ≤ k ∧ 0x80 ≤ k % 0x100000 ∧ k % 0x100000 < 0xA0 ∧ k % 8 = 0 then
    some (BitVec.ofNat 64 ((List.range 8).foldl (fun a j => a + (8 * ((k % 0x100000 - 0x80) / 8) + j) * 2 ^ (6 * j)) 0))
  else if Reg.icuSrc 0 ≤ k ∧ k < Reg.icuSrc 4096 ∧ k % 8 = 0 ∧ edgeSource (keyOff k (Reg.icuSrc 0) 8) then
    some (BitVec.ofNat 64 (2 ^ 59))
  else if Reg.pwrFplan 0 0 0 ≤ k ∧ k < Reg.pwrBurr 0 0 ∧ (k - Reg.pwrFplan 0 0 0) % 1024 < 35 * 16 ∧ k % 8 = 0 then
    some (BitVec.ofNat 64 ((List.range 8).foldl (fun a j => a + 40 * 2 ^ (6 * j)) 0))
  else if k = Reg.pwrThermLim 0 then some (BitVec.ofNat 64 (110 * 2 ^ 24 + 95 * 2 ^ 16 + 3))
  else if k = Reg.pwrThermLim 1 then some (BitVec.ofNat 64 (95 * 2 ^ 24 + 85 * 2 ^ 16 + 3))
  else if k = Reg.pwrThermLim 2 then some (BitVec.ofNat 64 (85 * 2 ^ 24 + 70 * 2 ^ 16 + 3))
  else none

/-- The word with every field at its tabled reset value. -/
def fldsReset (fs : List Fld) : Word :=
  fs.foldl (fun w f => setFld w f.hi f.lo f.rst) 0

/-- What a register reads after reset: what an unlisted key of the register map holds. -/
def regReset (g : Grade) (k : Nat) : Word :=
  match resetOverride g k with
  | some v => v
  | none =>
    match findReg k with
    | some d => fldsReset d.flds
    | none => 0

/-- A software write of v over old under the fields' access codes, with the block's lock bit (R9, R10): reserved bits
keep, RO and RC ignore it, RWL takes it unless locked; an action bit's setting is a row of its own. -/
def softWrite (locked : Bool) (old v : Word) : List Fld → Word
  | [] => old
  | f :: fs =>
    let new := fld v f.hi f.lo
    let cur := fld old f.hi f.lo
    let x := match f.acc with
      | .rw | .wo => new
      | .rwl => if locked then cur else new
      | .w1c => cur - Nat.land cur new
      | .w1s => Nat.lor cur new
      | .ro | .rc | .trig => cur
    softWrite locked (setFld old f.hi f.lo x) v fs

/-- What software reads of a word: WO fields read 0 (Table 0-2). -/
def softRead (w : Word) : List Fld → Word
  | [] => w
  | f :: fs => softRead (match f.acc with | .wo => setFld w f.hi f.lo 0 | _ => w) fs

/-- The word after a read of bytes [b, b + n) of it: an RC field wholly covered is cleared (R6). -/
def readClears (b n : Nat) (w : Word) : List Fld → Word
  | [] => w
  | f :: fs =>
    readClears b n (match f.acc with
      | .rc => if 8 * b ≤ f.lo ∧ f.hi < 8 * (b + n) then setFld w f.hi f.lo 0 else w
      | _ => w) fs

end Sys2Proof.Machine
end

