-- ==== Sys2Proof/Machine/State.lean ====
section
/-! DEFINITION. The state of the UV9, as plain data: every register, queue, table, mode and pin that the spec gives the
block, and the queue of waiting commands. Registers are one sparse map (key: DPA less 0x7F_0000_0000) whose unlisted
keys read their reset values; memory is one sparse map of bytes by DPA whose unlisted bytes read 0. -/

namespace Sys2Proof.Machine

/-- Why a step can stop with a fault. -/
inductive Fault where
  /-- No meaning raises it: the spec gives every command an effect on every state of the block (safe). -/
  | none
  deriving DecidableEq, Repr

/-- Why a step can be refused. -/
inductive Refusal where
  /-- Raised by an arm of `exec` whose row has no meaning yet (safe: the machine stops there). -/
  | notModelled (mnemonic : String)
  deriving DecidableEq, Repr

/-- What the block sends outside, in the kinds below; the numbers of `Out.dst` are those the docstring lists. -/
inductive OutKind where
  /-- Memory write TLP: port, half, function, address, Relaxed Ordering. -/
  | tlpWrite
  /-- Memory read TLP (a poll, a flush, a probe, a re-read): port, half, function, address, length. -/
  | tlpRead
  /-- Completion of a host request: port, half, status (0 successful, 1 Configuration Request Retry Status, 2 Unsupported
  Request). -/
  | tlpCpl
  /-- CXL.cache request: 0 current-value read or 1 ownership without data, line address. -/
  | cxl
  /-- MSI-X message: function, vector, address, data (R492). -/
  | msix
  /-- ATS Translation Request: function, space, address, PASID + 1 or 0 (R63). -/
  | atsReq
  /-- Page Request: function, space, address (R64). -/
  | pageReq
  /-- Invalidation Completion: function, tag (R72). -/
  | invCpl
  /-- Answer to an on-chip request: master, address, 1 when refused or unmapped. -/
  | resp
  /-- UMT frame started: port; its bytes are the data (R150, R152). -/
  | umt
  /-- Packet handed to this module's router: output class of traffic (R165). -/
  | amholt
  /-- Data cell on an Amholt link: port, cell fields. -/
  | cell
  /-- Control or training cell on an Amholt link: port, fields. -/
  | ctl
  /-- Packet handed to the transport engine: 0 by the router or 1 by a MAC, port, then `TX_TIME`, TSYNC, CE, `CE_COUNT`,
  `ECHO_TX`, OWD, source IP address, 1 for IPv4. -/
  | rx
  /-- Ethernet frame: port, and 1 raw frame sent, 2 frame passed to firmware, 3 frame cut off with a bad FCS. -/
  | frame
  /-- Message between modules on VC6 or VC7: kind, destination node, arguments. -/
  | msg
  /-- Trace record on the trace links: `SOURCE`, `KIND`, `CYCLE`; its payload (17_reproducibility.md R403, R417). -/
  | trace
  /-- Output pin: number (0 PPS_OUT, 1 TRIP_N), level, and for a pulse its width. -/
  | pin
  /-- Answer on the management bus: offset; the 8 bytes are the data (R555). -/
  | mgmt
  /-- Bits shifted out of the test access port, first bit first (R556). -/
  | tap
  deriving DecidableEq, Repr

/-- An output of the block. -/
structure Out where
  kind : OutKind
  dst : List Nat
  pkt : Option Packet := .none
  data : List Byte := []
  deriving DecidableEq, Repr

/-- Classes of event (22_monitors.md Table 22-2), in the order of the CLASS field of Table 22-3. -/
inductive EvClass where
  | alarm | fault | warning | trace
  deriving DecidableEq, Repr

/-- An event record (22_monitors.md Table 22-3) before it has a place in a ring: PHASE is set when it is written. -/
structure EvRec where
  time : Nat
  cls : EvClass
  code : Nat
  count : Nat := 1
  block : Nat
  inst : Nat := 0
  fn : Nat := 0x7FF
  arg0 : Nat := 0
  arg1 : Nat := 0
  arg2 : Nat := 0
  suppr : Bool := false
  deriving DecidableEq, Repr

/-- The records of one block that a log ring has suppressed (R529): how many, the time of the first, whether one was a
fault. -/
structure Supp where
  count : Nat
  first : Nat
  fault : Bool
  deriving DecidableEq, Repr

/-- Kinds of refusal aggregated over 1 ms (R124, R142, R192, R204, R244, R253). -/
inductive AggKind where
  | revokedWrite | revokedRead | remoteViolation | policed | authFail | hopLimit
  deriving DecidableEq, Repr

/-- An aggregation window: the kind, what one event stands for, its count and its start. -/
structure Agg where
  kind : AggKind
  fn : Nat
  inst : Nat
  arg0 : Nat
  arg1 : Nat
  arg2 : Nat
  count : Nat
  start : Nat
  deriving DecidableEq, Repr

/-- The monitors (22_monitors.md) beside their registers. -/
structure Mon where
  /-- The alarm queue, oldest first (R530). -/
  alarmQ : List EvRec := []
  /-- The event queue in front of the rings, oldest first (R531). -/
  evQ : List EvRec := []
  /-- Suppression counts of the ring of function f, key f * 32 + block (R529). -/
  supp : Map Supp := []
  /-- Time of the last event of a kind limited to one per 1 ms, key code * 2^16 + instance. -/
  limited : Map Nat := []
  /-- Aggregation windows open (R124). -/
  aggs : List Agg := []
  /-- Records copied to the LOG volume of the proof store (R526), oldest first. -/
  logVol : List EvRec := []
  deriving DecidableEq, Repr

/-- A notice in a mailbox channel (R474). -/
structure MbxNotice where
  value : Nat
  seq : Nat
  time : Nat
  deriving DecidableEq, Repr

/-- A mailbox channel beside its registers (20_mailboxes_interrupts.md). -/
structure MbxChan where
  q : List MbxNotice := []
  nextSeq : Nat := 0
  deriving DecidableEq, Repr

/-- An MSI-X table entry and what its vector has counted (R491, R492, R494). -/
structure MsixEnt where
  addr : Nat := 0
  data : Nat := 0
  mask : Bool := true
  pend : Bool := false
  first : Option Nat := none
  deriving DecidableEq, Repr

/-- PCIe configuration of a function: 0 the PF, 1-1,024 the VFs, 2,048 + 2 * port + half the port functions. -/
structure PciFn where
  msixEn : Bool := false
  funcMask : Bool := false
  d3hot : Bool := false
  atsEn : Bool := false
  pasidEn : Bool := false
  pasid : Nat := 0
  /-- Log2 of the size of BAR2 (02_attach_ports.md Table 2-4). -/
  bar2 : Nat := 38
  deriving DecidableEq, Repr

/-- The mailbox hub, the interrupt unit and MSI-X beside their registers. -/
structure Icu where
  mbx : Map MbxChan := []
  /-- Level sources whose condition holds (R483). -/
  level : NSet := []
  /-- Sources active-and-pending, or edges taken during service in SVC_MODE 1 (Table 20-3). -/
  active : NSet := []
  /-- MSI-X entries, key function * 2,048 + vector. -/
  msix : Map MsixEnt := []
  pci : Map PciFn := []
  /-- VF Enable of the SR-IOV capability (R92, R536). -/
  vfEnable : Bool := false
  /-- Domains woken for a notice, and when they may go off again (R481, R482): domain to expiry, if counting. -/
  woken : Map (Option Nat) := []
  deriving DecidableEq, Repr

/-- Who waits for a flush read (R45, R47): a work entry's completion, a notice, a FENCE, a ticket's collective. -/
inductive FlushFor where
  | entry (wqn slot : Nat)
  | notice (qp psn : Nat)
  | fence (wqn slot : Nat)
  | coll (g : Nat)
  deriving DecidableEq, Repr

/-- A flush read outstanding. -/
structure Flush where
  id : Nat
  port : Nat
  half : Nat
  addr : Nat
  who : FlushFor
  deriving DecidableEq, Repr

/-- An entry of a port's peer table (R50). -/
structure Peer where
  port : Nat
  half : Nat
  cid : Nat
  reach : Bool
  deriving DecidableEq, Repr

/-- A peer probe under way for the REGISTER of function f (R48, R49): links still to try, the one on trial first. -/
structure Probe where
  f : Nat
  links : List (Nat × Nat)
  deriving DecidableEq, Repr

/-- A write destination behind a link, since the last FENCE or flushing completion of queue w (R47). -/
structure Dest where
  wqn : Nat
  port : Nat
  half : Nat
  addr : Nat
  deriving DecidableEq, Repr

/-- The attach ports beside their registers (02_attach_ports.md). -/
structure Hif where
  /-- Pages in host bias; every page is in device bias at reset (R39). -/
  hostBias : NSet := []
  /-- The bias flip under way: first page, pages, whether to device bias (R40). -/
  flip : Option (Nat × Nat × Bool) := none
  /-- Host lines held Shared through CXL.cache (R42), at most 8,192. -/
  shared : NSet := []
  peers : List Peer := []
  probes : List Probe := []
  flushes : List Flush := []
  flushId : Nat := 0
  dests : List Dest := []
  deriving DecidableEq, Repr

/-- An entry of the translation cache (R65), least recently used first in its list. -/
structure XEnt where
  fn : Nat
  space : Nat
  pasid : Nat
  /-- Log2 of the page size. -/
  size : Nat
  page : Nat
  out : Nat
  r : Bool
  w : Bool
  deriving DecidableEq, Repr

/-- An entry of the walk cache (R65): the pointer that the level-l entry for the covered region holds. -/
structure WEnt where
  fn : Nat
  level : Nat
  base : Nat
  ptr : Nat
  deriving DecidableEq, Repr

/-- A page walk in a miss slot (R61, R69). -/
structure Walk where
  fn : Nat
  dva : Nat
  acc : Access
  level : Nat
  table : Nat
  stream : Nat
  snum : Nat
  stale : Bool := false
  deriving DecidableEq, Repr

/-- A Translation Request in a miss slot, and whether a Page Request is outstanding for it (R63, R64). -/
structure AtsReq where
  fn : Nat
  space : Nat
  addr : Nat
  acc : Access
  ring : Bool
  stream : Nat
  snum : Nat
  pri : Bool := false
  stale : Bool := false
  deriving DecidableEq, Repr

/-- An invalidation under way (R70, R72): the scope taken at its start, and the host's tag for an ATS one. -/
structure Drain where
  fn : Nat
  scope : Nat
  lo : Nat
  hi : Nat
  ats : Option Nat
  deriving DecidableEq, Repr

/-- The translation unit beside its registers (03_translation.md). -/
structure Xlt where
  root : Map Nat := []
  cache : List XEnt := []
  wcache : List WEnt := []
  walks : Map Walk := []
  ats : Map AtsReq := []
  drains : List Drain := []
  /-- Accesses whose Translation Request or Page Request the host has denied, with the fault reason each takes (R64). -/
  denied : List (AtsReq × Nat) := []
  deriving DecidableEq, Repr

/-- Where a fetched work entry stands. -/
inductive EntSt where
  | fetched | started | done
  deriving DecidableEq, Repr

/-- A completion entry (Table 5-7), PHASE apart. -/
structure CqEnt where
  tag : Nat := 0
  info : Nat := 0
  bytes : Nat := 0
  wqn : Nat := 0xFFFF
  slot : Nat := 0xFFFF
  qpn : Nat := 0
  notice : Bool := false
  opcode : Nat := 1
  status : Nat := 0
  srcNode : Nat := 0
  intr : Bool := false
  deriving DecidableEq, Repr

/-- A fetched work entry (R97) of a WQ. -/
structure Ent where
  slot : Nat
  words : List Nat
  st : EntSt := .fetched
  status : Nat := 0
  info : Nat := 0
  /-- Bytes moved, and bytes whose steps have been granted. -/
  bytes : Nat := 0
  sent : Nat := 0
  /-- Steps started, and transactions not yet final (R139). -/
  steps : Nat := 0
  open_ : Nat := 0
  allSent : Bool := false
  start : Nat := 0
  fetched : Nat := 0
  /-- PSN of the WRITE's first packet (Table 7-3). -/
  psn0 : Nat := 0
  /-- Flush reads its completion waits for (R45). -/
  flush : NSet := []
  /-- Of a loopback WRITE (R52): the CQ and the notice to write when it retires. -/
  note : Option (Nat × CqEnt) := none
  deriving DecidableEq, Repr

/-- States of a WQ (Table 5-5), coded as Table 5-6 returns them. -/
inductive WqSt where
  | disabled | enabled | draining | stopped
  deriving DecidableEq, Repr

/-- A work queue (05_work_queues.md Table 5-6). -/
structure Wq where
  owner : Nat
  base : Nat
  logSize : Nat
  space : Nat
  cls : Nat
  port : Nat
  weight : Nat
  burst : Nat
  interval : Nat
  cqn : Nat
  st : WqSt := .disabled
  phase : Bool := true
  idx : Nat := 0
  ents : List Ent := []
  completed : Nat := 0
  firstFail : Option Nat := none
  stopReason : Nat := 0
  /-- A poll read is outstanding (R96), and the link half it crosses. -/
  polling : Bool := false
  pollLink : Option (Nat × Nat) := none
  /-- A WAIT failed: later entries complete with ST_FLUSHED until DISABLE_WQ (R138). -/
  flushing : Bool := false
  /-- DISABLE_WQ has not completed yet (R109). -/
  disCmd : Bool := false
  /-- Steps granted by the scheduler and not yet carried out (R104). -/
  granted : Nat := 0
  /-- Credits of the queue's inner round, steps taken in this turn, and the turn's `BURST` (R104, R109). -/
  credit : Nat := 0
  turn : Nat := 0
  curBurst : Nat := 0
  /-- The queue's next step has been counted as waiting for the tracking table (R139). -/
  stalled : Bool := false
  deriving DecidableEq, Repr

/-- States of a CQ (Table 5-6). -/
inductive CqSt where
  | normal | full | error
  deriving DecidableEq, Repr

/-- A completion queue. -/
structure Cq where
  owner : Nat
  base : Nat
  logSize : Nat
  space : Nat
  headSpace : Nat
  headAddr : Nat
  vector : Nat
  st : CqSt := .normal
  produced : Nat := 0
  head : Nat := 0
  phase : Bool := true
  widx : Nat := 0
  armed : Option Nat := none
  /-- Notices in the pool for this CQ (R113), oldest first. -/
  held : List CqEnt := []
  deriving DecidableEq, Repr

/-- A scheduler's round (R104): credits of functions in the outer round, the function served last, the current queue of
each function. -/
structure Sched where
  credit : Map Nat := []
  last : Nat := 0
  cur : Map Nat := []
  deriving DecidableEq, Repr

/-- The work-queue engine. -/
structure Wqe where
  wqs : Map Wq := []
  cqs : Map Cq := []
  /-- WQs whose poll is due, in order of due time (R101). -/
  due : List Nat := []
  sched : Map Sched := []
  deriving DecidableEq, Repr

/-- What an index of the region table serves: a function's REGISTER, or the staging of a collective group or of a function's
proof job. -/
inductive RegionFor where
  | app
  | group (g : Nat)
  | job (f : Nat)
  deriving DecidableEq, Repr

/-- A region index (06_remote_memory.md R117, R119): the generation is kept while it is free. -/
structure Region where
  /-- The registered region's owner; none while the index is free. -/
  owner : Option Nat
  lastOwner : Nat
  gen : Nat
  base : Nat := 0
  len : Nat := 0
  space : Nat := 0
  localW : Bool := false
  remoteR : Bool := false
  remoteW : Bool := false
  port : Nat := 0
  half : Nat := 0
  cid : Nat := 0
  probe : Nat := 0
  /-- The in-flight counter of R123. -/
  inflight : Nat := 0
  /-- A revoke (true: of a DEREGISTER) drains. -/
  revoking : Option Bool := none
  use : RegionFor := .app
  /-- Of a group's staging region (R369): plates, `STAGE_OFF`, bytes per plate. -/
  stage : Option (List Nat × Nat × Nat) := none
  deriving DecidableEq, Repr

/-- States of a QP (Table 6-1), coded as Table 6-5 returns them. -/
inductive QpSt where
  | idle | armed | active | error | retired
  deriving DecidableEq, Repr

/-- Commands of a QP that have not completed yet (R128, R129). -/
inductive QpCmd where
  | arm | reset | destroy
  deriving DecidableEq, Repr

/-- What a packet sent and not yet acknowledged belongs to. A `mark` stands for an entry of no packet that completes
when everything before it has (R154). -/
inductive SentKind where
  | data | notice | readReq | connect | mark
  deriving DecidableEq, Repr

/-- A packet sent and not acknowledged, or a marker. -/
structure Sent where
  kind : SentKind
  psn : Nat
  pkt : Packet
  wqn : Nat
  slot : Nat
  step : Nat
  sacked : Bool := false
  /-- Sent at least once: its bytes are in flight (R166). -/
  released : Bool := false
  deriving DecidableEq, Repr

/-- A READ segment outstanding at the initiator (R161). -/
structure RSeg where
  psn : Nat
  wqn : Nat
  slot : Nat
  step : Nat
  off : Nat
  len : Nat
  piece : Nat
  got : NSet := []
  pkt : Packet
  deriving DecidableEq, Repr

/-- What a receiver has recorded of a PSN (R156-R159). -/
structure RxRec where
  psn : Nat
  kind : SentKind
  last : Bool
  refused : Nat
  visible : Bool
  /-- Of a NOTICE: value, length, first PSN, sender; of a READ_REQ: the packet to serve. -/
  pkt : Packet
  delivered : Bool := false
  /-- The region whose in-flight counter it holds (R123). -/
  reg : Option Nat := none
  deriving DecidableEq, Repr

/-- Congestion control of a UMT QP (R166-R168): limits and deferred events. -/
structure QpCc where
  rate : Nat := 0
  window : Nat := 0
  r : Nat := 0
  w : Nat := 0
  base : Option Nat := none
  baseSet : Nat := 0
  lastDec : Nat := 0
  /-- The instant before which the rate lets no frame start (R166). -/
  next : Nat := 0
  deriving DecidableEq, Repr

/-- A congestion-control event (Table 7-6). -/
structure CcEvent where
  kind : Nat
  qp : Nat
  owd : Nat := 0
  ce : Nat := 0
  acked : Nat := 0
  deriving DecidableEq, Repr

/-- A queue pair (06_remote_memory.md R126, 07_transport.md R155). -/
structure Qp where
  owner : Nat
  ncqn : Nat
  transport : Nat
  tc : Nat
  saEn : Bool
  sa : Nat
  maxOut : Nat
  rnode : Nat := 0
  rqpn : Nat := 0
  rip : Nat := 0
  peerInc : Nat := 0
  st : QpSt := .idle
  lastStatus : Nat := 0
  cmd : Option QpCmd := none
  /-- Bound Ethernet port of a UMT QP (R153). -/
  port : Option Nat := none
  psn : Nat := 0
  /-- The initial PSN it chose (R155). -/
  ipsn : Nat := 0
  epsn : Nat := 0
  /-- CUM_PSN of the last ACK sent (R160). -/
  lastCum : Nat := 0
  una : List Sent := []
  reads : List RSeg := []
  rx : List RxRec := []
  /-- Recorded packets not yet acknowledged, whether an ACK is owed, and CE marks since the last ACK. -/
  ackDue : Nat := 0
  ce : Nat := 0
  echoTx : Nat := 0
  owd : Nat := 0
  retry : Nat := 0
  expE : Nat := 0
  /-- The hole already resent since the last expiry (R163). -/
  fast : Option Nat := none
  /-- Packets waiting for release (R166), oldest first, each with its frame's owner entry. -/
  txq : List Packet := []
  /-- Acknowledgements, responses and connect packets waiting for release. -/
  ctl : List Packet := []
  /-- The next packet has taken its function token and waits for a port token (R243). -/
  fnTok : Bool := false
  /-- When the retransmit timer was started (R162), and when the oldest packet not acknowledged came (R158). -/
  timerAt : Nat := 0
  ackSince : Option Nat := none
  cc : QpCc := {}
  retireAt : Option Nat := none
  deriving DecidableEq, Repr

/-- A transaction in the tracking table (R139). -/
structure Trk where
  fn : Nat
  qp : Nat
  wqn : Nat
  slot : Nat
  step : Nat
  deriving DecidableEq, Repr

/-- The queue-pair and transport engines. -/
structure Qpe where
  regions : Map Region := []
  /-- Freed indices, oldest first, and the lowest index never used (R119). -/
  freed : List Nat := []
  nextIdx : Nat := 0
  qps : Map Qp := []
  trk : List Trk := []
  /-- DEREGISTER waiting per function: the index. -/
  dereg : Map Nat := []
  /-- Event queues of the 16 transport cores, and deferred events, oldest first (R168). -/
  ccq : Map (List CcEvent) := []
  ccDefer : List CcEvent := []
  /-- Program banks of the transport cores: bytes written by offset; a bank not listed holds the default program. -/
  ccBank : Map (Map Byte) := []
  deriving DecidableEq, Repr

/-- A token bucket (10_time_and_gates.md R242): tokens, last refill, and the values in force until the next refill. -/
structure Bucket where
  count : Nat
  last : Nat
  period : Nat
  quantum : Nat
  burst : Nat
  deriving DecidableEq, Repr

/-- A hatch list beside its registers (R236, R239): start of the running bank's cycles, when it has been fixed by a
swap, and the instant of a swap under way. -/
structure Hatch where
  origin : Option Nat := none
  swapAt : Option Nat := none
  deriving DecidableEq, Repr

/-- The timebase's discipline, hatch lists and buckets. -/
structure Tim where
  /-- Discipline samples waiting, oldest first (R200, R227): the offset in 2^-16 ns, the port (16 PPS, 17 PTP), `TLOCK`. -/
  samples : List (Int × Nat × Bool) := []
  /-- Consecutive samples within the lock window, consecutive beyond four times it, time of the last usable sample. -/
  good : Nat := 0
  bad : Nat := 0
  lastSample : Nat := 0
  /-- `ROOT_NODE` has been recorded lost: `EFF_ROOT` is `BACKUP_NODE` (R230). -/
  rootLost : Bool := false
  hatch : Map Hatch := []
  /-- Buckets by register key. -/
  buckets : Map Bucket := []
  deriving DecidableEq, Repr

/-- States of an SA (Table 11-3), coded as Table 11-10 returns them. -/
inductive SaSt where
  | free | active | retiring | exhausted | blocked
  deriving DecidableEq, Repr

/-- A security association (11_cipher.md R249). -/
structure Sa where
  owner : Nat
  st : SaSt
  remoteSa : Nat
  txKey : Nat
  rxKey : Nat
  txSalt : Nat
  rxSalt : Nat
  /-- Next sending counter; 2^48 once exhausted. -/
  ctr : Nat
  warned : Bool := false
  succ : Option Nat := none
  fails : Nat := 0
  /-- Highest counter accepted plus 1 (0: none), and the counters accepted in the window below it. -/
  top : Nat := 0
  seen : NSet := []
  /-- Counters below this are refused: those a restored record names (R259). -/
  floor : Nat := 0
  /-- Whether a DELETE (false) or SAVE (true) waits for the engine's last packet. -/
  ending : Option Bool := none
  deriving DecidableEq, Repr

/-- The cipher engine beside its registers. -/
structure Cip where
  sas : Map Sa := []
  kek : Option Nat := none
  /-- Times of a core's Inverse disagreements within 1 s (R257). -/
  inverse : Map (List Nat) := []
  deriving DecidableEq, Repr
/-- The power manager beside its registers (21_power.md). -/
structure Pwr where
  /-- Domains whose request to go On waits, first served first (R498). -/
  rampQ : List Nat := []
  /-- Ramping domains whose ramp has ended and whose isolation is still closed. -/
  rampDone : NSet := []
  /-- Rail groups whose ramps pause, and since when (R499). -/
  paused : Map Nat := []
  deriving DecidableEq, Repr

/-- A packet in the router (08_amholt_fabric.md R186): its header, the 120-byte pieces received, how many it has in all and
how many have left, and what the router decided: output port (12 local), outgoing VC, or a drop. -/
structure FPkt where
  hdr : Packet
  data : List (List Byte)
  total : Nat
  sent : Nat := 0
  poison : Bool := false
  routed : Bool := false
  out : Nat := 15
  vc : Nat := 0
  started : Bool := false
  drop : Bool := false
  /-- Its cells count as credit of the link's present run (R179). -/
  credit : Bool := true
  deriving DecidableEq, Repr

/-- An Amholt link beside its registers (R177-R183). -/
structure FabLink where
  /-- When its stage was entered, and the good training cells in a row. -/
  since : Nat := 0
  good : Nat := 0
  /-- Down after a failure: it waits 10 ms (Table 8-6). -/
  waiting : Bool := false
  /-- Next SEQ to send, expected SEQ, last `ACK_SEQ` received and when it advanced. -/
  seq : Nat := 0
  exp : Nat := 0
  acked : Nat := 0
  ackedAt : Nat := 0
  /-- Cells not acknowledged, oldest first. -/
  retry : List (List Byte) := []
  /-- A NAK has been sent and the expected cell has not come. -/
  nak : Bool := false
  resends : Nat := 0
  /-- What the partner advertised. -/
  rxCells : Nat := 0
  resData : Nat := 0
  resMgmt : Nat := 0
  /-- Cells sent per VC, the partner's `CREDITv`, our cells freed per VC, and our cells held per VC. -/
  sent : List Nat := [0, 0, 0, 0, 0, 0, 0, 0]
  credit : List Nat := [0, 0, 0, 0, 0, 0, 0, 0]
  freed : List Nat := [0, 0, 0, 0, 0, 0, 0, 0]
  held : List Nat := [0, 0, 0, 0, 0, 0, 0, 0]
  /-- VC of the packet that is arriving, and its cells still to come. -/
  cur : Nat := 0
  left : Nat := 0
  /-- `T_TX` of the latest good control or training cell, and its arrival, in 2^-16 ns. -/
  echo : Nat := 0
  echoRx : Nat := 0
  peerInc : Nat := 0
  peerSeen : Bool := false
  peerNode : Nat := 0
  peerPort : Nat := 0
  /-- `DIM`, `DIR` and `DATELINE` in force since `EN` was set. -/
  dim : Nat := 0
  dir : Nat := 0
  dateline : Bool := false
  /-- Times of the last EV_LINK_REFUSED and of the last time sample passed on. -/
  refusedAt : Option Nat := none
  sampleAt : Option Nat := none
  deriving DecidableEq, Repr

/-- An output port's arbitration (R196): virtual time, tags of inputs 0-12, inputs that held a ready packet, packets
started (time, input, HOPS), the VC served last per input, the packet being sent, and VC6's cells in its window (R25). -/
structure FabOut where
  v : Nat := 0
  tags : List Nat := [0, 0, 0, 0, 0, 0, 0, 0, 0, 0, 0, 0, 0]
  had : NSet := []
  hist : List (Nat × Nat × Nat) := []
  rr : List Nat := [0, 0, 0, 0, 0, 0, 0, 0, 0, 0, 0, 0, 0]
  cur : Option (Nat × Nat) := none
  vc6Window : Nat := 0
  vc6Cells : Nat := 0
  deriving DecidableEq, Repr

/-- The fabric beside its registers. -/
structure Fab where
  links : Map FabLink := []
  /-- Input FIFOs, key input * 8 + VC; input 12 is the injection port. -/
  bufs : Map (List FPkt) := []
  /-- When the head of a FIFO came to be its head, and the FIFOs whose stall has been reported (R198). -/
  headAt : Map Nat := []
  stalled : NSet := []
  outs : Map FabOut := []
  /-- Drops since the last EV_FAB_DROP of a reason (R204). -/
  drops : Map Nat := []
  /-- The instant of the last flip while its drain runs, and whether the drain is over (R194). -/
  flipAt : Option Nat := none
  drained : Bool := false
  /-- The fault map (R202, R543), oldest entry first. -/
  faults : List FaultEnt := []
  /-- Positions of node IDs changed by spare takeover (R202). -/
  moves : Map Nat := []
  /-- A new fault-map entry has not yet been written into routes (R203). -/
  routeDue : Bool := false
  deriving DecidableEq, Repr

/-- An Ethernet port beside its registers (09_ethernet_ports.md). -/
structure MacPort where
  /-- The last frame started was raw (R215). -/
  lastRaw : Bool := false
  /-- UMT frames waiting for the transmitter, oldest first: the packet, and its addressing in the order of `State.umtAddr`. -/
  umtQ : List (Packet × List Nat) := []
  /-- The bytes of the UMT frame that is being sent, FCS included. -/
  cur : Option (List Byte) := none
  deriving DecidableEq, Repr

/-- The Ethernet ports. -/
structure Mac where
  ports : Map MacPort := []
  /-- When the last PPS_IN edge was latched. -/
  ppsAt : Option Nat := none
  /-- The second at which PPS_OUT last rose. -/
  ppsSec : Nat := 0
  deriving DecidableEq, Repr

/-- Where a core stands: halted, running, or waiting at a barrier (R268). -/
inductive CoreRun where
  | halted | running | barrier (b : Nat)
  deriving DecidableEq, Repr

/-- A core that runs the instruction set (13_burin_isa.md Tables 13-2 and 13-3). Registers that are not listed hold 0. -/
structure CoreSt where
  run : CoreRun := .halted
  /-- Program counter: byte offset of the next bundle (R283). -/
  pc : Nat := 0
  s : Map Word := []
  v : Map (BitVec 2048) := []
  m : Map Word := []
  /-- Accumulator elements, FP32: key acc * 1,024 + row * 32 + column. -/
  acc : Map (BitVec 32) := []
  mode : Word := 0
  flags : Word := 0
  loop0 : Word := 0
  loop1 : Word := 0
  epc : Word := 0
  ecause : Word := 0
  eaddr : Word := 0
  evec : Word := 0
  srseed : Word := 0
  /-- Shadow bundles still due, and the mode they run under (R291). -/
  shadow : Nat := 0
  oldMode : Word := 0
  /-- In a delay slot: the PC of the branch, and where execution continues after the slot (R292). -/
  delay : Option (Nat × Nat) := none
  /-- In an exception handler (R307). -/
  handler : Bool := false
  /-- The next bundle is a branch that ERET executes again alone (Table 13-12). -/
  alone : Bool := false
  deriving DecidableEq, Repr

/-- A barrier of a plate (R268): participants (bit 32 the sequencer), arrived and waiting, generation, the time at which its
oldest waiter began to wait, and whether the stall has been reported. -/
structure Barrier where
  mask : Nat := 0
  arrived : Nat := 0
  gen : Nat := 0
  since : Nat := 0
  told : Bool := false
  deriving DecidableEq, Repr

/-- A queue of the plate mover (R272, R273): descriptors posted (words 0-4), oldest first; ended; error flag. -/
structure MoverQ where
  q : List (List Nat) := []
  ended : Nat := 0
  err : Bool := false
  deriving DecidableEq, Repr

/-- A ticket a plate holds (R304): the status of its collective once it has ended. -/
structure Ticket where
  status : Option Nat := none
  deriving DecidableEq, Repr

/-- The fields of an image header that a load or a run needs (Table 12-4). -/
structure Image where
  burins : Nat := 0
  text : Nat := 0
  seqEntry : Nat := 0
  burinEntry : Nat := 0
  dataOff : Nat := 0
  dataLen : Nat := 0
  lsLen : Nat := 0
  deriving DecidableEq, Repr

/-- A plate beside its registers and memories (12_plates.md). -/
structure PlateSt where
  /-- The image of the last load that read a valid header, and, while a load runs, its address and space. -/
  image : Image := {}
  load : Option (Nat × Nat) := none
  /-- Value `END` takes when the transfers of a stopped program have ended (R267). -/
  stopping : Option Nat := none
  /-- A plate reset has been taken and its zeroing has not ended (R281). -/
  resetting : Bool := false
  /-- Exposed burins started by the last `START`. -/
  started : NSet := []
  bars : Map Barrier := []
  /-- Claims made since the last write of `LIMIT`: key dispenser * 32 + burin (R271). -/
  claims : Map Nat := []
  mover : Map MoverQ := []
  tickets : Map Ticket := []
  phase : Nat := 0
  /-- Physical burins retired whose substitution waits (R276). -/
  retired : List Nat := []
  /-- Physical burins in use no more. -/
  spent : NSet := []
  deriving DecidableEq, Repr

/-- The plates and the cores. -/
structure Plt where
  plates : Map PlateSt := []
  /-- Cores by key: plate * 64 + burin, plate * 64 + 32 for the sequencer, 8,192 + i for transport core i. -/
  cores : Map CoreSt := []
  /-- Scratch memories of the transport cores (R314), key core * 4,096 + offset: bytes written since the event began; and the
  free values that stand for the rest. -/
  scratch : Map Byte := []
  scratchFree : Map Nat := []
  /-- Of each transport core that runs an event: the address of the QP's state and its bytes as the event found them, which
  an abandoned handler leaves (R168). -/
  ccState : Map (Nat × List Byte) := []
  deriving DecidableEq, Repr

/-- Who waits for a collective (R371, R304): a work entry, or a plate's ticket. -/
inductive CollFor where
  | entry (wqn slot : Nat)
  | ticket (p t : Nat)
  deriving DecidableEq, Repr

/-- A collective accepted (R373): words 0-6 of its descriptor, the function, who waits, and when it was accepted. -/
structure CollJob where
  words : List Nat
  fn : Nat
  who : CollFor
  at_ : Nat
  deriving DecidableEq, Repr

/-- A ring of a group (R368). -/
structure Ring where
  size : Nat
  pos : Nat
  next : Nat
  prev : Nat
  key : Nat
  deriving DecidableEq, Repr

/-- A chunk of a collective's schedule (R375-R378): its ring and its number there, stripe, phase (0 reduce-scatter, 1
all-gather or broadcast, 2 all-to-all), stage, step; the first unit and the units it carries; `link` n: what a receipt with
link n brought, a send with link n forwards, 0 being local data; whether it ends at this member. -/
structure Chunk where
  ring : Nat
  k : Nat := 0
  stripe : Nat
  ph : Nat
  stage : Nat
  step : Nat
  unit : Nat
  units : Nat
  link : Nat
  final : Bool := false
  deriving DecidableEq, Repr

/-- What a record asks of the program, and which chunk it is about (R384). -/
structure Rec where
  /-- 1 PRE, 2 COMBINE, 3 FINAL, 4 GATHER; without the program: 5 a received chunk delivered, 6 the member's own data
  delivered. -/
  hook : Nat
  chunk : Chunk
  plate : Nat
  deriving DecidableEq, Repr

/-- A running collective (R373-R387). Sets and maps of chunks are keyed ring * 2^20 + number; data the member holds, by
stripe * 16 + stage (15: complete data) and unit, is in `WIRE` form, one list of bytes per unit. -/
structure CollRun where
  job : CollJob
  seq : Nat
  /-- Chunks whose data is ready to send, and when; their bytes; those started; those that arrived, and when; those that the
  member is done with. -/
  ready : Map Nat := []
  data : Map (List Byte) := []
  started : NSet := []
  arrived : Map Nat := []
  spent : NSet := []
  held : Map (List Byte) := []
  /-- Local chunks whose PRE record has been asked for. -/
  asked : NSet := []
  /-- Records not yet written, oldest first, and records written or not that are not DONE. -/
  todo : List Rec := []
  live : Nat := 0
  bytes : Nat := 0
  deriving DecidableEq, Repr

/-- States of a group (R366), coded as QUERY_GROUP returns them. -/
inductive GroupSt where
  | created | ready | broken
  deriving DecidableEq, Repr

/-- A collective group (16_collectives.md R366-R390). -/
structure Group where
  owner : Nat
  st : GroupSt := .created
  plates : List Nat
  dims : Nat
  tc : Nat
  align : Bool
  weight : Nat
  slots : Nat
  slotKib : Nat
  stageOff : Nat
  carry : Nat
  carryLen : Nat
  region : Nat
  rings : Map Ring := []
  /-- `PKIND` (2: none), space, image, digest and `REC_OFF`. -/
  pkind : Nat := 2
  pspace : Nat := 0
  image : Nat := 0
  digest : Nat := 0
  recOff : Nat := 0
  /-- Plates whose program still loads for an ENABLE_GROUP. -/
  enabling : Option (List Nat) := none
  seq : Nat := 0
  queue : List CollJob := []
  run : Option CollRun := none
  /-- Slots at successors that are in use: ring * 65,536 + slot number. -/
  busy : NSet := []
  slack : Nat := 0
  late : Nat := 0
  steps : Nat := 0
  deriving DecidableEq, Repr

/-- The record ring of a plate (R383): records written; those not yet DONE, with the group each belongs to (none for the
STOP record and for records of a collective that has ended); and whether the STOP record is still to be written. -/
structure RecRing where
  count : Nat := 0
  open_ : List (Nat × Option (Nat × Rec)) := []
  stop : Bool := false
  deriving DecidableEq, Repr

/-- The collective engine. -/
structure Col where
  groups : Map Group := []
  /-- Launches whose program loads or runs, by plate (R372); true while it loads. -/
  launches : Map (CollJob × Bool) := []
  /-- Plates that a group's program runs on or is being loaded on: plate to the program's digest and `REC_OFF`. -/
  bound : Map (Nat × Nat) := []
  recs : Map RecRing := []
  /-- Notices that arrived on the QPs of groups and proof jobs, oldest first (R368): QP, value, bytes announced. -/
  notices : List (Nat × Nat × Nat) := []
  /-- Chunks each group may still start in the round of an output port (R381): port * 4,096 + group. -/
  credit : Map Nat := []
  deriving DecidableEq, Repr

/-- The counterproof unit beside its registers (17_reproducibility.md R400-R417). -/
structure Cpf where
  /-- `State.clk` at the origin. -/
  clk0 : Nat := 0
  /-- The partner's frequency plan (R407): key (plate * 64 + exposed burin) * 16 + point, its limit k. -/
  peerPlan : Map Nat := []
  /-- A follower that has ended: its engines are halted until `STOP` (R413). -/
  halted : Bool := false
  /-- The delay FIFO, oldest first (R405). -/
  fifo : List TraceRec := []
  /-- Inputs that the follower has applied, whose own commands come next (R402, R403). -/
  inputs : List TraceRec := []
  /-- Observations of the follower not yet compared, oldest first. -/
  own : List TraceRec := []
  /-- Records the lead has sent: cycle and bytes (R404). -/
  sent : List (Nat × Nat) := []
  /-- That the trace volume is full has been reported (R460). -/
  volFull : Bool := false
  /-- The bit that the next self-test inverts (R411). -/
  testBit : Nat := 0
  /-- Identity registers as they were before the follower took on the lead's (R402). -/
  saved : List (Nat × Word) := []
  /-- The trace volume that is recorded or replayed, and the bytes of it already read (R415, R416). -/
  vol : Option Nat := none
  readPos : Nat := 0
  /-- Bytes of each outbound stream since its digest was last closed, by `SOURCE` (R409). -/
  streams : Map (List Byte) := []
  deriving DecidableEq, Repr

/-- A member entry of a job table (18_proofs.md Table 18-1). -/
structure Member where
  node : Nat
  domain : Nat
  group : Nat
  pos : Nat
  data : Bool
  spare : Bool
  deriving DecidableEq, Repr

/-- A group entry of a job table (Table 18-2). -/
structure ParityGroup where
  p : List Nat
  q : List Nat
  maxPages : Nat
  deriving DecidableEq, Repr

/-- A protected region (R422): base, bytes, space, the local key of a peer region, first page in the image, the HBM pages behind
it; `fresh` until the first cut after it was added. -/
structure ProtRegion where
  base : Nat
  len : Nat
  space : Nat
  lkey : Nat
  page : Nat
  hbm : List Nat
  fresh : Bool := true
  deriving DecidableEq, Repr

/-- A flash proof (R432): number, regions it covers (base, bytes, space), image pages, parity pages. A page is the map of its
bytes that are not 0. -/
structure FlashProof where
  n : Nat
  regions : List (Nat × Nat × Nat)
  image : Map (Map Byte)
  parity : Map (Map Byte)
  segs : Nat := 0
  usable : Bool := false
  deriving DecidableEq, Repr

/-- A proof job of this module (R418-R451). Pages are maps of bytes that are not 0. Its state, coordinator, counts and proof
numbers stand in its registers. Parity pages are keyed ((group * 8 + stripe) * 2 + (0 P, 1 Q)) * 2^32 + page of the stripe. -/
structure Job where
  id : Nat
  self : Nat
  rebuild : Bool
  members : List Member
  groups : List ParityGroup
  table : Nat
  undo : Nat
  undoPages : Nat
  parity : Nat
  parityPages : Nat
  flashEvery : Nat
  /-- Index of the staging region (R425). -/
  region : Nat
  /-- Bound QP and staging key of each peer member. -/
  qps : Map (Nat × Nat) := []
  commitWq : Option Nat := none
  regions : Map ProtRegion := []
  /-- Old contents of pages whose region was removed since the last cut. -/
  gone : Map (Map Byte) := []
  /-- The last cut, and whether its step is uncommitted; a STEP that waits (R430). -/
  cut : Nat := 0
  stepping : Bool := false
  waiting : Option Nat := none
  /-- Undo generations: old contents of image pages and of parity pages changed in an interval (R423, R425). -/
  gens : Map (Map (Map Byte)) := []
  parityGens : Map (Map (Map Byte)) := []
  parityMem : Map (Map Byte) := []
  /-- Committed copies of peer pages, and those taken at the last cut (R424); regions whose copies have not ended. -/
  peerOld : Map (Map Byte) := []
  peerNew : Map (Map Byte) := []
  peersLeft : List Nat := []
  /-- Deltas of the step, and those not yet sent: holder and page. -/
  deltas : Map (Map Byte) := []
  todo : List (Nat × Nat) := []
  /-- Per holder: deltas sent in the step, its slots in use, the next slot; holders told the end (R426). -/
  sent : Map Nat := []
  slots : Map NSet := []
  slotNext : Map Nat := []
  told : NSet := []
  /-- Per sender, as a holder: deltas folded in the step, the next slot, the count announced (R425, R428). -/
  got : Map Nat := []
  slotIn : Map Nat := []
  announced : Map Nat := []
  /-- Prepared itself; children prepared; PREPARED sent on (R428). -/
  ready : Bool := false
  kids : NSet := []
  forwarded : Bool := false
  /-- FAIL has been sent for the step (R429). -/
  failSent : Bool := false
  /-- The flash proof being written, and what the commit tree has reported of it (R433, R459). -/
  snap : Option FlashProof := none
  flashN : Nat := 0
  flashSelf : Bool := false
  flashKids : NSet := []
  flashFailed : Bool := false
  /-- Members lost; the proof that a rollback restores and whether it is still to be restored; ROLLED and rebuilds reported;
  RECOVERED received; a RESTORE_FLASH under way (R442-R447, R434). -/
  lostSet : NSet := []
  target : Nat := 0
  restoring : Bool := false
  rolledSelf : Bool := false
  rolled : NSet := []
  rolledSent : Bool := false
  rebuilt : NSet := []
  recovered : Bool := false
  loading : Option Nat := none
  /-- Spares picked, by spare's member index: the member replaced; members whose replacement waits for a spare (R444). -/
  picked : Map Nat := []
  noSpare : NSet := []
  /-- An ADD_SPARES not yet acknowledged: the new members; members that have reported the new count (R445). -/
  newMembers : Option (List Member) := none
  spareReports : NSet := []
  /-- Entries below this may be picked as spares; the rest once every survivor has reported (R445). -/
  pickable : Nat := 0
  /-- A new coordinator asks the survivors for their committed proofs before it rolls back; their answers (R442). -/
  asking : Bool := false
  answers : Map Nat := []
  deriving DecidableEq, Repr

/-- A fault report (R439): origin, unit, signature, timebase, reports suppressed before it, and, of EV_LINK_DOWN, reason,
`LAST_GOOD_SEQ`, `LAST_ACK_SEQ`, partner node and partner port. -/
structure FaultReport where
  origin : Nat
  unit : Nat
  sig : Nat
  time : Nat
  count : Nat
  link : Option (Nat × Nat × Nat × Nat × Nat) := none
  deriving DecidableEq, Repr

/-- A window of the sink (R440). -/
structure FaultWindow where
  first : FaultReport
  opened : Nat
  count : Nat
  origins : NSet
  reports : List FaultReport
  deriving DecidableEq, Repr

/-- What the sink blames for a failed link (Table 18-3): direction from a node to a node, the cable or both PHYs, a module, or
a direction pending the other end's report. -/
inductive Blame where
  | direction (a b : Nat)
  | cable (a b : Nat)
  | module (b : Nat)
  | pending (b a : Nat)
  deriving DecidableEq, Repr

/-- The proof manager beside its registers. -/
structure Prf where
  /-- Jobs by function (R418). -/
  jobs : Map Job := []
  /-- When each neighbour was last heard, and suspicions: suspect * 65,536 + suspecting node (R435, R436). -/
  heard : Map Nat := []
  suspects : NSet := []
  /-- Fault reports of a signature: when the last was sent, and those suppressed since (R439). -/
  sentAt : Map (Nat × Nat) := []
  windows : Map FaultWindow := []
  /-- The last report of each end of a link that went down (R441). -/
  downs : List FaultReport := []
  blames : List Blame := []
  deriving DecidableEq, Repr

/-- Kinds of volume (Table 19-2). -/
inductive VolKind where
  | proof | trace | firmware | freqplan | log
  deriving DecidableEq, Repr

/-- A volume (R456, R457): the erase counts of its segments; the bytes below its durable length; bytes accepted and not yet
programmed; flash proofs of a PROOF volume. -/
structure Vol where
  kind : VolKind
  owner : Nat
  segs : List Nat
  data : List Byte := []
  buf : List Byte := []
  proofs : List FlashProof := []
  deriving DecidableEq, Repr

/-- The proof store (19_proof_store.md). -/
structure Ps where
  vols : Map Vol := [(0, ⟨.firmware, 1025, List.replicate 4 0, [], [], []⟩), (1, ⟨.freqplan, 1025, [0], [], [], []⟩),
    (2, ⟨.log, 1025, List.replicate 256 0, [], [], []⟩)]
  /-- Free segments by erase count (R466). -/
  free : Map Nat := [(0, 55370)]
  /-- Spare blocks left per die. -/
  spares : Map Nat := []
  dies : NSet := []
  holdupLow : Bool := false
  /-- The last checkpoint is of the present metadata (R463); the next command's completion waits for one (R465). -/
  clean : Bool := true
  waitCkpt : Bool := false
  /-- The last checkpoint: volumes with their durable lengths, and erase counts. -/
  ckpt : Map Vol := []
  ckptInc : Nat := 0
  /-- The power-fail signal has asserted: nothing more is accepted (R464). -/
  failed : Bool := false
  deriving DecidableEq, Repr

/-- A thermal sensor beside its register (21_power.md R516-R518): when it last read within range, readings in a row at or above
its class's `TRIP`, whether it throttles, when it last entered throttling. -/
structure Sensor where
  seen : Nat := 0
  trips : Nat := 0
  hot : Bool := false
  warnedAt : Option Nat := none
  deriving DecidableEq, Repr

/-- A member of the power pool as its leader holds it (R510, R511): `CAP`, at_max, steps and LATE steps of the last report, its
shifted cap, when it last reported. -/
structure PoolMember where
  cap : Nat
  atMax : Bool
  steps : Nat
  late : Nat
  shifted : Nat
  seen : Nat
  deriving DecidableEq, Repr

/-- The power manager beside its registers (21_power.md R504-R521). -/
structure Pm where
  /-- The limit in force at the last control instant, and the 10,000 ns of the timebase that began with it, plus 1. -/
  limit : Nat := 1000
  instant : Nat := 0
  /-- The shifted cap last received, and when (R511, R513). -/
  shifted : Option Nat := none
  replyAt : Nat := 0
  pool : Map PoolMember := []
  /-- Steps and LATE steps of the collectives that have ended since the last report, and when a function last had LATE steps
  (R510, R512). -/
  steps : Nat := 0
  late : Nat := 0
  lateAt : Map Nat := []
  /-- The power brake is applied (R515). -/
  brake : Bool := false
  /-- Plates whose clocks are stretched, their stretches within 1 ms, and their droop limits with the end of each (R514). -/
  stretched : NSet := []
  droopAt : Map (List Nat) := []
  droop : Map (Nat × Nat) := []
  sensors : Map Sensor := []
  /-- Thermal duty of plates below 16/16, when a plate's thermal limits last moved, the cut of the limit in percent and when it
  last moved (R517). -/
  tduty : Map Nat := []
  thermAt : Map Nat := []
  cut : Nat := 0
  cutAt : Nat := 0
  /-- Sums of meters at the last control instant, by set * 4 + share of R90: 0 HBM, 1 network, 2 attach, 3 store. -/
  charged : Map Nat := []
  /-- The factory frequency plan and the plan of the FREQPLAN volume, by register key; an unlisted key holds the reset value of
  `PWR_FPLAN` (R520). -/
  factory : Map Word := []
  plan : Map Word := []
  deriving DecidableEq, Repr

/-- The boot flash (23_boot_reset.md Table 23-3): images of slots 0 and 1; boot descriptors A and B (generation, active slot,
valid); the writes of the configuration record, none when its CRC fails; the last entry of the incarnation log. -/
structure Flash where
  slots : Map (List Byte) := []
  desc : List (Nat × Nat × Bool) := [(1, 0, true), (0, 0, true)]
  config : Option (List (Nat × Word)) := some []
  incLog : Option Nat := some 0
  deriving DecidableEq, Repr

/-- The one-time fuses (R538): key hashes, keys revoked, the security floor. -/
structure Fuses where
  hashes : Map Nat := []
  revoked : NSet := []
  floor : Nat := 0
  deriving DecidableEq, Repr

/-- Instructions of the test access port (24_module_interface.md R556). -/
inductive TapIr where
  | bypass | idcode | sample | extest
  deriving DecidableEq, Repr

/-- The module as a whole: reset, boot, pins, test access. -/
structure Top where
  /-- Transmission and every switched domain are stopped until a cold reset (R18, R518, R556). -/
  stopped : Bool := false
  /-- The module holds itself in reset after a power failure (R550). -/
  held : Bool := false
  pgIn : Bool := true
  /-- REFSEL as sampled at the last rise of PG_IN: the external reference is used (R548). -/
  refsel : Bool := false
  /-- The HIF lock, which firmware sets at stage 1 (R30, R539); it has no register. -/
  hifLock : Bool := false
  /-- Ports whose PERST_N is low. -/
  perst : NSet := []
  /-- Functions under a function-level reset. -/
  flr : NSet := []
  serial : Nat := 0
  /-- Volumes found longer than the last checkpoint says, to be reported once boot completes (R464): volume, owner, bytes. -/
  losses : List (Nat × Nat × Nat) := []
  flash : Flash := {}
  fuses : Fuses := {}
  /-- The slot that STAGE has written and verified (R538). -/
  staged : Option Nat := none
  /-- Measurements recorded for SPDM, the boot image's first. -/
  measures : List Nat := []
  /-- Input voltage (10 mV) and current (10 mA) over the last 1 ms (Table 24-6a). -/
  vin : Nat := 0
  iin : Nat := 0
  /-- Test access port: instruction, data register shifted out, preloaded boundary data. -/
  ir : TapIr := .idcode
  dr : Nat := 0
  preload : Nat := 0
  deriving DecidableEq, Repr
/-- The state of the block. -/
structure State where
  /-- The commands that wait, first in first out. -/
  pending : List Instr := []
  /-- The model's own counter of free values drawn; `Config.freeValue free` is the next (not the spec's). -/
  free : Nat := 0
  grade : Grade := .a64
  /-- The timebase: nanoseconds, and the 32-bit internal fraction (R222). -/
  time : Nat := 0
  frac : Nat := 0
  /-- Nanoseconds since reset on the block's own clocks, by which durations are measured (the model's own; log 2). -/
  clk : Nat := 0
  /-- Memory by DPA: HBM, and the plate windows; an unlisted byte reads 0. -/
  mem : List Host.Cell := []
  /-- Registers by key. -/
  regs : Map Word := []
  /-- What the block has sent outside, oldest first. -/
  out : List Out := []
  mon : Mon := {}
  icu : Icu := {}
  hif : Hif := {}
  xlt : Xlt := {}
  wqe : Wqe := {}
  qpe : Qpe := {}
  tim : Tim := {}
  cip : Cip := {}
  pwr : Pwr := {}
  fab : Fab := {}
  mac : Mac := {}
  plt : Plt := {}
  col : Col := {}
  cpf : Cpf := {}
  prf : Prf := {}
  ps : Ps := {}
  pm : Pm := {}
  top : Top := {}
  deriving DecidableEq, Repr

/-- The machine right after a cold reset, before its boot (Table 23-4): every register at its reset value, memory zero,
every table empty, no command waiting. -/
def State.reset : State := {}

end Sys2Proof.Machine
end

