-- ==== Sys2Proof/Machine/CollPlan.lean ====
section
/-! DEFINITION. The schedule of a collective (16_collectives.md R364-R378): the fields of its descriptor, the sizes of its
units and chunks, and the chunks a member sends and receives on each ring. The order in which the chunks of several stripes
are numbered on a ring is the model's (log 40). -/

namespace Sys2Proof.Machine

/-! ### Descriptor (Table 16-4) -/

/-- Word i of a descriptor. -/
def cw (ws : List Nat) (i : Nat) : Nat := ws.getD i 0
/-- `KIND`. -/
def cKind (ws : List Nat) : Nat := nbits (cw ws 3) 63 56
/-- `OP`. -/
def cOp (ws : List Nat) : Nat := nbits (cw ws 3) 55 48
/-- `GROUP`. -/
def cGroup (ws : List Nat) : Nat := nbits (cw ws 3) 43 32
/-- The plate of a LAUNCH. -/
def cPlate (ws : List Nat) : Nat := nbits (cw ws 3) 37 32
/-- `COUNT`. -/
def cCount (ws : List Nat) : Nat := nbits (cw ws 3) 31 0
/-- `TIMEOUT`. -/
def cTimeout (ws : List Nat) : Nat := nbits (cw ws 4) 63 32
/-- `DIMMASK`. -/
def cDims (ws : List Nat) : Nat := nbits (cw ws 4) 31 26
/-- `TYPE`, `WIRE` and `DTYPE`. -/
def cType (ws : List Nat) : Nat := nbits (cw ws 4) 23 19
@[inherit_doc cType] def cWire (ws : List Nat) : Nat := nbits (cw ws 4) 18 14
@[inherit_doc cType] def cDtype (ws : List Nat) : Nat := nbits (cw ws 4) 13 9
/-- `STRIPES`. -/
def cStripes (ws : List Nat) : Nat := nbits (cw ws 4) 8 6
/-- `GHOOK`. -/
def cGhook (ws : List Nat) : Bool := nbit (cw ws 4) 5
/-- `ROOT`. -/
def cRoot (ws : List Nat) : Nat := nbits (cw ws 6) 63 48
/-- `SSPACE` and `DSPACE`. -/
def cSspace (ws : List Nat) : Nat := nbits (cw ws 6) 3 2
@[inherit_doc cSspace] def cDspace (ws : List Nat) : Nat := nbits (cw ws 6) 1 0

/-- The words of a descriptor, as a mask, that hold a reserved bit set to 1 (R371). -/
def collReserved (ws : List Nat) : Nat :=
  (if nbits (cw ws 3) 47 44 ≠ 0 ∨ (cKind ws = 0 ∧ nbits (cw ws 3) 43 38 ≠ 0) then 8 else 0) +
  (if nbits (cw ws 4) 4 0 ≠ 0 then 16 else 0) + (if nbits (cw ws 6) 47 4 ≠ 0 then 64 else 0)

/-! ### Sizes (R336, R375, R378) -/

/-- Whether a type is block-scaled. -/
def isBlk (t : Elt) : Bool := decide (t = .bs8) || decide (t = .bs4)

/-- The type of a code; codes that Table 13-1 does not list do not pass the checks. -/
def elt (c : Nat) : Elt := (Elt.ofCode c).getD .i64

/-- Elements of a unit: 32 where a type is block-scaled. -/
def cUnit (ws : List Nat) : Nat :=
  if isBlk (elt (cType ws)) ∨ isBlk (elt (cWire ws)) ∨ isBlk (elt (cDtype ws)) then 32 else 1

/-- Bytes of u elements of a type, scales included. -/
def eltBytes (t : Elt) (u : Nat) : Nat := u * t.width / 8 + (if isBlk t then u / 32 else 0)

/-- Wire bytes of a unit: under BSUM each element takes 256 B. -/
def wireUnit (ws : List Nat) : Nat := if cOp ws = 4 then 256 * cUnit ws else eltBytes (elt (cWire ws)) (cUnit ws)

/-- Units of the whole vector. -/
def cUnits (ws : List Nat) : Nat := cCount ws / cUnit ws

/-- Units of a full chunk (R378): the most multiples of 1,024 elements that fit a slot, else the most units. -/
def chunkUnits (ws : List Nat) (slot : Nat) : Nat :=
  let k := 1024 / cUnit ws
  let n := slot / (wireUnit ws * k)
  if n ≠ 0 then n * k else max 1 (slot / wireUnit ws)

/-- A chunk's bytes cut in units: for block types the codes and the scale of each block. -/
def unitsOf (blk : Option Nat) (size n : Nat) (bs : List Byte) : List (List Byte) :=
  match blk with
  | some c => (List.range n).map fun i => (bs.drop (i * c)).take c ++ (bs.drop (n * c + i)).take 1
  | none => (List.range n).map fun i => (bs.drop (i * size)).take size

/-- Units put together as an array's bytes: codes first, then scales (R336). -/
def ofUnits (blk : Option Nat) (us : List (List Byte)) : List Byte :=
  match blk with
  | some c => us.flatMap (·.take c) ++ us.flatMap (·.drop c)
  | none => us.flatten

/-- Code bytes of a block of a type, none for types without blocks. -/
def blkCodes (t : Elt) : Option Nat := if t = .bs8 then some 32 else if t = .bs4 then some 16 else none

/-- Code bytes of a unit on the wire. -/
def wireBlk (ws : List Nat) : Option Nat := if cOp ws = 4 then none else blkCodes (elt (cWire ws))

/-! ### Rings and intervals -/

/-- The rings of a group that a descriptor uses, ascending (Table 16-4). -/
def ringsUsed (g : Group) (ws : List Nat) : List (Nat × Ring) :=
  if cDims ws = 0 then g.rings else g.rings.filter fun e => nbit (cDims ws) e.1

/-- Members of the rings used. -/
def members (g : Group) (ws : List Nat) : Nat := (ringsUsed g ws).foldl (fun a e => a * e.2.size) 1

/-- The rings that have steps: those of two members or more. -/
def ringsLive (g : Group) (ws : List Nat) : List (Nat × Ring) := (ringsUsed g ws).filter fun e => decide (2 ≤ e.2.size)

/-- The linear position of coordinates in mixed radix, the first ring least significant. -/
def linear : List (Nat × Nat) → Nat
  | [] => 0
  | (n, x) :: l => x + n * linear l

/-- The coordinates of a linear position. -/
def coords : List Nat → Nat → List Nat
  | [], _ => []
  | n :: l, x => x % n :: coords l (x / n)

/-- The member's own linear position among the rings used. -/
def selfPos (g : Group) (ws : List Nat) : Nat := linear ((ringsUsed g ws).map fun e => (e.2.size, e.2.pos))

/-- The root's position on ring d. -/
def rootPos (g : Group) (ws : List Nat) (d : Nat) : Nat :=
  let rs := ringsUsed g ws
  let cs := coords (rs.map (·.2.size)) (cRoot ws)
  (((rs.zip cs).find? fun e => e.1.1 = d).map (·.2)).getD 0

/-- Stripes of a collective (R377); a BARRIER's token goes round each ring once a phase. -/
def stripes (g : Group) (ws : List Nat) : Nat :=
  if cKind ws = 7 then 1 else if cStripes ws = 0 then max 1 (ringsUsed g ws).length else cStripes ws

/-- Units of stripe i: where it begins, and how many. -/
def stripeIv (g : Group) (ws : List Nat) (i : Nat) : Nat × Nat :=
  let q := cUnits ws / stripes g ws
  (i * q, if i + 1 = stripes g ws then cUnits ws - i * q else q)

/-- The rings of stripe i in the order its first phase takes them (R377). -/
def stripeRings (g : Group) (ws : List Nat) (i : Nat) : List (Nat × Ring) :=
  let l := ringsUsed g ws
  let k := if l = [] then 0 else i % l.length
  (l.drop k ++ l.take k).filter fun e => decide (2 ≤ e.2.size)

/-- Piece p of an interval (R375). -/
def pieceOf (iv : Nat × Nat) (n p : Nat) : Nat × Nat :=
  (iv.1 + p * iv.2 / n, (p + 1) * iv.2 / n - p * iv.2 / n)

/-- The stages of a stripe: each ring with the interval it divides. -/
def stagesOf (iv : Nat × Nat) : List (Nat × Ring) → List ((Nat × Ring) × (Nat × Nat))
  | [] => []
  | e :: l => (e, iv) :: stagesOf (pieceOf iv e.2.size ((e.2.pos + 1) % e.2.size)) l

/-- The interval a member holds after every stage of the first phase. -/
def finalIv (iv : Nat × Nat) : List (Nat × Ring) → Nat × Nat
  | [] => iv
  | e :: l => finalIv (pieceOf iv e.2.size ((e.2.pos + 1) % e.2.size)) l

/-- The chunks of an interval: at least one, which may be empty. -/
def cutChunks (e : Nat) (mk : Nat → Nat → Chunk) : Nat → Nat → Nat → List Chunk
  | 0, _, _ => []
  | fuel + 1, u, n => mk u (min e n) :: (if n ≤ e then [] else cutChunks e mk fuel (u + e) (n - e))

/-- The chunks of an interval. -/
def chunksOf (ws : List Nat) (slot : Nat) (mk : Nat → Nat → Chunk) (iv : Nat × Nat) : List Chunk :=
  cutChunks (chunkUnits ws slot) mk (iv.2 / chunkUnits ws slot + 1) iv.1 iv.2

/-- The chunks of the reduce-scatter phase on one stage of one stripe (R375): those sent, or those received. -/
def rsChunks (ws : List Nat) (slot stripe stage : Nat) (x : (Nat × Ring) × (Nat × Nat)) (send : Bool) : List Chunk :=
  let n := x.1.2.size
  let r := x.1.2.pos
  (List.range (n - 1)).flatMap fun s =>
    let p := (r + 2 * n - s - (if send then 0 else 1)) % n
    chunksOf ws slot (fun u k => { ring := x.1.1, stripe := stripe, ph := 0, stage := stage, step := s, unit := u, units := k,
                                   link := if send then s else s + 1, final := !send && decide (s + 2 = n) }) (pieceOf x.2 n p)

/-- The chunks of the all-gather phase on one stage of one stripe. -/
def agChunks (ws : List Nat) (slot stripe stage : Nat) (x : (Nat × Ring) × (Nat × Nat)) (send : Bool) : List Chunk :=
  let n := x.1.2.size
  let r := x.1.2.pos
  (List.range (n - 1)).flatMap fun s =>
    let p := (r + (if send then 1 else 0) + 2 * n - s) % n
    chunksOf ws slot (fun u k => { ring := x.1.1, stripe := stripe, ph := 1, stage := stage, step := s, unit := u, units := k,
                                   link := if send then s else s + 1 }) (pieceOf x.2 n p)

/-- The chunks of a BROADCAST on one stage of one stripe: every piece leaves the member that holds the vector and travels
n - 1 hops; `part`: whether this member's line along the ring takes part. -/
def bcChunks (ws : List Nat) (slot stripe stage root : Nat) (part : Bool) (e : Nat × Ring) (iv : Nat × Nat) (send : Bool) :
    List Chunk :=
  let n := e.2.size
  let hop := (e.2.pos + n - root) % n
  if part ∧ (if send then decide (hop + 1 < n) else decide (0 < hop)) then
    (List.range n).flatMap fun p =>
      chunksOf ws slot (fun u k => { ring := e.1, stripe := stripe, ph := 1, stage := stage, step := p, unit := u, units := k,
                                     link := if send then b2n (decide (hop ≠ 0)) else 1 }) (pieceOf iv n p)
  else []

/-- The chunks of an ALLTOALL on one stage of one stripe (R375): blocks are labelled by the destination's coordinates on
rings still to come and the origin's on those done; `unit` is label * block + offset with the destination's coordinate on
this ring. -/
def atChunks (g : Group) (ws : List Nat) (slot stripe stage : Nat) (e : Nat × Ring) (send : Bool) : List Chunk :=
  let rs := ringsUsed g ws
  let n := e.2.size
  let blk := cUnits ws / members g ws
  let q := blk / stripes g ws
  let lo := stripe * q
  let len := if stripe + 1 = stripes g ws then blk - lo else q
  let r := if send then e.2.pos else (e.2.pos + n - 1) % n
  if len = 0 then []
  else (List.range (n - 1)).flatMap fun s =>
    (List.range (n - 1 - s)).flatMap fun i =>
      let dst := (r + n - s % n + s + 1 + i) % n
      ((List.range (members g ws)).filter fun l =>
          decide ((((rs.zip (coords (rs.map (·.2.size)) l)).find? fun x => x.1.1 = e.1).map (·.2)).getD 0 = dst)).flatMap fun l =>
        chunksOf ws slot (fun u k => { ring := e.1, stripe := stripe, ph := 2, stage := stage, step := s, unit := u, units := k,
                                       link := if send then s else s + 1, final := !send && decide (dst = e.2.pos) }) (l * blk + lo, len)

/-- Whether a line of members along ring d takes part in a BROADCAST's stage: their coordinates on the rings that come after
are the root's. -/
def bcPart (g : Group) (ws : List Nat) (after : List (Nat × Ring)) : Bool :=
  after.all fun e => decide (e.2.pos = rootPos g ws e.1)

/-- Bytes of a slot. -/
def Group.slot (g : Group) : Nat := g.slotKib * 1024

/-- The chunks of a stripe on stage t of its first phase, and of its second, on ring d. -/
def stageChunks (g : Group) (ws : List Nat) (ph i t d : Nat) (send : Bool) : List Chunk :=
  let rs := stripeRings g ws i
  match (stagesOf (stripeIv g ws i) rs)[t]? with
  | none => []
  | some x =>
    if x.1.1 ≠ d then []
    else match cKind ws, ph with
      | 1, 0 | 2, 0 | 5, 0 | 7, 0 => rsChunks ws g.slot i t x send
      | 1, 1 | 3, 1 | 5, 1 | 7, 1 => agChunks ws g.slot i t x send
      | 4, 1 => bcChunks ws g.slot i t (rootPos g ws d) (bcPart g ws (rs.take t)) x.1 (stripeIv g ws i) send
      | 6, 0 => atChunks g ws g.slot i t x.1 send
      | _, _ => []

/-- Chunks numbered from 0 (R378). -/
def number : Nat → List Chunk → List Chunk
  | _, [] => []
  | k, c :: l => { c with k := k } :: number (k + 1) l

/-- The chunks a member sends, or receives, on ring d, in the order of their numbers K: the first phase stage by stage, then
the second in the reverse order of stages (R377). -/
def planRing (g : Group) (ws : List Nat) (d : Nat) (send : Bool) : List Chunk :=
  let r := (ringsLive g ws).length
  let part (ph t : Nat) := (List.range (stripes g ws)).flatMap fun i => stageChunks g ws ph i t d send
  number 0 ((List.range r).flatMap (part 0) ++ (List.range r).reverse.flatMap (part 1))

/-- Every chunk that a member sends, or receives. -/
def planAll (g : Group) (ws : List Nat) (send : Bool) : List Chunk :=
  (ringsLive g ws).flatMap fun e => planRing g ws e.1 send

/-- The key of a chunk. -/
def Chunk.key (c : Chunk) : Nat := c.ring * 2 ^ 20 + c.k

/-- The chunk that forwards what a receipt brought (R375). -/
def forwardOf (g : Group) (ws : List Nat) (c : Chunk) : Option Chunk :=
  if c.final then none
  else (planRing g ws c.ring true).find? fun x =>
    decide (x.stripe = c.stripe) && decide (x.ph = c.ph) && decide (x.stage = c.stage) && decide (x.unit = c.unit) &&
      decide (x.link = c.link) && decide (x.units = c.units)

/-- Whether ranges of units overlap; an empty one lies in a range that reaches it. -/
def unitsMeet (a n b m : Nat) : Bool :=
  if n = 0 then decide (b ≤ a) && decide (a ≤ b + m) else if m = 0 then decide (a ≤ b) && decide (b ≤ a + n) else decide (a < b + m) && decide (b < a + n)

end Sys2Proof.Machine
end

