-- ==== Sys2Proof/Machine/Crypto.lean ====
section
/-! DEFINITION. The public algorithms that the spec names: AES-256 with GCM (NIST SP 800-38D) and key wrap (RFC 3394) for
the cipher engine (11_cipher.md R246, R247), SHA-384 for digests (R169, R279, R537), CRC-32C and CRC-32 (R149, R175, R209).
Their insides are taken from those standards (log 3). Byte strings are lists of naturals below 256. -/

namespace Sys2Proof.Machine

/-! ### AES-256 -/

/-- Multiplication by x in the field of AES. -/
def xtime (a : Nat) : Nat := if a < 128 then a * 2 else Nat.xor (a * 2 - 256) 0x1B

/-- Multiplication in the field of AES by a constant of MixColumns, which has at most 4 bits. -/
def gmul (a b : Nat) : Nat :=
  ((List.range 4).foldl (fun (p : Nat × Nat) i => (if nbit b i then Nat.xor p.1 p.2 else p.1, xtime p.2)) (0, a)).1

/-- The S-box of AES and its inverse (FIPS 197, Figures 7 and 14): byte a of each number is the entry of a. -/
def sboxTable : Nat :=
  0x16bb54b00f2d99416842e6bf0d89a18cdf2855cee9871e9b948ed9691198f8e19e1dc186b95735610ef6034866b53e708a8bbd4b1f74dde8c6b4a61c2e2578ba08ae7a65eaf4566ca94ed58d6d37c8e779e4959162acd3c25c2406490a3a32e0db0b5ede14b8ee4688902a22dc4f816073195d643d7ea7c41744975fec130ccdd2f3ff1021dab6bcf5389d928f40a351a89f3c507f02f94585334d43fbaaefd0cf584c4a39becb6a5bb1fc20ed00d153842fe329b3d63b52a05a6e1b1a2c830975b227ebe28012079a059618c323c7041531d871f1e5a534ccf73f362693fdb7c072a49cafa2d4adf04759fa7dc982ca76abd7fe2b670130c56f6bf27b777c63

@[inherit_doc sboxTable]
def sboxInvTable : Nat :=
  0x7d0c2155631469e126d677ba7e042b17619953833cbbebc8b0f52aae4d3be0a0ef9cc9939f7ae52d0d4ab519a97f51605fec8027591012b131c7078833a8dd1ff45acd78fec0db9a2079d2c64b3e56fc1bbe18aa0e62b76f89c5291d711af1476edf751ce837f9e28535ade72274ac9673e6b4f0cecff297eadc674f4111913a6b8a130103bdafc1020f3fca8f1e2cd00645b3b80558e4f70ad3bc8c00abd890849d8da75746155edab9edfd5048706c92b6655dcc5ca4d41698688664f6f87225d18b6d49a25b76b224d92866a12e084ec3fa420b954cee3d23c2a632947b54cbe9dec444438e3487ff2f9b8239e37cfbd7f3819ea340bf38a53630d56a0952

/-- The S-box of AES. -/
def sbox (a : Nat) : Nat := sboxTable / 2 ^ (8 * a) % 256

/-- The inverse S-box. -/
def sboxInv (a : Nat) : Nat := sboxInvTable / 2 ^ (8 * a) % 256

/-- Byte-wise exclusive or. -/
def xorB (a b : List Nat) : List Nat := List.zipWith Nat.xor a b

/-- The words of the key schedule after the first eight, newest first. -/
def keyWords : Nat → Nat → List (List Nat) → List (List Nat)
  | 0, _, ws => ws
  | n + 1, i, ws =>
    let t := ws.headD []
    let t := if i % 8 = 0 then
        xorB (((t.drop 1) ++ (t.take 1)).map sbox) [(List.range (i / 8 - 1)).foldl (fun a _ => xtime a) 1, 0, 0, 0]
      else if i % 8 = 4 then t.map sbox else t
    keyWords n (i + 1) (xorB (ws.getD 7 []) t :: ws)

/-- Byte strings of n cut from one. -/
def chunks (n : Nat) : Nat → List Nat → List (List Nat)
  | 0, _ => []
  | k + 1, l => if l = [] then [] else l.take n :: chunks n k (l.drop n)

/-- The fifteen round keys of a 32-byte key. -/
def roundKeys (key : List Nat) : List (List Nat) :=
  chunks 16 15 ((keyWords 52 8 (chunks 4 8 key).reverse).reverse).flatten

/-- ShiftRows, and its inverse. -/
def shiftRows (b : List Nat) : List Nat := (List.range 16).map fun i => b.getD ((i + 4 * (i % 4)) % 16) 0

@[inherit_doc shiftRows]
def shiftRowsInv (b : List Nat) : List Nat := (List.range 16).map fun i => b.getD ((i + 12 * (i % 4)) % 16) 0

/-- A column multiplied by a circulant of the field. -/
def mixCol (m : List Nat) (c : List Nat) : List Nat :=
  (List.range 4).map fun r =>
    (List.range 4).foldl (fun a k => Nat.xor a (gmul (c.getD k 0) (m.getD ((k + 4 - r) % 4) 0))) 0

/-- MixColumns with a circulant. -/
def mixCols (m b : List Nat) : List Nat := ((chunks 4 4 b).map (mixCol m)).flatten

/-- AES-256 encryption of a block under round keys. -/
def aesEnc (rks : List (List Nat)) (blk : List Nat) : List Nat :=
  let b := (List.range 13).foldl (fun b i =>
    xorB (mixCols [2, 3, 1, 1] (shiftRows (b.map sbox))) (rks.getD (i + 1) [])) (xorB blk (rks.getD 0 []))
  xorB (shiftRows (b.map sbox)) (rks.getD 14 [])

/-- AES-256 decryption of a block under round keys. -/
def aesDec (rks : List (List Nat)) (blk : List Nat) : List Nat :=
  let b := (List.range 13).foldl (fun b i =>
    mixCols [14, 11, 13, 9] (xorB ((shiftRowsInv b).map sboxInv) (rks.getD (13 - i) []))) (xorB blk (rks.getD 14 []))
  xorB ((shiftRowsInv b).map sboxInv) (rks.getD 0 [])

/-! ### GCM -/

/-- The n bytes of v, most significant first, as naturals; and back. -/
def toBe (n v : Nat) : List Nat := (beBytes n v).map (·.toNat)

@[inherit_doc toBe]
def ofBe (l : List Nat) : Nat := l.foldl (fun a b => a * 256 + b) 0

/-- Multiplication in the field of GHASH; bit 0 of the standard is the most significant bit. -/
def ghMul (x y : Nat) : Nat :=
  ((List.range 128).foldl (fun (p : Nat × Nat) i =>
    (if nbit x (127 - i) then Nat.xor p.1 p.2 else p.1,
     if nbit p.2 0 then Nat.xor (p.2 / 2) (0xE1 * 2 ^ 120) else p.2 / 2)) (0, y)).1

/-- GHASH of whole blocks. -/
def ghash (h : Nat) (l : List (List Nat)) : Nat := l.foldl (fun y b => ghMul (Nat.xor y (ofBe b)) h) 0

/-- A byte string filled with zeros to a multiple of 16. -/
def pad16 (l : List Nat) : List Nat := l ++ List.replicate ((16 - l.length % 16) % 16) 0

/-- The counter stream of GCM for n bytes. -/
def gcmStream (rks : List (List Nat)) (iv : Nat) (n : Nat) : List Nat :=
  (((List.range (cdiv n 16)).map fun i => aesEnc rks (toBe 16 (iv * 2 ^ 32 + (i + 2) % 2 ^ 32))).flatten).take n

/-- The 16-byte tag of GCM over additional data and ciphertext, for a 96-bit IV. -/
def gcmTag (rks : List (List Nat)) (iv : Nat) (aad ct : List Nat) : List Nat :=
  let h := ofBe (aesEnc rks (List.replicate 16 0))
  let blocks := chunks 16 (aad.length + ct.length + 2) (pad16 aad ++ pad16 ct ++ toBe 8 (8 * aad.length) ++ toBe 8 (8 * ct.length))
  xorB (toBe 16 (ghash h blocks)) (aesEnc rks (toBe 16 (iv * 2 ^ 32 + 1)))

/-! ### Key wrap -/

/-- RFC 3394: the 64-bit blocks wrapped, with the default initial value. -/
def keyWrap (rks : List (List Nat)) (l : List Nat) : List Nat :=
  let n := l.length
  let r := (List.range (6 * n)).foldl (fun (p : Nat × List Nat) j =>
    let i := j % n
    let b := aesEnc rks (toBe 8 p.1 ++ toBe 8 (p.2.getD i 0))
    (Nat.xor (ofBe (b.take 8)) (j + 1), p.2.set i (ofBe (b.drop 8)))) (0xA6A6A6A6A6A6A6A6, l)
  r.1 :: r.2

/-- RFC 3394: the blocks unwrapped, with the integrity value. -/
def keyUnwrap (rks : List (List Nat)) (l : List Nat) : Nat × List Nat :=
  let n := l.length - 1
  (List.range (6 * n)).foldl (fun (p : Nat × List Nat) k =>
    let j := 6 * n - k
    let i := (j - 1) % n
    let b := aesDec rks (toBe 8 (Nat.xor p.1 j) ++ toBe 8 (p.2.getD i 0))
    (ofBe (b.take 8), p.2.set i (ofBe (b.drop 8)))) (l.headD 0, l.drop 1)

/-! ### SHA-384 -/

/-- The round constants (FIPS 180-4, 4.2.3). -/
def sha512K : List Nat :=
  [0x428A2F98D728AE22, 0x7137449123EF65CD, 0xB5C0FBCFEC4D3B2F, 0xE9B5DBA58189DBBC, 0x3956C25BF348B538,
   0x59F111F1B605D019, 0x923F82A4AF194F9B, 0xAB1C5ED5DA6D8118, 0xD807AA98A3030242, 0x12835B0145706FBE,
   0x243185BE4EE4B28C, 0x550C7DC3D5FFB4E2, 0x72BE5D74F27B896F, 0x80DEB1FE3B1696B1, 0x9BDC06A725C71235,
   0xC19BF174CF692694, 0xE49B69C19EF14AD2, 0xEFBE4786384F25E3, 0x0FC19DC68B8CD5B5, 0x240CA1CC77AC9C65] ++
  [0x2DE92C6F592B0275, 0x4A7484AA6EA6E483, 0x5CB0A9DCBD41FBD4, 0x76F988DA831153B5, 0x983E5152EE66DFAB,
   0xA831C66D2DB43210, 0xB00327C898FB213F, 0xBF597FC7BEEF0EE4, 0xC6E00BF33DA88FC2, 0xD5A79147930AA725,
   0x06CA6351E003826F, 0x142929670A0E6E70, 0x27B70A8546D22FFC, 0x2E1B21385C26C926, 0x4D2C6DFC5AC42AED,
   0x53380D139D95B3DF, 0x650A73548BAF63DE, 0x766A0ABB3C77B2A8, 0x81C2C92E47EDAEE6, 0x92722C851482353B] ++
  [0xA2BFE8A14CF10364, 0xA81A664BBC423001, 0xC24B8B70D0F89791, 0xC76C51A30654BE30, 0xD192E819D6EF5218,
   0xD69906245565A910, 0xF40E35855771202A, 0x106AA07032BBD1B8, 0x19A4C116B8D2D0C8, 0x1E376C085141AB53,
   0x2748774CDF8EEB99, 0x34B0BCB5E19B48A8, 0x391C0CB3C5C95A63, 0x4ED8AA4AE3418ACB, 0x5B9CCA4F7763E373,
   0x682E6FF3D6B2B8A3, 0x748F82EE5DEFB2FC, 0x78A5636F43172F60, 0x84C87814A1F0AB72, 0x8CC702081A6439EC] ++
  [0x90BEFFFA23631E28, 0xA4506CEBDE82BDE9, 0xBEF9A3F7B2C67915, 0xC67178F2E372532B, 0xCA273ECEEA26619C,
   0xD186B8C721C0C207, 0xEADA7DD6CDE0EB1E, 0xF57D4F7FEE6ED178, 0x06F067AA72176FBA, 0x0A637DC5A2C898A6,
   0x113F9804BEF90DAE, 0x1B710B35131C471B, 0x28DB77F523047D84, 0x32CAAB7B40C72493, 0x3C9EBE0A15C9BEBC,
   0x431D67C49C100D4C, 0x4CC5D4BECB3E42B6, 0x597F299CFC657E2A, 0x5FCB6FAB3AD6FAEC, 0x6C44198C4A475817]

/-- The initial hash of SHA-384 (FIPS 180-4, 5.3.4). -/
def sha384H : List Nat :=
  [0xCBBB9D5DC1059ED8, 0x629A292A367CD507, 0x9159015A3070DD17, 0x152FECD8F70E5939, 0x67332667FFC00B31,
   0x8EB44A8768581511, 0xDB0C2E0D64F98FA7, 0x47B5481DBEFA4FA4]

/-- A 64-bit word rotated right. -/
def rotr64 (a n : Nat) : Nat := a / 2 ^ n + a % 2 ^ n * 2 ^ (64 - n)

/-- Exclusive or of three. -/
def xor3 (a b c : Nat) : Nat := Nat.xor (Nat.xor a b) c

/-- The message schedule after the first sixteen words, newest first. -/
def shaSched : Nat → List Nat → List Nat
  | 0, w => w
  | n + 1, w =>
    let x := w.getD 14 0
    let y := w.getD 1 0
    let s0 := xor3 (rotr64 x 1) (rotr64 x 8) (x / 2 ^ 7)
    let s1 := xor3 (rotr64 y 19) (rotr64 y 61) (y / 2 ^ 6)
    shaSched n ((w.getD 15 0 + s0 + w.getD 6 0 + s1) % 2 ^ 64 :: w)

/-- One round of SHA-512 on eight working words. -/
def shaRound (h : List Nat) (kw : Nat × Nat) : List Nat :=
  match h with
  | [a, b, c, d, e, f, g, hh] =>
    let s1 := xor3 (rotr64 e 14) (rotr64 e 18) (rotr64 e 41)
    let ch := Nat.xor (Nat.land e f) (Nat.land (2 ^ 64 - 1 - e) g)
    let t1 := (hh + s1 + ch + kw.1 + kw.2) % 2 ^ 64
    let s0 := xor3 (rotr64 a 28) (rotr64 a 34) (rotr64 a 39)
    let mj := xor3 (Nat.land a b) (Nat.land a c) (Nat.land b c)
    [(t1 + s0 + mj) % 2 ^ 64, a, b, c, (d + t1) % 2 ^ 64, e, f, g]
  | l => l

/-- The digest of a byte string, 48 bytes, as a natural with byte 0 most significant. -/
def sha384 (m : List Nat) : Nat :=
  let p := m ++ [0x80] ++ List.replicate ((239 - m.length % 128) % 128) 0 ++ toBe 16 (8 * m.length)
  let h := (chunks 128 (m.length / 64 + 3) p).foldl (fun h blk =>
    let w := (shaSched 64 ((chunks 8 16 blk).map ofBe).reverse).reverse
    let r := (sha512K.zip w).foldl shaRound h
    List.zipWith (fun a b => (a + b) % 2 ^ 64) h r) sha384H
  (h.take 6).foldl (fun a x => a * 2 ^ 64 + x) 0

/-! ### Cyclic redundancy checks -/

/-- A reflected 32-bit CRC, all ones at both ends. -/
def crcRefl (poly : Nat) (l : List Nat) : Nat :=
  Nat.xor (l.foldl (fun c b =>
    (List.range 8).foldl (fun c _ => if nbit c 0 then Nat.xor (c / 2) poly else c / 2) (Nat.xor c b)) 0xFFFFFFFF) 0xFFFFFFFF

/-- CRC-32C (Castagnoli). -/
def crc32c (l : List Nat) : Nat := crcRefl 0x82F63B78 l

/-- CRC-32 of Ethernet. -/
def crc32 (l : List Nat) : Nat := crcRefl 0xEDB88320 l

/-! ### ECDSA over P-384 (23_boot_reset.md R538; the curve is that of FIPS 186, PRESUMED, log 52) -/

/-- The field, the order, the coefficient b and the base point of P-384. -/
def p384P : Nat := 2 ^ 384 - 2 ^ 128 - 2 ^ 96 + 2 ^ 32 - 1
@[inherit_doc p384P] def p384N : Nat :=
  0xffffffffffffffffffffffffffffffffffffffffffffffffc7634d81f4372ddf581a0db248b0a77aecec196accc52973
@[inherit_doc p384P] def p384B : Nat :=
  0xb3312fa7e23ee7e4988e056be3f82d19181d9c6efe8141120314088f5013875ac656398d8a2ed19d2a85c8edd3ec2aef
@[inherit_doc p384P] def p384G : Nat × Nat :=
  (0xaa87ca22be8b05378eb1c71ef320ad746e1d3b628ba79b9859f741e082542a385502f25dbf55296c3a545e3872760ab7,
   0x3617de4a96262c6f5d9e98bf9292dc29f8f41dbd289a147ce9da3113b5f0b8c00a60b1ce1d7e819d7a431d7c90ea0e5f)

/-- b^e modulo m, for e below 2^k. -/
def powMod (m : Nat) : Nat → Nat → Nat → Nat
  | 0, _, _ => 1 % m
  | k + 1, b, e => (if e % 2 = 1 then b else 1) * powMod m k (b * b % m) (e / 2) % m

/-- The inverse modulo a prime. -/
def invMod (m a : Nat) : Nat := powMod m 384 (a % m) (m - 2)

/-- A difference modulo P. -/
def subP (a b : Nat) : Nat := (a + p384P - b % p384P) % p384P

/-- The double of a point in Jacobian coordinates; Z = 0 is the point at infinity. -/
def jDouble (q : Nat × Nat × Nat) : Nat × Nat × Nat :=
  let (x, y, z) := q
  let d := z * z % p384P
  let g := y * y % p384P
  let b := x * g % p384P
  let a := 3 * (subP x d * (x + d)) % p384P
  let x' := subP (a * a) (8 * b)
  (x', subP (a * subP (4 * b) x') (8 * g * g), 2 * y * z % p384P)

/-- The sum of two points. -/
def jAdd (q r : Nat × Nat × Nat) : Nat × Nat × Nat :=
  let (x1, y1, z1) := q
  let (x2, y2, z2) := r
  if z1 = 0 then r
  else if z2 = 0 then q
  else
    let u1 := x1 * z2 * z2 % p384P
    let u2 := x2 * z1 * z1 % p384P
    let s1 := y1 * z2 * z2 * z2 % p384P
    let s2 := y2 * z1 * z1 * z1 % p384P
    if u1 = u2 then (if s1 = s2 then jDouble q else (1, 1, 0))
    else
      let h := subP u2 u1
      let h2 := h * h % p384P
      let h3 := h * h2 % p384P
      let t := subP s2 s1
      let x := subP (subP (t * t) h3) (2 * u1 * h2)
      (x, subP (t * subP (u1 * h2) x) (s1 * h3), h * z1 * z2 % p384P)

/-- k times a point, for k below 2^n. -/
def jMul (q : Nat × Nat × Nat) (k : Nat) : Nat → Nat × Nat × Nat
  | 0 => (1, 1, 0)
  | n + 1 =>
    let d := jDouble (jMul q (k / 2) n)
    if k % 2 = 1 then jAdd d q else d

/-- Whether a signature (r, s) of a digest verifies under the public key (x, y). -/
def ecdsaVerify (x y digest r s : Nat) : Bool :=
  decide (x < p384P) && decide (y < p384P) && decide (y * y % p384P = (x * x * x + (p384P - 3) * x + p384B) % p384P) &&
    decide (0 < r) && decide (r < p384N) && decide (0 < s) && decide (s < p384N) &&
    (let w := invMod p384N s
     let q := jAdd (jMul (p384G.1, p384G.2, 1) (digest * w % p384N) 384) (jMul (x, y, 1) (r * w % p384N) 384)
     decide (q.2.2 ≠ 0) && decide (q.1 * invMod p384P (q.2.2 * q.2.2) % p384P % p384N = r))

end Sys2Proof.Machine
end

