-- ==== Sys2Proof/Machine/Wire.lean ====
section
/-! DEFINITION. Packets as bytes (07_transport.md Tables 7-1, 7-2, 08_amholt_fabric.md R176), and trace records as bytes
(17_reproducibility.md Table 17-7). -/

namespace Sys2Proof.Machine

/-! ### Packets as bytes -/

/-- The four words of a packet's header (Table 7-2). -/
def pktWords (p : Packet) : List Nat :=
  [p.dstNode % 2 ^ 16 * 2 ^ 48 + p.hops % 64 * 2 ^ 42 + p.vc % 8 * 2 ^ 39 + p.st % 2 * 2 ^ 38 + p.tc % 8 * 2 ^ 35 +
     p.type % 16 * 2 ^ 31 + p.plen % 2 ^ 13 * 2 ^ 18 + p.dstQpn % 2 ^ 18,
   p.srcNode % 2 ^ 16 * 2 ^ 48 + p.srcQpn % 2 ^ 18 * 2 ^ 30 + p.psn % 2 ^ 24 * 2 ^ 6 + b2n p.enc * 2 ^ 5 + b2n p.last * 2 ^ 4 +
     b2n p.retx * 2 ^ 3 + b2n p.areq * 2 ^ 2 + p.piece % 4,
   p.srcInc % 2 ^ 16 * 2 ^ 48 + p.dstInc % 2 ^ 16 * 2 ^ 32 + p.argA % 2 ^ 32,
   p.argB % 2 ^ 64]

/-- A packet with its route fields taken as 0 (R149, R246). -/
def pktNeutral (p : Packet) : Packet := { p with hops := 0, vc := 0, st := 0 }

/-- A packet's header bytes, words most significant byte first (R145). -/
def pktHdr (p : Packet) : List Byte := (pktWords p).flatMap (beBytes 8)

/-- The cipher word's bytes, of a packet that has one. -/
def pktCip (p : Packet) : List Byte :=
  if p.enc then beBytes 8 (p.keyId % 2 ^ 16 * 2 ^ 48 + p.ctr % 2 ^ 48) else []

/-- A packet's bytes (Table 7-1, R176). -/
def pktBytes (p : Packet) : List Byte := pktHdr p ++ pktCip p ++ p.payload ++ beBytes 8 p.tail

/-- Bytes as naturals. -/
def nats (l : List Byte) : List Nat := l.map (·.toNat)

/-- Naturals as bytes. -/
def ofNats (l : List Nat) : List Byte := l.map (BitVec.ofNat 8)

/-- The CRC-32C of a packet's header and payload (R149). -/
def pktCrc (p : Packet) : Nat := crc32c (nats (pktHdr (pktNeutral p) ++ p.payload))

/-- The header that 32 bytes hold. -/
def pktOfHdr (b : List Byte) : Packet :=
  let w0 := beNat (b.take 8)
  let w1 := beNat ((b.drop 8).take 8)
  let w2 := beNat ((b.drop 16).take 8)
  { dstNode := nbits w0 63 48, hops := nbits w0 47 42, vc := nbits w0 41 39, st := nbits w0 38 38, tc := nbits w0 37 35,
    type := nbits w0 34 31, plen := nbits w0 30 18, dstQpn := nbits w0 17 0, srcNode := nbits w1 63 48,
    srcQpn := nbits w1 47 30, psn := nbits w1 29 6, enc := nbit w1 5, last := nbit w1 4, retx := nbit w1 3, areq := nbit w1 2,
    piece := nbits w1 1 0, srcInc := nbits w2 63 48, dstInc := nbits w2 47 32, argA := nbits w2 31 0,
    argB := beNat ((b.drop 24).take 8) }

/-- The packet that its bytes hold. -/
def pktOf (b : List Byte) : Packet :=
  let p := pktOfHdr b
  let c := if p.enc then beNat ((b.drop 32).take 8) else 0
  let r := b.drop (if p.enc then 40 else 32)
  { p with keyId := nbits c 63 48, ctr := nbits c 47 0, payload := r.take p.plen, tail := beNat ((r.drop p.plen).take 8) }

/-- Cells a packet occupies (R176). -/
def pktCells (p : Packet) : Nat := cdiv (40 + 8 * b2n p.enc + p.plen) 120

/-- Byte strings of 120 cut from a packet's bytes. -/
def cellsOf : Nat → List Byte → List (List Byte)
  | 0, _ => []
  | n + 1, b => b.take 120 :: cellsOf n (b.drop 120)

/-! ### Trace records -/

/-- A length rounded up to 16. -/
def up16 (n : Nat) : Nat := cdiv n 16 * 16

/-- A trace record's bytes (Table 17-7): header, payload, zero fill. Words least significant byte first (log 45). -/
def TraceRec_bytes (r : TraceRec) : List Byte :=
  let w0 := r.src % 256 * 2 ^ 56 + r.kind % 256 * 2 ^ 48 + r.cyc % 2 ^ 48
  let len := r.data.length % 2 ^ 13
  let crc := crc32c (nats (leBytes 8 w0 ++ leBytes 8 len ++ r.data))
  leBytes 8 w0 ++ leBytes 8 (crc * 2 ^ 32 + len) ++ r.data ++ List.replicate (up16 r.data.length - r.data.length) 0

/-- The trace record at the head of a byte string, if one is there whole with its CRC right, and its length. -/
def traceRecOf (b : List Byte) : Option (TraceRec × Nat) :=
  let w0 := leNat (b.take 8)
  let w1 := leNat ((b.drop 8).take 8)
  let len := nbits w1 12 0
  let data := (b.drop 16).take len
  if b.length < 16 + up16 len ∨ crc32c (nats (leBytes 8 w0 ++ leBytes 8 len ++ data)) ≠ w1 / 2 ^ 32 then none
  else some (⟨nbits w0 63 56, nbits w0 55 48, nbits w0 47 0, data⟩, 16 + up16 len)

end Sys2Proof.Machine
end

