-- ==== Sys2Proof/Machine/Ops.lean ====
section
/-! DEFINITION. The operations every meaning is written with: registers, memory, outputs, free values, events, MSI-X and
interrupt sources, and the checks of an access (mapping, ownership, bias). -/

namespace Sys2Proof.Machine

/-- The outcome of a step: the next state, a fault or a refusal. -/
abbrev Res := Host.Outcome State Fault Refusal

/-! ### Registers -/

/-- The word a register holds. -/
def State.rd (s : State) (k : Nat) : Word := dget s.regs (regReset s.grade k) k

/-- The state with word v in a register. -/
def State.wr (s : State) (k : Nat) (v : Word) : State :=
  { s with regs := dput s.regs (regReset s.grade k) k v }

/-- A field of a register. -/
def State.rf (s : State) (k : Nat) (f : Fld) : Nat := fld (s.rd k) f.hi f.lo

/-- Whether a one-bit field is 1. -/
def State.on (s : State) (k : Nat) (f : Fld) : Bool := s.rf k f = 1

/-- The state with a field of a register set. -/
def State.wf (s : State) (k : Nat) (f : Fld) (v : Nat) : State := s.wr k (setFld (s.rd k) f.hi f.lo v)

/-- The state with a counting field raised by n, saturating. -/
def State.incF (s : State) (k : Nat) (f : Fld) (n : Nat) : State :=
  s.wf k f (satU (f.hi + 1 - f.lo) (s.rf k f + n))

/-- A meter of set f raised by n (R89): set 1,025 is the module's. -/
def State.meter (s : State) (f i n : Nat) : State := if f ≤ 1025 then s.incF (Reg.vfmMeter f i) F.vfmMeter_count n else s

/-- The lock bit of a block (R10), for the blocks that have one. -/
def lockBit (b : Nat) : Option (Nat × Fld) :=
  match b with
  | 5 => some (Reg.qpeCtxBase, F.qpeCtxBase_lock)
  | 6 => some (Reg.umtCfg, F.umtCfg_lock)
  | 7 => some (Reg.fabCtrl, F.fabCtrl_lock)
  | 9 => some (Reg.timCtrl, F.timCtrl_lock_tbl)
  | 10 => some (Reg.cipCtrl, F.cipCtrl_lock)
  | 11 => some (Reg.mbxCtrl, F.mbxCtrl_lock)
  | 12 => some (Reg.icuCtrl, F.icuCtrl_lock)
  | 13 => some (Reg.pwrCtrl, F.pwrCtrl_lock)
  | 14 => some (Reg.monCtrl, F.monCtrl_lock)
  | 15 => some (Reg.prfCtrl, F.prfCtrl_lock)
  | 16 => some (Reg.cpfCtrl, F.cpfCtrl_lock)
  | _ => none

/-- Whether the RWL fields of the register's block are locked (R10). -/
def State.locked (s : State) (k : Nat) : Bool :=
  match lockBit (k / 2 ^ 24) with
  | some (r, f) => s.on r f
  | none => decide (k / 2 ^ 24 = 1) && s.top.hifLock

/-- The state after a software write of v to the fields of a register under their access codes (R6-R10). -/
def State.softW (s : State) (k : Nat) (v : Word) : State :=
  match findReg k with
  | some d => s.wr k (softWrite (s.locked k) (s.rd k) v d.flds)
  | none => s

/-! ### Outputs and free values -/

/-! ### Counterproof: what crosses the boundary of its scope (17_reproducibility.md R400-R415) -/

/-- `CPF_CTRL.ROLE`, and whether counterproof runs. -/
def State.cpfRole (s : State) : Nat := s.rf Reg.cpfCtrl F.cpfCtrl_role
@[inherit_doc State.cpfRole]
def State.cpfRuns (s : State) : Bool := decide (s.rf Reg.cpfStatus F.cpfStatus_state = 2)

/-- Whether this module is a running lead, or a running follower or replaying module. -/
def State.leads (s : State) : Bool := s.cpfRuns && decide (s.cpfRole = 1)
@[inherit_doc State.leads]
def State.follows (s : State) : Bool := s.cpfRuns && decide (2 ≤ s.cpfRole)

/-- `DELAY`; values below 1,250 are treated as 1,250 (Table 17-8). -/
def State.cpfDelay (s : State) : Nat := max 1250 (s.rf Reg.cpfCtrl F.cpfCtrl_delay)

/-- NCLK cycles since the origin (R402). -/
def State.cpfOwn (s : State) : Nat := (s.clk - s.cpf.clk0) * 5 / 4

/-- What `CPF_CYCLE` holds while counterproof runs: the lead cycle, or a follower's replay position. -/
def State.cpfCycle (s : State) : Nat := if s.cpfRole = 1 then s.cpfOwn else s.cpfOwn - s.cpfDelay

/-- Data bytes of a stripe row and of a segment (R453). -/
def rowBytes : Nat := 245760
@[inherit_doc rowBytes] def segBytes : Nat := 251658240

/-- Bytes appended to a volume: whole stripe rows become durable (R457), and are counted (R456, Table 19-9). -/
def State.volAppend (s : State) (v : Nat) (bs : List Byte) : State :=
  match mget s.ps.vols v with
  | none => s
  | some x =>
    let b := x.buf ++ bs
    let n := b.length / rowBytes * rowBytes
    let s : State := { s with ps.vols := mput s.ps.vols v { x with data := x.data ++ b.take n, buf := b.drop n },
                              ps.clean := s.ps.clean && decide (n = 0) }
    if n = 0 then s
    else ((s.incF (Reg.prfPsStat 1) F.prfPsStat_count n).incF (Reg.prfPsStat 2) F.prfPsStat_count (n / 15 * 16)).meter x.owner 8 n

/-- The lead sends a trace record, and writes it to the trace volume where it records (R403, R415). -/
def State.traceOut (s : State) (src kind : Nat) (data : List Byte) : State :=
  let r : TraceRec := ⟨src, kind, s.cpfCycle, data⟩
  let s : State := { s with out := s.out ++ [{ kind := .trace, dst := [src, kind, s.cpfCycle], data := data }],
                            cpf.sent := s.cpf.sent ++ [(s.cpfCycle, 16 + up16 data.length)] }
  match s.cpf.vol with
  | some v => if s.on Reg.cpfCtrl F.cpfCtrl_rec then s.volAppend v (TraceRec_bytes r) else s
  | none => s

/-- An observation (R409): the lead sends it, and a follower keeps it for the comparison. -/
def State.observe (s : State) (src kind : Nat) (data : List Byte) : State :=
  if s.leads then s.traceOut src kind data
  else if s.follows then { s with cpf.own := s.cpf.own ++ [⟨src, kind, s.cpfCycle, data⟩] }
  else s

/-- An input that cannot be held back, recorded by the lead (Table 17-4). -/
def State.cpfNote (s : State) (src kind : Nat) (data : List Byte) : State :=
  if s.leads then s.traceOut src kind data else s

/-- Whether an Amholt link of quad n is Active. -/
def State.linkUp4 (s : State) (n : Nat) : Bool := decide (s.rf (Reg.fabPortStatus n) F.fabPortStatus_lstate = 4)

/-- Whether a recorded trace's volume has room for a record with n payload bytes (R404). -/
def State.volRoom (s : State) (n : Nat) : Bool :=
  !s.on Reg.cpfCtrl F.cpfCtrl_rec || (match s.cpf.vol.bind (mget s.ps.vols ·) with
    | some v => decide (v.data.length + v.buf.length + (16 + up16 n) ≤ v.segs.length * segBytes)
    | none => false)

/-- Whether the trace links, the follower's delay FIFO and, when the trace is recorded, its volume have room for a record with
n payload bytes (R404). -/
def State.traceRoom (s : State) (n : Nat) : Bool :=
  let k := 16 + up16 n
  let held := (s.cpf.sent.filter fun e => decide (s.cpfCycle < e.1 + s.cpfDelay)).foldl (fun a e => a + e.2) 0
  ((List.range 12).any fun q => nbit (s.rf Reg.cpfCtrl F.cpfCtrl_tlinks) q && s.linkUp4 q) && decide (held + k ≤ 8388608) && s.volRoom n

/-- The stream of R409 that an output belongs to, and its bytes on it; the bytes of a TLP are those of the PCIe
specification, which the spec does not lay out. Streams are numbered port * 2 + half, 12 (injection), 16 + MAC (log 46). -/
def streamOf (k : OutKind) (dst : List Nat) (data : List Byte) (pkt : Option Packet) : Option (Nat × List Byte) :=
  let tlp (src kind : Nat) : Option (Nat × List Byte) := some (src, Config.tlpBytes kind dst data)
  match k with
  | .tlpWrite => tlp (dst.getD 0 0 * 2 + dst.getD 1 0) 0
  | .tlpRead => tlp (dst.getD 0 0 * 2 + dst.getD 1 0) 1
  | .tlpCpl => tlp (dst.getD 0 0 * 2 + dst.getD 1 0) 2
  | .cxl => tlp 0 3
  | .msix => tlp 0 4
  | .atsReq => tlp 0 5
  | .pageReq => tlp 0 6
  | .invCpl => tlp 0 7
  | .amholt => some (12, (pkt.map pktBytes).getD data)
  | .umt => some (16 + dst.getD 0 0, data)
  | .frame => some (16 + dst.getD 0 0, data)
  | _ => none

/-- The digest of n bytes of a stream closes (R409): the first 16 bytes of their SHA-384, and their count. -/
def State.closeStream (s : State) (src n : Nat) : State :=
  let b := (mget s.cpf.streams src).getD []
  if n = 0 then s
  else
    ({ s with cpf.streams := mput s.cpf.streams src (b.drop n) }).observe src 0x10
      ((beBytes 48 (sha384 (nats (b.take n)))).take 16 ++ leBytes 8 (b.take n).length)

/-- The digests of every stream close, as at a completion entry (R409). -/
def State.closeStreams (s : State) : State :=
  if s.cpfRuns then s.cpf.streams.foldl (fun t e => t.closeStream e.1 ((mget t.cpf.streams e.1).getD []).length) s else s

/-- Bytes of an output taken into the digest of its stream while counterproof runs. -/
def State.stream (s : State) (k : OutKind) (dst : List Nat) (data : List Byte) (pkt : Option Packet) : State :=
  if s.cpfRuns then
    match streamOf k dst data pkt with
    | some (src, bs) =>
      let b := (mget s.cpf.streams src).getD [] ++ bs
      let s := { s with cpf.streams := mput s.cpf.streams src b }
      (List.range (b.length / 4096)).foldl (fun t _ => t.closeStream src 4096) s
    | none => s
  else s

/-- What a follower does not send (R403): TLPs but link maintenance, packets, frames and interrupts. -/
def OutKind.outward : OutKind → Bool
  | .cell | .ctl | .resp | .rx | .pin | .trace | .mgmt | .tap => false
  | _ => true

/-- The state that has sent one more thing; a follower's outputs stay within it. -/
def State.emit (s : State) (k : OutKind) (dst : List Nat) (data : List Byte := []) (pkt : Option Packet := none) : State :=
  let s := s.stream k dst data pkt
  if (s.follows || s.cpf.halted) && k.outward then s
  else { s with out := s.out ++ [{ kind := k, dst := dst, pkt := pkt, data := data }] }

/-- The next free value. -/
def State.freeVal (s : State) : Word := Config.freeValue s.free

/-- The state with the next free value drawn. -/
def State.draw (s : State) : State := { s with free := s.free + 1 }

/-! ### Memory -/

/-- The byte at a DPA; an unlisted byte reads 0. -/
def State.byte (s : State) (a : Nat) : Byte := dget s.mem 0 a

/-- The n bytes from a DPA. -/
def State.bytes (s : State) (a : Nat) : Nat → List Byte
  | 0 => []
  | n + 1 => s.byte a :: s.bytes (a + 1) n

/-- Memory with bytes stored from an address on. -/
def storeBytes (m : List Host.Cell) (a : Nat) : List Byte → List Host.Cell
  | [] => m
  | b :: bs => storeBytes (dput m 0 a b) (a + 1) bs

/-- The little-endian word of n bytes at a DPA. -/
def State.ldN (s : State) (a n : Nat) : Nat := leNat (s.bytes a n)

/-- The end of HBM: 216 GiB (Table 1-4). -/
def hbmEnd : Nat := 0x3600000000

/-- Bytes of a bias page and of a page of the dirty logs. -/
def pageSize : Nat := 0x10000

/-- The DPA range of VF n's partition, from the value of its register (R76). -/
def partRange (v : Word) : Nat × Nat :=
  (fld v F.vfmFnPart_base.hi F.vfmFnPart_base.lo * 2 ^ 26,
   (fld v F.vfmFnPart_base.hi F.vfmFnPart_base.lo + fld v F.vfmFnPart_size.hi F.vfmFnPart_size.lo) * 2 ^ 26)

/-- The partition of function f as a range: all HBM for the PF. -/
def State.part (s : State) (f : Nat) : Nat × Nat :=
  if f = 0 then (0, hbmEnd) else partRange (s.rd (Reg.vfmFnPart f))

/-- Whether a key is `VFM_FN_PARTf` of a VF. -/
def isPartKey (k : Nat) : Bool :=
  decide (Reg.vfmFnPart 1 ≤ k) && decide (k ≤ Reg.vfmFnPart 1024) && decide ((k - Reg.vfmFnPart 0) % 64 = 0)

/-- The VF whose partition holds a DPA, 0 where none does. -/
def State.vfOf (s : State) (a : Nat) : Nat :=
  match s.regs.find? (fun e => isPartKey e.1 && decide ((partRange e.2).1 ≤ a) && decide (a < (partRange e.2).2)) with
  | some e => (e.1 - Reg.vfmFnPart 0) / 64
  | none => 0

/-- Bytes of one dirty-log buffer of function f (R84). -/
def State.dlogLen (s : State) (f : Nat) : Nat := cdiv (((s.part f).2 - (s.part f).1) / pageSize) 8

/-- The DPA of the active buffer of log l of function f (R84, R86). -/
def State.dlogBuf (s : State) (f l : Nat) : Nat :=
  let b := s.rf (Reg.vfmDlogBase f l) F.vfmDlogBase_base * 4096
  let act := if l = 0 then s.rf (Reg.vfmDlogCmd f) F.vfmDlogCmd_active0 else s.rf (Reg.vfmDlogCmd f) F.vfmDlogCmd_active1
  if act = 0 then b else b + cdiv (s.dlogLen f) 4096 * 4096

/-- The bit of page g of log l of function f set in the active buffer, where the log is enabled and holds the page
(R85). -/
def State.dirtyBit (s : State) (g : Nat) (fl : Nat × Nat) : State :=
  let r := s.part fl.1
  if s.on (Reg.vfmDlogBase fl.1 fl.2) F.vfmDlogBase_en ∧ r.1 ≤ g * pageSize ∧ g * pageSize < r.2 then
    let i := g - r.1 / pageSize
    let a := s.dlogBuf fl.1 fl.2 + i / 8
    { s with mem := dput s.mem 0 a (s.byte a ||| BitVec.ofNat 8 (2 ^ (i % 8))) }
  else s

/-- The dirty bits of HBM page g: both logs of the PF and of the VF that holds the page (R85). -/
def State.dirtyPage (s : State) (g : Nat) : State :=
  let f := s.vfOf (g * pageSize)
  (if f = 0 then [(0, 0), (0, 1)] else [(0, 0), (0, 1), (f, 0), (f, 1)]).foldl (fun t fl => t.dirtyBit g fl) s

/-- The pages that n bytes from a touch. -/
def pagesOf (a n : Nat) : List Nat := if n = 0 then [] else range' (a / pageSize) ((a + n - 1) / pageSize + 1 - a / pageSize)

/-- The bytes that are not 0 of the page at a DPA, by offset. -/
def State.pageAt (s : State) (a : Nat) : Map Byte :=
  (s.mem.filter fun e => decide (a ≤ e.1) && decide (e.1 < a + pageSize)).map fun e => (e.1 - a, e.2)

/-- The image page that HBM page g is, where a protected region holds it (R422). -/
def Job.imagePage (j : Job) (g : Nat) : Option Nat :=
  j.regions.findSome? fun e => (e.2.hbm.findIdx? fun x => decide (x = g)).map (e.2.page + ·)

/-- The old contents of a page kept in an undo generation, unless they are already (R423). -/
def keepOld (gens : Map (Map (Map Byte))) (n i : Nat) (old : Map Byte) : Map (Map (Map Byte)) :=
  let g := (mget gens n).getD []
  if (mget g i).isSome then gens else mput gens n (mput g i old)

/-- The first write of an interval to a protected page: its contents are copied first, one page read and written for the job's
function (R423). -/
def State.undoPage (s : State) (g : Nat) : State :=
  s.prf.jobs.foldl (fun t e =>
    match e.2.imagePage g with
    | some i =>
      if ((mget ((mget e.2.gens (e.2.cut + 1)).getD []) i).isSome) then t
      else (({ t with prf.jobs := mput t.prf.jobs e.1
                        { e.2 with gens := keepOld e.2.gens (e.2.cut + 1) i (t.pageAt (g * pageSize)) } }).meter e.1 4 pageSize).meter
          e.1 5 pageSize
    | none => t) s

/-- Bytes stored from a DPA on, with the dirty bits of the HBM pages they touch (R85), and nothing kept for undo. -/
def State.storeOver (s : State) (a : Nat) (bs : List Byte) : State :=
  let t := { s with mem := storeBytes s.mem a bs }
  if a < hbmEnd then (pagesOf a bs.length).foldl State.dirtyPage t else t

/-- Bytes stored from a DPA on: protected pages are copied first (R423), and the pages touched are marked dirty (R85). -/
def State.store (s : State) (a : Nat) (bs : List Byte) : State :=
  (if a < hbmEnd then (pagesOf a bs.length).foldl State.undoPage s else s).storeOver a bs

/-- Memory zeroed from lo up to hi. -/
def State.zero (s : State) (lo hi : Nat) : State := { s with mem := mclear s.mem lo hi }

/-! ### Events -/

/-- State of a domain: 0 Off, 1 Ramping, 2 On, 3 Faulted. -/
def State.pd (s : State) (d : Nat) : Nat := s.rf (Reg.pwrDomain d) F.pwrDomain_state

/-- Codes of the CLASS field (Table 22-3). -/
def EvClass.code : EvClass → Nat
  | .alarm => 0
  | .fault => 1
  | .warning => 2
  | .trace => 3

/-- One more record of block b suppressed for the ring of function f (R529). -/
def State.suppress (s : State) (f : Nat) (e : EvRec) : State :=
  { s with mon.supp := mmod s.mon.supp (f * 32 + e.block) ⟨0, e.time, false⟩ fun p =>
      { p with count := satU 32 (p.count + 1), fault := p.fault || e.cls = .fault } }

/-- The ring of a record: of its function, or of the PF where it names none (Table 22-2). -/
def EvRec.ring (e : EvRec) : Nat := if e.fn = 0x7FF then 0 else e.fn

/-- A fault report to the sink (18_proofs.md R439): unit, signature, timebase, and, of a link that went down, reason,
`LAST_GOOD_SEQ`, `LAST_ACK_SEQ`, partner node and port; at most one per signature in 10 ms. Those held back are counted and
carried by the next. -/
def State.faultReport (s : State) (unit sig time : Nat) (link : List Nat) : State :=
  let was := mget s.prf.sentAt sig
  if was.any fun e => decide (s.clk < e.1 + 10000000) then
    { s.incF Reg.prfFaultStatus F.prfFaultStatus_suppressed 1 with
        prf.sentAt := mmod s.prf.sentAt sig (0, 0) fun e => (e.1, e.2 + 1) }
  else
    (({ s with prf.sentAt := mput s.prf.sentAt sig (s.clk, 0) }).incF Reg.prfFaultStatus F.prfFaultStatus_sent 1).emit .msg
      ([7, s.rf Reg.prfCtrl F.prfCtrl_sink_node, 122, s.rf Reg.fabCtrl F.fabCtrl_node_id, unit, sig, time,
        (was.map fun (e : Nat × Nat) => e.2).getD 0] ++ link)

/-- The node or port that a fault event concerns outside this module, where it concerns one (R439): the node where the event
names one, else the port (log 51). -/
def EvRec.subject (e : EvRec) : Option Nat :=
  if e.code = 0x701 ∨ e.code = 0x702 then some (e.arg1 % 2 ^ 16)
  else if e.code = 0x703 then some e.inst
  else if e.code = 0x505 then some (e.arg1 / 2 ^ 48 % 2 ^ 16)
  else if e.code = 0xA02 then some (e.arg1 % 2 ^ 16)
  else none

/-- Whether the LOG volume takes records: a read-only or failed proof store takes none (Table 19-6). -/
def State.logs (s : State) : Bool := decide (s.rf Reg.prfPsHealth F.prfPsHealth_state < 2)

/-- A record copied to the LOG volume. -/
def State.toLog (s : State) (e : EvRec) : State := if s.logs then { s with mon.logVol := s.mon.logVol ++ [e] } else s

/-- An event raised (R526, R530, R531): alarms to the alarm queue, others through the event queue in PD94; alarms and
faults are copied to the LOG volume. -/
def State.event (s : State) (e : EvRec) : State :=
  let s : State := if e.cls = .alarm ∨ e.cls = .fault then s.toLog e else s
  let s := match (if e.cls = .fault then e.subject else none) with
    | some x => s.faultReport e.block (e.code * 2 ^ 16 + x) e.time (if e.code = 0x701 then
        [e.arg0, nbits e.arg1 27 16, nbits e.arg1 39 28, x, ((mget s.fab.links e.inst).map FabLink.peerPort).getD 0] else [])
    | none => s
  if e.cls = .alarm then
    if s.mon.alarmQ.length < 64 then { s with mon.alarmQ := s.mon.alarmQ ++ [e] }
    else s.incF Reg.monAlarmStat F.monAlarmStat_lost 1
  else if s.pd 94 = 0 ∨ s.pd 94 = 3 then s.incF Reg.monLogStat F.monLogStat_lost_off 1
  else if e.cls = .trace then
    if s.pd 95 = 0 ∨ s.pd 95 = 3 then s.incF Reg.monLogStat F.monLogStat_trace_dropped 1
    else if 384 ≤ s.mon.evQ.length then s.incF Reg.monLogStat F.monLogStat_trace_dropped 1
    else { s with mon.evQ := s.mon.evQ ++ [e] }
  else if 512 ≤ s.mon.evQ.length then s.suppress e.ring e
  else { s with mon.evQ := s.mon.evQ ++ [e] }

/-- An event of block b, position n in its row of Table 22-4 (R528), with its arguments (R560) and the time now. -/
def State.raise (s : State) (cls : EvClass) (b n : Nat) (fn : Nat := 0x7FF) (inst : Nat := 0) (arg0 : Nat := 0)
    (arg1 : Nat := 0) (arg2 : Nat := 0) (count : Nat := 1) : State :=
  s.event { time := s.time, cls := cls, code := b * 256 + n, block := b, fn := fn, inst := inst, arg0 := arg0,
            arg1 := arg1, arg2 := arg2, count := count }

/-- An input that waits because the trace volume is full: reported once in a run (R460). -/
def State.volFull (s : State) (n : Nat) : State :=
  match s.cpf.vol with
  | some v =>
    if s.cpf.volFull ∨ s.volRoom n then s
    else ({ s with cpf.volFull := true }).raise .warning 15 11 (fn := match mget s.ps.vols v with
      | some x => if x.owner = 1025 then 0x7FF else x.owner
      | none => 0x7FF) (inst := v)
  | none => s

/-- An input crosses into the scope (R403, R404): the lead admits and records it once its record has room, and a follower
takes it only as the input it has just applied; elsewhere it simply enters. -/
def State.letIn (s : State) (src kind : Nat) (data : List Byte) (act : State → State) : State :=
  if s.leads then (if s.traceRoom data.length then act (s.traceOut src kind data) else s.volFull data.length)
  else if s.follows then
    match s.cpf.inputs with
    | r :: l => if r.src = src ∧ r.kind = kind ∧ r.data = data then act { s with cpf.inputs := l } else s
    | [] => s
  else if s.cpf.halted then s
  else act s

/-- An event raised at most once in each 1 ms per code and instance. -/
def State.raiseMs (s : State) (cls : EvClass) (b n : Nat) (key : Nat) (fn : Nat := 0x7FF) (inst : Nat := 0)
    (arg0 : Nat := 0) (arg1 : Nat := 0) : State :=
  let k := (b * 256 + n) * 2 ^ 32 + key
  match mget s.mon.limited k with
  | some t => if t + 1000000 ≤ s.clk then
      { s.raise cls b n fn inst arg0 arg1 with mon.limited := mput (s.raise cls b n fn inst arg0 arg1).mon.limited k s.clk }
    else s
  | none =>
    { s.raise cls b n fn inst arg0 arg1 with mon.limited := mput (s.raise cls b n fn inst arg0 arg1).mon.limited k s.clk }

/-- One more occurrence in an aggregation window, which it opens if none is open for the same thing (R124). -/
def State.aggregate (s : State) (k : AggKind) (fn inst arg0 arg1 arg2 : Nat) : State :=
  let same : Agg → Bool := fun a =>
    a.kind = k && decide (a.fn = fn) && decide (a.inst = inst) && decide (a.arg0 = arg0) &&
      (if k = .remoteViolation then decide (a.arg1 / 2 ^ 48 = arg1 / 2 ^ 48) else decide (a.arg1 = arg1))
  if s.mon.aggs.any same then
    { s with mon.aggs := s.mon.aggs.map fun a => if same a then { a with count := satU 32 (a.count + 1) } else a }
  else { s with mon.aggs := s.mon.aggs ++ [⟨k, fn, inst, arg0, arg1, arg2, 1, s.clk⟩] }

/-! ### MSI-X -/

/-- PCIe configuration of a function. -/
def State.pci (s : State) (f : Nat) : PciFn := (mget s.icu.pci f).getD {}

/-- Whether function f's VFM_FN_CTRL.EN is 1. -/
def State.fnEn (s : State) (f : Nat) : Bool := s.on (Reg.vfmFnCtrl f) F.vfmFnCtrl_en

/-- The coalescing register of a vector (Table 20-10). -/
def coalKey (f v : Nat) : Nat := if f = 0 then Reg.icuCoalPf v else Reg.icuCoalVf (f - 1) v

/-- The MSI-X entry of a vector. -/
def State.msixEnt (s : State) (f v : Nat) : MsixEnt := (mget s.icu.msix (f * 2048 + v)).getD {}

/-- Whether half h of port n is up. -/
def State.linkUp (s : State) (n h : Nat) : Bool :=
  s.on (Reg.hifPortStatus n) (if h = 0 then F.hifPortStatus_up0 else F.hifPortStatus_up1)

/-- Whether something masks a function's vector (R494); with the host link down its pending bit is kept too (R54). -/
def State.msixMasked (s : State) (f v : Nat) : Bool :=
  (s.msixEnt f v).mask || (s.pci f).funcMask || !(s.pci f).msixEn || (s.pci f).d3hot || !s.linkUp 0 0

/-- A vector falls due: its count returns to 0, and its message is sent or held pending (R491, R492, R494). -/
def State.msixDue (s : State) (f v : Nat) : State :=
  let e := s.msixEnt f v
  let s := s.wf (coalKey f v) F.icuCoalPf_events 0
  let m := s.msixMasked f v
  let s := { s with icu.msix := mput s.icu.msix (f * 2048 + v) { e with first := none, pend := m } }
  if m then s else s.emit .msix [f, v, e.addr, e.data]

/-- Vectors a function may use (R493). -/
def State.msixLimit (s : State) (f : Nat) : Nat :=
  if f = 0 then 2048 else max 1 (min 64 (s.rf (Reg.vfmFnQuota f) F.vfmFnQuota_msix))

/-- An event on a vector (R491, R493). -/
def State.msixEvent (s : State) (f v : Nat) : State :=
  if s.msixLimit f ≤ v then s.incF Reg.icuMsixDrop F.icuMsixDrop_count 1
  else
    let n := s.rf (coalKey f v) F.icuCoalPf_events + 1
    let e := s.msixEnt f v
    let s := s.wf (coalKey f v) F.icuCoalPf_events n
    let s := { s with icu.msix := mput s.icu.msix (f * 2048 + v) { e with first := some (e.first.getD s.clk) } }
    if max 1 (s.rf (coalKey f v) F.icuCoalPf_count) ≤ n ∨ s.rf (coalKey f v) F.icuCoalPf_time = 0 then s.msixDue f v else s

/-! ### Interrupt sources -/

/-- A source routed to the host fires (R490, R493). -/
def State.hostSource (s : State) (i : Nat) : State :=
  let f := min 1024 (s.rf (Reg.icuSrc i) F.icuSrc_fn)
  if s.fnEn f then s.msixEvent f (s.rf (Reg.icuSrc i) F.icuSrc_vec) else s.incF Reg.icuMsixDrop F.icuMsixDrop_count 1

/-- An edge of a source (R485, Table 20-3): one event for the host target; else the latch is set, pending at once unless
the source is in service; an edge on a set latch is counted. -/
def State.edge (s : State) (i : Nat) : State :=
  let k := Reg.icuSrc i
  if s.on k F.icuSrc_host then (if s.on k F.icuSrc_en then s.hostSource i else s)
  else if s.on k F.icuSrc_latch then s.incF Reg.icuLatchOvf F.icuLatchOvf_count 1
  else
    let s := s.wf k F.icuSrc_latch 1
    if s.on k F.icuSrc_insvc then
      (if s.on Reg.icuCtrl F.icuCtrl_svc_mode then { s with icu.active := sins s.icu.active i } else s)
    else s.wf k F.icuSrc_pend 1

/-- The level of a source changes (R483, R490, Table 20-3). -/
def State.level (s : State) (i : Nat) (up : Bool) : State :=
  let k := Reg.icuSrc i
  let was := s.icu.level.contains i
  let s := { s with icu.level := if up then sins s.icu.level i else sdel s.icu.level i }
  if was = up then s
  else if s.on k F.icuSrc_host then (if up ∧ s.on k F.icuSrc_en then s.hostSource i else s)
  else if s.on k F.icuSrc_insvc then
    (if up ∧ s.on Reg.icuCtrl F.icuCtrl_svc_mode then { s with icu.active := sins s.icu.active i } else s)
  else s.wf k F.icuSrc_pend (b2n up)

/-! ### Mapping and ownership of an access -/

/-- The owner of plate p, 0x7FF where none (R79). -/
def State.plateOwner (s : State) (p : Nat) : Nat := s.rf (Reg.vfmPlateOwner p) F.vfmPlateOwner_owner

/-- The function an event names for a plate: its owner, or none (R560). -/
def State.plateFn (s : State) (p : Nat) : Nat := s.plateOwner p

/-- Whether plate p is absent on this grade (R2). -/
def State.absent (s : State) (p : Nat) : Bool := decide (s.grade.plates ≤ p)

/-- Whether plate p is lost (R282). -/
def State.lost (s : State) (p : Nat) : Bool := s.on (Reg.pltStatus p) F.pltStatus_lost

/-- The function a master acts for (R80): itself, or the owner of the sequencer's plate. -/
def State.actsFor (s : State) (m : Nat) : Option Nat :=
  if m ≤ 0x400 then some m
  else if 0x840 ≤ m ∧ m < 0x880 then
    (if s.plateOwner (m - 0x840) ≤ 1024 then some (s.plateOwner (m - 0x840)) else none)
  else none

/-- The function an event names for a master ID (R560). -/
def State.masterFn (s : State) (m : Nat) : Nat := (s.actsFor m).getD 0x7FF

/-- Whether a master is a control core. -/
def isCore (m : Nat) : Bool := decide (0x800 ≤ m) && decide (m < 0x804)

/-- The plate whose window holds a DPA. -/
def winPlate (a : Nat) : Option Nat :=
  if 0x4000000000 ≤ a ∧ a < 0x4040000000 then some ((a - 0x4000000000) / 0x1000000) else none

/-- Whether an offset of a plate window is mapped (Table 1-5). -/
def winMapped (o : Nat) : Bool :=
  decide (o < 0x400000) ||
  (decide (0x400000 ≤ o) && decide (o < 0xC00000) && decide ((o - 0x400000) % 0x40000 < 0x30000)) ||
  (decide (0xC00000 ≤ o) && decide (o < 0xC40000))

/-- The first DPA of the register blocks. -/
def regBase : Nat := 0x7F00000000

/-- The plate whose PLT space holds a register key. -/
def pltOf (k : Nat) : Option Nat :=
  if 0x20000000 ≤ k ∧ k < 0x24000000 then some ((k - 0x20000000) / 0x100000) else none

/-- The register key of a DPA that lies in a register block or a PLT space of a plate this grade has. -/
def State.regKey (s : State) (a : Nat) : Option Nat :=
  let k := a - regBase
  if a < regBase then none
  else if k < 0x12000000 then some k
  else match pltOf k with
    | some p => if s.absent p then none else some k
    | none => none

/-- The power domain that holds a register, none for AON (Table 21-15; blocks the table does not name, and the PRF
block, are taken in AON, log 12). -/
def regDomain (k : Nat) : Option Nat :=
  match pltOf k with
  | some p => if k % 0x100000 = 8 ∨ (0x80 ≤ k % 0x100000 ∧ k % 0x100000 < 0xA0) then none else some p
  | none =>
    let b := k / 2 ^ 24
    let o := k % 2 ^ 24
    if b = 3 then (if o < 0x20000 then some 90 else none)
    else if 1 ≤ b ∧ b ≤ 7 then some 90
    else if b = 8 then (if o < 0xC000 then some (68 + o / 0x1000) else none)
    else if b = 10 then some 91
    else if b = 16 ∨ b = 17 then some 93
    else if b = 14 then (if o = 0x10 ∨ (0x100 ≤ o ∧ o < 0x120) then none else some 94)
    else none

/-- Whether every HBM domain is On: the interleave touches every stack (R13, R495). -/
def State.hbmOn (s : State) : Bool := (range' 84 6).all fun d => s.pd d = 2

/-- Whether a DPA is mapped (R2, R19, R20, R282, R495). -/
def State.mapped (s : State) (a : Nat) : Bool :=
  if a < hbmEnd then s.hbmOn
  else match winPlate a with
    | some p => !s.absent p && !s.lost p && decide (s.pd p = 2) && winMapped ((a - 0x4000000000) % 0x1000000)
    | none =>
      match s.regKey a with
      | some k => (match regDomain k with | some d => decide (s.pd d = 2) | none => true)
      | none => false

/-- Whether a master may access a mapped DPA (R23, Table 4-2). -/
def State.allowed (s : State) (m a : Nat) : Bool :=
  let f := s.actsFor m
  if a < hbmEnd then
    if s.vfOf a ≠ 0 then f = some (s.vfOf a) || f = some 0 || isCore m || decide (m = 0x8A0)
    else f = some 0 || isCore m || (decide (0x880 ≤ m) && decide (m < 0x890)) || decide (m = 0x8A0) || decide (m = 0x8B0)
  else match winPlate a with
    | some p => f = some (s.plateOwner p) || f = some 0 || isCore m
    | none =>
      match pltOf (a - regBase) with
      | some p => f = some (s.plateOwner p) || f = some 0 || isCore m
      | none => decide (m = 0) || isCore m || (decide (0x880 ≤ m) && decide (m < 0x890) && decide ((a - regBase) / 2 ^ 24 = 6))

/-- The warning of an access to an unmapped address (R21). -/
def State.evUnmapped (s : State) (m a : Nat) : State :=
  s.raise .warning 0 2 (fn := s.masterFn m) (arg0 := m % 4096) (arg1 := a)

/-- The fault of an access the master may not make (R23). -/
def State.evViolation (s : State) (m a : Nat) : State :=
  s.raise .fault 0 3 (fn := s.masterFn m) (arg0 := m % 4096) (arg1 := a)

/-- The state after the checks of an access, and whether it may go on: unmapped before ownership (R21, R23). -/
def State.check (s : State) (m a : Nat) : Option State :=
  if m = 0xFFF then some (s.evViolation m a)
  else if ¬ s.mapped a then some (s.evUnmapped m a)
  else if ¬ s.allowed m a then some (s.evViolation m a)
  else none

/-- A software write of a register by master m takes effect, or is turned away by the checks of its address. -/
def State.sw (s : State) (m k : Nat) (act : State → State) : State :=
  match s.check m (regBase + k) with
  | some t => t
  | none => act s

/-- A command through a register of function f's own page (R83): it has its effect where the register's domain is On. -/
def State.cmd (s : State) (f k : Nat) (act : State → State) : State :=
  if s.mapped (regBase + k) then act s else s.evUnmapped f (regBase + k)

/-- A software write of a register of function f by master m: VF f writes its own through its page (R83). -/
def State.swp (s : State) (m f k : Nat) (act : State → State) : State :=
  if m = f ∧ 1 ≤ f then s.cmd f k act else s.sw m k act

/-! ### CXL bias -/

/-- Whether some page of n bytes from a is in host bias (R39). -/
def State.biased (s : State) (a n : Nat) : Bool :=
  decide (a < hbmEnd) && (pagesOf a n).any (fun g => s.hif.hostBias.contains g)

/-- The 64-byte lines that n bytes from a touch. -/
def linesOf (a n : Nat) : List Nat := if n = 0 then [] else range' (a / 64) ((a + n - 1) / 64 + 1 - a / 64)

/-- CXL.cache requests of kind k for the lines in host bias that an access touches (Table 2-6). -/
def State.cxlReqs (s : State) (k a n : Nat) : State :=
  if s.biased a n then
    (linesOf a n).foldl (fun t l =>
      if s.hif.hostBias.contains (l * 64 / pageSize) then t.emit .cxl [k, l * 64] else t) s
  else s

/-- Bytes that a device reads from HBM: from memory, or, in host bias, the value the host returns (Table 2-6). -/
def State.devBytes (s : State) (a n : Nat) (host : List Byte) : List Byte :=
  if s.biased a n then (host ++ List.replicate n 0).take n else s.bytes a n

/-- A device write: ownership requests for lines in host bias, then the store (Table 2-6). -/
def State.devStore (s : State) (a : Nat) (bs : List Byte) : State := (s.cxlReqs 1 a bs.length).store a bs

end Sys2Proof.Machine
end

