-- ==== Sys2Proof/Machine/PowerOps.lean ====
section
/-! DEFINITION. Switching power domains (21_power.md R495-R498): the operations that the power commands, wake events and
the boot share. -/

namespace Sys2Proof.Machine

/-- The rail group of a domain (R498): plate rails 0-3, the I/O rail 4. -/
def railOf (d : Nat) : Nat := if d < 64 then d / 16 else if d < 68 then d - 64 else 4

/-- Domains of rail group g that are Ramping. -/
def State.ramping (s : State) (g : Nat) : Nat :=
  ((List.range 96).filter fun d => railOf d = g ∧ s.pd d = 1).length

/-- The ramps of rail group g that may start, started in the order of the queue (R498, R499). -/
def State.startRamps (s : State) (g : Nat) : List Nat → State
  | [] => s
  | d :: ds =>
    if railOf d = g ∧ s.ramping g < 2 ∧ (mget s.pwr.paused g).isNone then
      ({ (s.wf (Reg.pwrDomain d) F.pwrDomain_state 1) with pwr.rampQ := s.pwr.rampQ.filter (· ≠ d) }).startRamps g ds
    else s.startRamps g ds

/-- A request that an Off domain go On: it ramps at once or waits its turn, wake and firmware requests ahead (R498). A
Faulted, Ramping or On domain, or one that waits already, is left as it is. -/
def State.requestOn (s : State) (d : Nat) (ahead : Bool) : State :=
  if s.pd d ≠ 0 ∨ s.pwr.rampQ.contains d ∨ s.top.stopped ∨ (d < 64 ∧ s.absent d) then s
  else
    let s := s.wf (Reg.pwrDomain d) F.pwrDomain_on 1
    let s := { s with pwr.rampQ := if ahead then d :: s.pwr.rampQ else s.pwr.rampQ ++ [d] }
    s.startRamps (railOf d) s.pwr.rampQ

/-- The control cores, the PF and the VFs need no domain of their own; a unit endpoint's domain is its channel's (Table
20-1): a notice for it requests the domain On when it is Off and `WAKE` is 1. -/
def State.wake (s : State) (c : Nat) : State :=
  let d := s.rf (Reg.mbxChan c) F.mbxChan_domain
  if s.on (Reg.mbxChan c) F.mbxChan_wake ∧ d < 96 ∧ s.pd d = 0 then
    { s.requestOn d true with icu.woken := mput (s.requestOn d true).icu.woken d none }
  else s

/-! ### Frequency plan (R501) -/

/-- The limit of a burin (34: the plate clock) at point n in a word of the plan: 0 where it is unusable. -/
def planK (w : Word) (n : Nat) : Nat := let c := nbits w.toNat (6 * (n % 8) + 5) (6 * (n % 8)); if 40 < c then 0 else c + 24

/-- The limit of burin b of plate p (34: the plate clock) at point n, 0 where it is unusable. -/
def State.kLim (s : State) (p b n : Nat) : Nat := planK (s.rd (Reg.pwrFplan p b (n / 8))) n

/-- The physical burin behind an exposed number (R276). -/
def State.phys (s : State) (p b : Nat) : Nat := nbits (s.rd (Reg.pltMap p (b / 8))).toNat (6 * (b % 8) + 5) (6 * (b % 8))

/-- The limit of exposed burin i of plate p at point n; in counterproof no higher than the partner's plan allows (R407). -/
def State.kPos (s : State) (p i n : Nat) : Nat :=
  if s.cpfRuns then min (s.kLim p (s.phys p i) n) ((mget s.cpf.peerPlan ((p * 64 + i) * 16 + n)).getD 64) else s.kLim p (s.phys p i) n

/-- The floor of plate p: the lowest point at which its clock and every exposed burin are usable; 15 where there is none. -/
def State.plateFloor (s : State) (p : Nat) : Nat :=
  ((List.range 16).find? fun n => decide (s.kLim p 34 n ≠ 0) && (List.range 32).all fun b => decide (s.kPos p b n ≠ 0)).getD 15

/-- The point, plate ratio and duty in force on plate p (Table 21-9). -/
def State.setPoint (s : State) (p op d : Nat) : State :=
  ((s.wf (Reg.pwrPlate p) F.pwrPlate_op op).wf (Reg.pwrPlate p) F.pwrPlate_kp (max 24 (s.kLim p 34 op))).wf (Reg.pwrPlate p)
    F.pwrPlate_duty (d - 1)

end Sys2Proof.Machine
end

