-- ==== Sys2Proof/Machine/Translate.lean ====
section
/-! DEFINITION. Address translation (03_translation.md): the address spaces, the walk of device page tables, the cache,
and the movement of bytes to and from translated targets. A miss in the device tables inside a command is resolved by the
tables as they are in memory (R70); the cache is filled by the walk's own rows. -/

namespace Sys2Proof.Machine

/-- The list without its first element that satisfies p. -/
def dropFirst {α : Type} (p : α → Bool) : List α → List α
  | [] => []
  | x :: xs => if p x then xs else x :: dropFirst p xs

/-- Codes of an access in EV_XLT_FAULT (Table 22-7). -/
def accCode : Access → Nat
  | .read => 0
  | .write => 1
  | .atomic => 2

/-- The fault of a translation (R73, Table 22-7): function, space, reason, access, address, stream. -/
def State.xltFault (s : State) (f sp reason : Nat) (acc : Access) (a stream snum : Nat) : State :=
  let pasid := if sp = 1 ∧ (s.pci f).pasidEn then (s.pci f).pasid else 0
  s.raise .fault 2 1 (fn := f) (inst := reason + sp * 16 + accCode acc * 64)
    (arg0 := pasid + stream * 2 ^ 20 + snum % 512 * 2 ^ 23) (arg1 := a) (arg2 := snum / 512 % 512)

/-- What a page-table entry says at a level (R60, R61): a fault reason, a pointer, or a leaf with its page bits and
rights. -/
inductive Pte where
  | fault (reason : Nat)
  | ptr (a : Nat)
  | leaf (a size : Nat) (r w : Bool)
  deriving DecidableEq, Repr

/-- Log2 of the block a leaf maps at a level (R59). -/
def lvlSize (l : Nat) : Nat := if l = 1 then 34 else if l = 2 then 25 else 16

/-- The entry e of a level-l table of a function whose bounds are [lo, hi), in the order of R61. -/
def pteOf (lo hi l e : Nat) : Pte :=
  let a := nbits e 39 12 * 4096
  let leaf := l = 3 ∨ nbit e 1
  if ¬ nbit e 0 then .fault 0
  else if nbits e 63 40 ≠ 0 ∨ nbits e 11 4 ≠ 0 then .fault 3
  else if leaf ∧ a % 2 ^ lvlSize l ≠ 0 then .fault 3
  else if a < lo ∨ hi < a + (if leaf then 2 ^ lvlSize l else 4096) then .fault 2
  else if leaf then .leaf a (lvlSize l) (nbit e 2) (nbit e 3)
  else .ptr a

/-- The address of the level-l entry for a DVA in the table at t. -/
def pteAddr (t l dva : Nat) : Nat := t + dva / 2 ^ lvlSize l % 512 * 8

/-- The walk of a DVA through the tables in memory, from level l with its table at t: a fault or a leaf. -/
def State.walkMem (s : State) (lo hi dva : Nat) : Nat → Nat → Nat → Pte
  | 0, _, _ => .fault 0
  | n + 1, l, t =>
    if t < lo ∨ hi < t + 4096 then .fault 2
    else match pteOf lo hi l (s.ldN (pteAddr t l dva) 8) with
      | .ptr a => s.walkMem lo hi dva n (l + 1) a
      | r => r

/-- The root in use of a function (R59). -/
def State.rootOf (s : State) (f : Nat) : Nat := (mget s.xlt.root f).getD 0

/-- Whether the rights of a leaf or entry allow an access. -/
def accOk (acc : Access) (r w : Bool) : Bool :=
  match acc with
  | .read => r
  | _ => w

/-- What the translation of one address answers: a target, a fault reason, a miss that waits for the host's answer, or a
link or peer that cannot be reached (R51, R53). -/
inductive Xl where
  | ok (t : Tgt)
  | fault (reason : Nat)
  | miss
  | down
  deriving DecidableEq, Repr

/-- The cached entry for an address. -/
def State.xHit (s : State) (f sp pasid a : Nat) : Option XEnt :=
  s.xlt.cache.find? fun e => decide (e.fn = f) && decide (e.space = sp) && decide (e.pasid = pasid) &&
    decide (a / 2 ^ e.size = e.page)

/-- The cache with an entry used last (R66). -/
def State.xTouch (s : State) (e : XEnt) : State :=
  { s with xlt.cache := s.xlt.cache.filter (· ≠ e) ++ [e] }

/-- A hit's answer: the right is checked, the entry becomes the most recently used. -/
def State.xUse (s : State) (e : XEnt) (acc : Access) (a : Nat) (mk : Nat → Tgt) : State × Xl :=
  if accOk acc e.r e.w then (s.xTouch e, .ok (mk (e.out + a % 2 ^ e.size))) else (s.xTouch e, .fault 1)

/-- Miss slots a function may hold (R69). -/
def State.missMax (s : State) (f : Nat) : Nat :=
  max 1 (s.rf (Reg.xltFnCfg (if f ≤ 1024 then f else 0)) F.xltFnCfg_miss_max)

/-- Miss slots a function holds. -/
def State.missHeld (s : State) (f : Nat) : Nat :=
  (s.xlt.walks.filter fun e => decide (e.2.fn = f)).length + (s.xlt.ats.filter fun e => decide (e.2.fn = f)).length

/-- The lowest free miss slot of the 512. -/
def State.missSlot (s : State) : Option Nat :=
  firstFrom (fun k => (mget s.xlt.walks k).isNone && (mget s.xlt.ats k).isNone) 0 512

/-- A Translation Request sent for an address that misses, unless one is outstanding or no slot is free (R63, R69). -/
def State.atsAsk (s : State) (q : AtsReq) : State :=
  if s.xlt.ats.any (fun e => decide (e.2.fn = q.fn) && decide (e.2.space = q.space) && decide (e.2.addr / 4096 = q.addr / 4096))
  then s
  else match (if s.missMax q.fn ≤ s.missHeld q.fn then none else s.missSlot) with
    | none => s
    | some k =>
      let c := s.pci q.fn
      ({ s with xlt.ats := mput s.xlt.ats k q }).emit .atsReq [q.fn, q.space, q.addr, if c.pasidEn then c.pasid + 1 else 0]

/-- The link of a space-2 address: the function's registered space-2 region with the lowest index that contains it
(R57). -/
def State.peerRegion (s : State) (f a : Nat) : Option Region :=
  (s.qpe.regions.find? fun e => e.2.owner = some f && decide (e.2.space = 2) && decide (e.2.base ≤ a) &&
    decide (a < e.2.base + e.2.len)).map (·.2)

/-- Whether the peer of a region is reachable (R51). -/
def State.peerUp (s : State) (r : Region) : Bool :=
  s.hif.peers.any fun p => decide (p.port = r.port) && decide (p.half = r.half) && decide (p.cid = r.cid) && p.reach

/-- The key of a port function among PCIe functions. -/
def portFn (n h : Nat) : Nat := 2048 + 2 * n + h

/-- A host or peer address on link (n, h), through ATS when function key fk has it enabled (Table 3-1). -/
def State.xlBus (s : State) (fk sp n h a : Nat) (acc : Access) (ring : Bool) (stream snum : Nat) : State × Xl :=
  if ¬ s.linkUp n h then (s, .down)
  else
    let c := s.pci fk
    if ¬ c.atsEn then (s, .ok (.bus n h a))
    else
      let q : AtsReq := { fn := fk, space := sp, addr := a, acc := acc, ring := ring, stream := stream, snum := snum }
      let hit : AtsReq × Nat → Bool := fun d => decide ({ d.1 with addr := d.1.addr / 4096 } = { q with addr := a / 4096 })
      match s.xlt.denied.find? hit with
      | some d => ({ s with xlt.denied := dropFirst hit s.xlt.denied }, .fault d.2)
      | none =>
        match s.xHit fk sp (if c.pasidEn then c.pasid else 0) a with
        | some e => if accOk acc e.r e.w then s.xUse e acc a (.bus n h) else (s.atsAsk q, .miss)
        | none => (s.atsAsk q, .miss)

/-- The translation of one address of function f (R57-R61, Table 3-1), without the fault's event. -/
def State.xl1 (s : State) (f sp a : Nat) (acc : Access) (ring : Bool) (stream snum : Nat) : State × Xl :=
  let b := s.part f
  if sp = 3 then (if f = 0 then (s, .ok (.dpa a)) else (s, .fault 7))
  else if sp = 1 then s.xlBus f 1 0 0 a acc ring stream snum
  else if sp = 2 then
    match s.peerRegion f a with
    | none => (s, .fault 8)
    | some r => if s.peerUp r then s.xlBus (portFn r.port r.half) 2 r.port r.half a acc ring stream snum else (s, .down)
  else if 2 ^ 43 ≤ a then (s, .fault 4)
  else if s.on (Reg.xltFnCfg f) F.xltFnCfg_dev_en then
    match s.xHit f 0 0 a with
    | some e => s.xUse e acc a .dpa
    | none =>
      match s.walkMem b.1 b.2 a 3 1 (s.rootOf f) with
      | .leaf o sz r w => (s, if accOk acc r w then .ok (.dpa (o + a % 2 ^ sz)) else .fault 1)
      | .fault k => (s, .fault k)
      | .ptr _ => (s, .fault 3)
  else if b.1 + a < b.2 then (s, .ok (.dpa (b.1 + a)))
  else (s, .fault 2)

/-- The translation of one address, raising the fault's event (R73). -/
def State.xlate (s : State) (f sp a : Nat) (acc : Access) (ring : Bool) (stream snum : Nat) : State × Xl :=
  match s.xl1 f sp a acc ring stream snum with
  | (t, .fault k) => (t.xltFault f sp k acc a stream snum, .fault k)
  | r => r

/-- What the translation of a range answers: the pieces it is made of. -/
inductive XlR where
  | ok (l : List (Tgt × Nat))
  | fault (reason : Nat)
  | miss
  | down
  deriving DecidableEq, Repr

/-- The translation of n bytes from a, page by page. -/
def State.xlRange (s : State) (f sp : Nat) (acc : Access) (ring : Bool) (stream snum : Nat) : Nat → Nat → Nat → State × XlR
  | 0, _, _ => (s, .ok [])
  | fuel + 1, a, n =>
    if n = 0 then (s, .ok [])
    else
      let g := if sp = 1 ∨ sp = 2 then 4096 else pageSize
      let k := min n (g - a % g)
      match s.xlate f sp a acc ring stream snum with
      | (t, .ok x) =>
        match t.xlRange f sp acc ring stream snum fuel (a + k) (n - k) with
        | (u, .ok l) => (u, .ok ((x, k) :: l))
        | r => r
      | (t, .fault r) => (t, .fault r)
      | (t, .miss) => (t, .miss)
      | (t, .down) => (t, .down)

/-- Pages a range of n bytes can touch, at most. -/
def xlFuel (n : Nat) : Nat := n / 4096 + 2

/-- The bytes at translated pieces: from memory, or, behind a link or in host bias, those the outside returns. -/
def State.fetch (s : State) : List (Tgt × Nat) → List Byte → List Byte
  | [], _ => []
  | (.dpa a, n) :: l, ext =>
    if s.biased a n then (ext ++ List.replicate n 0).take n ++ s.fetch l (ext.drop n) else s.bytes a n ++ s.fetch l ext
  | (.bus _ _ _, n) :: l, ext => (ext ++ List.replicate n 0).take n ++ s.fetch l (ext.drop n)

/-- The requests a fetch of function f makes on links and to the host's caches, and the bytes counted (R89). -/
def State.fetchReqs (s : State) (f : Nat) : List (Tgt × Nat) → State
  | [] => s
  | (.dpa a, n) :: l => ((s.cxlReqs 0 a n).meter f 4 (cdiv n 32 * 32)).fetchReqs f l
  | (.bus p h a, n) :: l => ((s.emit .tlpRead [p, h, f, a, n]).meter f 3 n).fetchReqs f l

/-- Bytes written to translated pieces by function f: stored in memory, or sent as memory writes, with Relaxed Ordering
for data when the port sets it (R44). -/
def State.put (s : State) (f : Nat) (data : Bool) : List (Tgt × Nat) → List Byte → State
  | [], _ => s
  | (.dpa a, n) :: l, bs => ((s.devStore a (bs.take n)).meter f 5 (cdiv n 32 * 32)).put f data l (bs.drop n)
  | (.bus p h a, n) :: l, bs =>
    ((s.emit .tlpWrite [p, h, f, a, if data then s.rf (Reg.hifPortCfg p) F.hifPortCfg_data_ro else 0] (bs.take n)).meter f 3 n).put
      f data l (bs.drop n)

/-- The link of a piece that lies behind one. -/
def tgtLink : Tgt → Option (Nat × Nat)
  | .dpa _ => none
  | .bus p h _ => some (p, h)

/-! ### Filling and invalidating -/

/-- The set of an entry (R65). -/
def XEnt.set (e : XEnt) : Nat := Config.xltSet e.fn e.space e.pasid e.size e.page

/-- Ways per set of a function (R66). -/
def State.ways (s : State) (f : Nat) : Nat :=
  max 1 (min 8 (s.rf (Reg.xltFnCfg (if f ≤ 1024 then f else 0)) F.xltFnCfg_ways))

/-- An entry filled in, evicting the least recently used of the same function in the set, or of the set (R66). -/
def State.xFill (s : State) (e : XEnt) : State :=
  let c := s.xlt.cache.filter fun x => ¬ (x.fn = e.fn ∧ x.space = e.space ∧ x.pasid = e.pasid ∧ x.size = e.size ∧ x.page = e.page)
  let inSet : XEnt → Bool := fun x => x.set = e.set
  let own : XEnt → Bool := fun x => inSet x && decide (x.fn = e.fn)
  let c := if s.ways e.fn ≤ (c.filter own).length then dropFirst own c
    else if 8 ≤ (c.filter inSet).length then dropFirst inSet c else c
  { s with xlt.cache := c ++ [e] }

/-- A table pointer kept in the walk cache of 2,048 entries, the oldest dropped. -/
def State.wFill (s : State) (e : WEnt) : State :=
  let c := s.xlt.wcache.filter fun x => ¬ (x.fn = e.fn ∧ x.level = e.level ∧ x.base = e.base)
  { s with xlt.wcache := (if 2048 ≤ c.length then c.drop 1 else c) ++ [e] }

/-- Whether two ranges [a, b) and [c, d) overlap. -/
def overlap (a b c d : Nat) : Bool := decide (a < d) && decide (c < b)

/-- The entries of function f in space-predicate sp that overlap [lo, hi) removed, walks and requests in scope marked to be
repeated (R70 steps 1 and 2). -/
def State.xRemove (s : State) (f : Nat) (dev host : Bool) (lo hi : Nat) : State :=
  let hit : XEnt → Bool := fun e => decide (e.fn = f) && (if e.space = 0 then dev else host) &&
    overlap (e.page * 2 ^ e.size) ((e.page + 1) * 2 ^ e.size) lo hi
  let whit : WEnt → Bool := fun e => decide (e.fn = f) && dev &&
    overlap (e.base * 2 ^ lvlSize e.level) ((e.base + 1) * 2 ^ lvlSize e.level) lo hi
  { s with
    xlt.cache := s.xlt.cache.filter fun e => ¬ hit e
    xlt.wcache := s.xlt.wcache.filter fun e => ¬ whit e
    xlt.walks := s.xlt.walks.map fun e =>
      if e.2.fn = f ∧ dev ∧ lo ≤ e.2.dva ∧ e.2.dva < hi then (e.1, { e.2 with stale := true }) else e
    xlt.ats := s.xlt.ats.map fun e =>
      if e.2.fn = f ∧ host ∧ overlap (e.2.addr / 4096 * 4096) (e.2.addr / 4096 * 4096 + 4096) lo hi then
        (e.1, { e.2 with stale := true }) else e }

/-- One past the largest address. -/
def topAddr : Nat := 2 ^ 64

/-- The root in use reloaded from its register (R59). -/
def State.loadRoot (s : State) (f : Nat) : State :=
  { s with xlt.root := mput s.xlt.root f (s.rf (Reg.xltFnRoot f) F.xltFnRoot_root * 4096) }

/-- Everything of a function removed from the cache, as an invalidation of SCOPE 2 does at its start (Table 4-6). -/
def State.xRemoveAll (s : State) (f : Nat) : State := (s.xRemove f true true 0 topAddr).loadRoot f

/-- XLT_DEV_EN_WRITE (R59): a write of `XLT_FN_CFGf`; a change of `DEV_EN` removes the function's device entries, and from
0 to 1 loads the root in use. -/
def execXltDevEnWrite (m f : Nat) (v : Word) (s : State) : Res :=
  .next <|
    s.sw m (Reg.xltFnCfg f) fun s =>
      let old := s.rd (Reg.xltFnCfg f)
      let s := s.wr (Reg.xltFnCfg f) (softWrite false old v [F.xltFnCfg_miss_max, F.xltFnCfg_ways, F.xltFnCfg_dev_en])
      if fld old 0 0 = fld v 0 0 then s
      else
        let s := s.xRemove f true false 0 topAddr
        if fld v 0 0 = 1 then s.loadRoot f else s

/-- The level and table at which a new walk of a DVA starts: below the deepest pointer the walk cache holds (R65). -/
def State.walkStart (s : State) (f dva : Nat) : Nat × Nat :=
  let ptr : Nat → Option Nat := fun l =>
    (s.xlt.wcache.find? fun e => decide (e.fn = f) && decide (e.level = l) && decide (e.base = dva / 2 ^ lvlSize l)).map (·.ptr)
  match ptr 2 with
  | some t => (3, t)
  | none => match ptr 1 with
    | some t => (2, t)
    | none => (1, s.rootOf f)

/-- TABLE_WALK_READ_DONE (R59-R62, R65, R66, R69, R70): the read of a walk in miss slot k returns (its first read starts
the walk); the walk goes on, fills the cache, faults, or, when an invalidation met it, starts again. -/
def execTableWalkReadDone (k f dva : Nat) (acc : Access) (stream snum : Nat) (host : List Byte) (s : State) : Res :=
  .next <|
    let st := s.walkStart f dva
    let fresh : Walk := ⟨f, dva, acc, st.1, st.2, stream, snum, false⟩
    let wk := (mget s.xlt.walks k).getD fresh
    let b := s.part wk.fn
    let done (t : State) : State := { t with xlt.walks := mdel t.xlt.walks k }
    let fault (r : Nat) : State := (done s).xltFault wk.fn 0 r wk.acc wk.dva wk.stream wk.snum
    if 512 ≤ k ∨ (mget s.xlt.ats k).isSome ∨ ((mget s.xlt.walks k).isNone ∧
        (s.missMax f ≤ s.missHeld f ∨ 2 ^ 43 ≤ dva ∨ ¬ s.on (Reg.xltFnCfg f) F.xltFnCfg_dev_en)) then s
    else if wk.stale then
      let st := s.walkStart wk.fn wk.dva
      { s with xlt.walks := mput s.xlt.walks k { wk with level := st.1, table := st.2, stale := false } }
    else if wk.table < b.1 ∨ b.2 < wk.table + 4096 then fault 2
    else
      let a := pteAddr wk.table wk.level wk.dva
      match pteOf b.1 b.2 wk.level (leNat (s.devBytes a 8 host)) with
      | .fault r => fault r
      | .ptr t =>
        (s.wFill ⟨wk.fn, wk.level, wk.dva / 2 ^ lvlSize wk.level, t⟩ |> fun u =>
          { u with xlt.walks := mput u.xlt.walks k { wk with level := wk.level + 1, table := t } })
      | .leaf o sz r w =>
        if accOk wk.acc r w then (done s).xFill ⟨wk.fn, 0, 0, sz, wk.dva / 2 ^ sz, o, r, w⟩
        else fault 1

/-- The DVA range an invalidation command names (Table 3-7). -/
def invRange (v : Word) : Nat × Nat :=
  (fld v 42 16 * pageSize, (fld v 42 16 + fld v 60 43 + 1) * pageSize)

/-- XLT_INV_GO (R70, R71): a write of `XLT_INV_CMDf` with `GO` = 1; ignored whole, with `ERR`, while `BUSY` is 1. -/
def execXltInvGo (m f : Nat) (v : Word) (s : State) : Res :=
  .next <|
    s.swp m f (Reg.xltInvCmd f) fun s =>
      if s.on (Reg.xltInvStatus f) F.xltInvStatus_busy then s.wf (Reg.xltInvStatus f) F.xltInvStatus_err 1
      else
        let sc := fld v 62 61
        let r := if sc = 0 then invRange v else (0, topAddr)
        let s := s.wr (Reg.xltInvCmd f) (setFld (softWrite false (s.rd (Reg.xltInvCmd f)) v
          [F.xltInvCmd_scope, F.xltInvCmd_count, F.xltInvCmd_addr]) 63 63 1)
        let s := s.wf (Reg.xltInvStatus f) F.xltInvStatus_busy 1
        let s := s.xRemove f true (decide (2 ≤ sc)) r.1 r.2
        let s := if 1 ≤ sc then s.loadRoot f else s
        { s with xlt.drains := s.xlt.drains ++ [⟨f, sc, r.1, r.2, none⟩] }

/-- XLT_INV_DRAIN_END (R70): the command's drain ends; `BUSY` and `GO` clear and `DONE` is set. -/
def execXltInvDrainEnd (f : Nat) (s : State) : Res :=
  .next <|
    if s.xlt.drains.any fun d => decide (d.fn = f) && d.ats.isNone then
      let s :=
        if s.on (Reg.xltInvStatus f) F.xltInvStatus_busy then
          ((s.wf (Reg.xltInvStatus f) F.xltInvStatus_busy 0).wf (Reg.xltInvStatus f) F.xltInvStatus_done 1).wf (Reg.xltInvCmd f)
            F.xltInvCmd_go 0
        else s
      { s with xlt.drains := s.xlt.drains.filter fun d => ¬ (d.fn = f ∧ d.ats = none) }
    else s

/-- A Translation Request sent again for the access in miss slot k. -/
def State.atsAgain (s : State) (k : Nat) (q : AtsReq) : State :=
  let c := s.pci q.fn
  ({ s with xlt.ats := mput s.xlt.ats k { q with pri := false, stale := false } }).emit .atsReq
    [q.fn, q.space, q.addr, if c.pasidEn then c.pasid + 1 else 0]

/-- The request in miss slot k ends with its access denied for a reason. -/
def State.atsDeny (s : State) (k : Nat) (q : AtsReq) (reason : Nat) : State :=
  { s with xlt.ats := mdel s.xlt.ats k,
           xlt.denied := s.xlt.denied ++ [({ q with pri := false, stale := false }, reason)] }

/-- ATS_TRANSLATION_COMPLETION (R63, R64, R66, R70): the host answers the request in miss slot k with a translation of 2^size
bytes to out and its rights, or denies it. A translation larger than 1 GiB is cached as the 1 GiB that covers the address; a
denied data page faults, and a denied ring page goes to a Page Request. -/
def execAtsTranslationCompletion (k : Nat) (ok : Bool) (size out : Nat) (r w : Bool) (s : State) : Res :=
  .next <|
    match mget s.xlt.ats k with
    | none => s
    | some q =>
      if q.pri then s
      else if q.stale then s.atsAgain k q
      else if ok ∧ accOk q.acc r w then
        let z := min 30 (max 12 size)
        let base := out / 2 ^ max 12 size * 2 ^ max 12 size
        let o := base + q.addr % 2 ^ max 12 size / 2 ^ z * 2 ^ z
        let c := s.pci q.fn
        ({ s with xlt.ats := mdel s.xlt.ats k }).xFill
          ⟨q.fn, q.space, if c.pasidEn then c.pasid else 0, z, q.addr / 2 ^ z, o, r, w⟩
      else if q.ring then
        ({ s with xlt.ats := mput s.xlt.ats k { q with pri := true } }).emit .pageReq [q.fn, q.space, q.addr / 4096 * 4096]
      else s.atsDeny k q 5

/-- PAGE_REQUEST_RESPONSE (R64): Success repeats the translation; Invalid Request or Response Failure is a fault. -/
def execPageRequestResponse (k : Nat) (ok : Bool) (s : State) : Res :=
  .next <|
    match mget s.xlt.ats k with
    | none => s
    | some q => if ¬ q.pri then s else if ok then s.atsAgain k q else s.atsDeny k q 6

/-- ATS_INVALIDATE_REQUEST (R72): the host invalidates [lo, hi) of function (or port function) f; the matching host or
peer entries go and a drain starts. -/
def execAtsInvalidateRequest (f space lo hi tag : Nat) (s : State) : Res :=
  .next <|
    let s := s.xRemove f false true lo hi
    { s with xlt.drains := s.xlt.drains ++ [⟨f, space, lo, hi, some tag⟩] }

/-- ATS_INVALIDATION_COMPLETE (R72): the drain of an ATS invalidation ends and Invalidation Completion is returned. -/
def execAtsInvalidationComplete (f tag : Nat) (s : State) : Res :=
  .next <|
    if s.xlt.drains.any fun d => decide (d.fn = f) && d.ats = some tag then
      ({ s with xlt.drains := s.xlt.drains.filter fun d => ¬ (d.fn = f ∧ d.ats = some tag) }).emit .invCpl [f, tag]
    else s

end Sys2Proof.Machine
end

