-- ==== Sys2Proof/Machine/PlateOps.lean ====
section
/-! DEFINITION. Plates and their cores (12_plates.md, 13_burin_isa.md): access to cores, barriers, image loading, starting and
halting, the plate mover; what the plate commands, the collective engine and the instruction set share. -/

namespace Sys2Proof.Machine

/-! ### Plates and cores -/

/-- The state of plate p beside its registers. -/
def State.plate (s : State) (p : Nat) : PlateSt := (mget s.plt.plates p).getD {}

/-- Plate p changed. -/
def State.setPlate (s : State) (p : Nat) (x : PlateSt) : State := { s with plt.plates := mput s.plt.plates p x }

/-- The key of a core in the map of cores. -/
def Core.key : Core → Nat
  | .seq p => p * 64 + 32
  | .burin p b => p * 64 + b
  | .tport i => 8192 + i

/-- A core's state; one that has never run is halted with every register 0. -/
def State.core (s : State) (c : Core) : CoreSt := (mget s.plt.cores (Core.key c)).getD {}

/-- A core changed. -/
def State.setCore (s : State) (c : Core) (x : CoreSt) : State := { s with plt.cores := mput s.plt.cores (Core.key c) x }

/-- Scalar register n; s0 reads 0 (R289). -/
def CoreSt.sr (x : CoreSt) (n : Nat) : Word := if n = 0 then 0 else dget x.s 0 n

/-- A write of scalar register n; one of s0 is discarded (R289). -/
def CoreSt.setS (x : CoreSt) (n : Nat) (v : Word) : CoreSt := if n = 0 then x else { x with s := dput x.s 0 n v }

/-- Vector register n. -/
def CoreSt.vr (x : CoreSt) (n : Nat) : Nat := (dget x.v 0 n).toNat

/-- A write of vector register n. -/
def CoreSt.setV (x : CoreSt) (n v : Nat) : CoreSt := { x with v := dput x.v 0 n (BitVec.ofNat 2048 v) }

/-- Mask register n. -/
def CoreSt.mr (x : CoreSt) (n : Nat) : Nat := (dget x.m 0 n).toNat

/-- A write of mask register n. -/
def CoreSt.setM (x : CoreSt) (n v : Nat) : CoreSt := { x with m := dput x.m 0 n (BitVec.ofNat 64 v) }

/-- Element (i, j) of accumulator n. -/
def CoreSt.accE (x : CoreSt) (n i j : Nat) : Nat := (dget x.acc 0 (n * 1024 + i * 32 + j)).toNat

/-- The elements of an accumulator written from position k (row * 32 + column) on. -/
def CoreSt.setAcc (x : CoreSt) (n k : Nat) : List Nat → CoreSt
  | [] => x
  | v :: vs => ({ x with acc := dput x.acc 0 (n * 1024 + k) (BitVec.ofNat 32 v) }).setAcc n (k + 1) vs

/-- The plate of a core; transport cores have none. -/
def corePlate : Core → Option Nat
  | .seq p => some p
  | .burin p _ => some p
  | .tport _ => none

/-- The first DPA of plate p's memory (Table 1-5). -/
def winBase (p : Nat) : Nat := 0x4000000000 + p * 0x1000000

/-- The first DPA of a local store. -/
def lsBase (p b : Nat) : Nat := winBase p + 0x400000 + b * 0x40000

/-- The first DPA of plate p's instruction memory. -/
def imBase (p : Nat) : Nat := winBase p + 0xC00000

/-- Bytes of plate memory and of a local store. -/
def pmSize : Nat := 4194304
@[inherit_doc pmSize] def lsSize : Nat := 196608

/-- `DMODE` as it reads: 1 in counterproof mode (R275). -/
def State.dmode (s : State) (p : Nat) : Bool := s.on (Reg.pltCtrl p) F.pltCtrl_dmode || s.cpfRuns

/-- Whether plate p runs. -/
def State.runs (s : State) (p : Nat) : Bool := s.on (Reg.pltStatus p) F.pltStatus_run

/-- A field of PLT_STATUS set. -/
def State.pst (s : State) (p : Nat) (f : Fld) (v : Nat) : State := s.wf (Reg.pltStatus p) f v

/-- Bits of `RUNNING`. -/
def State.running (s : State) (p : Nat) : Nat := s.rf (Reg.pltStatus p) F.pltStatus_running

/-! ### Barriers (R268, R269) -/

/-- Barrier b of plate p. -/
def State.bar (s : State) (p b : Nat) : Barrier := (mget (s.plate p).bars b).getD {}

/-- A barrier changed. -/
def State.setBar (s : State) (p b : Nat) (x : Barrier) : State :=
  s.setPlate p { s.plate p with bars := mput (s.plate p).bars b x }

/-- Participant i of a plate's barriers: an exposed burin, or the sequencer (32). -/
def participant (p i : Nat) : Core := if i = 32 then .seq p else .burin p i

/-- Participants of a barrier that have neither arrived nor halted. -/
def State.absentees (s : State) (p : Nat) (x : Barrier) : List Nat :=
  (List.range 33).filter fun i => nbit x.mask i && !nbit x.arrived i && decide ((s.core (participant p i)).run ≠ .halted)

/-- A barrier with a waiter releases when no participant is missing: every waiter resumes, the generation rises (R268). -/
def State.barCheck (s : State) (p b : Nat) : State :=
  let x := s.bar p b
  if x.arrived ≠ 0 ∧ s.absentees p x = [] then
    let s := (List.range 33).foldl (fun t i =>
      let c := participant p i
      if (t.core c).run = .barrier b then t.setCore c { t.core c with run := .running } else t) s
    s.setBar p b { x with arrived := 0, gen := (x.gen + 1) % 2 ^ 32, told := false }
  else s

/-- Participant i arrives at barrier b and waits, where it belongs to the barrier's mask (R268, R322). -/
def State.barArrive (s : State) (p b i : Nat) : State :=
  let x := s.bar p b
  if nbit x.mask i then
    let c := participant p i
    let s := s.setCore c { s.core c with run := .barrier b }
    (s.setBar p b { x with arrived := Nat.lor x.arrived (2 ^ i), since := if x.arrived = 0 then s.clk else x.since }).barCheck p b
  else s

/-- A barrier's mask narrowed (R269, R322). -/
def State.barNarrow (s : State) (p b m : Nat) : State :=
  let x := s.bar p b
  (s.setBar p b { x with mask := Nat.land x.mask (m % 2 ^ 33) }).barCheck p b

/-- A core halts: it counts as arrived at every barrier from now on (R269, R313). -/
def State.haltCore (s : State) (c : Core) : State :=
  let s := s.setCore c { s.core c with run := .halted }
  match c with
  | .burin p b =>
    let s := s.pst p F.pltStatus_running (s.running p - (if nbit (s.running p) b then 2 ^ b else 0))
    (List.range 8).foldl (fun t i => t.barCheck p i) s
  | .seq p => (List.range 8).foldl (fun t i => t.barCheck p i) s
  | .tport _ => s

/-! ### Starting and stopping the cores -/

/-- A core as `START` leaves it (R265, Table 13-4): every register 0 but s1, s2, s3, MODE and the PC. -/
def startCore (pc s1 s2 s3 : Nat) (det : Bool) : CoreSt :=
  (((({ run := .running, pc := pc, mode := if det then 0x8000 else 0 } : CoreSt).setS 1 (BitVec.ofNat 64 s1)).setS 2
    (BitVec.ofNat 64 s2)).setS 3 (BitVec.ofNat 64 s3))

/-- Whether a substitution waits on plate p (R276). -/
def State.substPend (s : State) (p : Nat) : Bool := s.on (Reg.pltStatus p) F.pltStatus_subst_pend

/-- The program of plate p begins (R265, R268). -/
def State.begin (s : State) (p : Nat) : State :=
  let x := s.plate p
  let f := s.plateOwner p
  let burins := (List.range 32).filter fun b => nbit x.image.burins b
  let s := s.setCore (.seq p) (startCore x.image.seqEntry 32 p f (s.dmode p))
  let s := (List.range 32).foldl (fun t b =>
    t.setCore (.burin p b) (if nbit x.image.burins b then startCore x.image.burinEntry b p f (t.dmode p)
      else { t.core (.burin p b) with run := .halted })) s
  let s := s.setPlate p { x with
    started := burins, phase := 0,
    bars := (List.range 8).map fun b =>
      (b, ({ (mget x.bars b).getD {} with mask := x.image.burins + 2 ^ 32, arrived := 0, told := false } : Barrier)) }
  let s := ((s.pst p F.pltStatus_run 1).pst p F.pltStatus_running x.image.burins).pst p F.pltStatus_exc 0
  (s.wr (Reg.pltExc p) 0).wr (Reg.pltExcAddr p) 0

/-- Every core of a plate stops, its barriers are cleared, the plate's tickets end, and the descriptors that have not
started are discarded: the first of a queue that has no error has started (R267, R269, R304). -/
def State.stopCores (s : State) (p : Nat) : State :=
  let s := (List.range 33).foldl (fun t i => t.setCore (participant p i) { t.core (participant p i) with run := .halted }) s
  let x := s.plate p
  (s.setPlate p { x with
    tickets := [],
    bars := x.bars.map fun e => (e.1, { e.2 with mask := 0, arrived := 0, told := false }),
    mover := x.mover.map fun e => (e.1, { e.2 with q := if e.2.err then [] else e.2.q.take 1 }) }).pst p F.pltStatus_running 0

/-- Whether every queue of the plate mover is empty. -/
def State.moverIdle (s : State) (p : Nat) : Bool := (s.plate p).mover.all fun e => e.2.q.isEmpty

/-- The program stops (R267): `RUN` clears, and `END` is set, when the transfers already issued have ended. -/
def State.stopPlate (s : State) (p why : Nat) : State :=
  if s.runs p ∧ (s.plate p).stopping = none then
    let s := s.stopCores p
    s.setPlate p { s.plate p with stopping := some why }
  else s

/-! ### Images (R278, R279) -/

/-- The fields of a header (Table 12-4). -/
def imageOf (h : List Byte) : Image :=
  let w (o : Nat) : Nat := leNat ((h.drop o).take 4)
  { burins := w 0x0C, text := w 0x10, seqEntry := w 0x14, burinEntry := w 0x18, dataOff := w 0x1C, dataLen := w 0x20,
    lsLen := w 0x24 }

/-- What a header's check comes to: 0 valid, 2 a field outside the table, 3 a length or offset out of range (R279). -/
def headerCheck (h : List Byte) : Nat :=
  let magic := [0x55, 0x56, 0x39, 0x50, 0x4C, 0x41, 0x54, 0x45]
  let i := imageOf h
  if (h.take 8).map (·.toNat) ≠ magic ∨ leNat ((h.drop 8).take 2) ≠ 1 ∨ leNat ((h.drop 10).take 2) ≠ 0 ∨
      leNat (h.drop 0x28) ≠ 0 then 2
  else if i.text < 16 ∨ 262144 < i.text ∨ i.text % 16 ≠ 0 ∨ i.seqEntry % 16 ≠ 0 ∨ i.text ≤ i.seqEntry ∨
      i.burinEntry % 16 ≠ 0 ∨ i.text ≤ i.burinEntry ∨ i.dataOff % 64 ≠ 0 ∨ pmSize < i.dataOff + i.dataLen ∨
      lsSize < i.lsLen then 3
  else 0

/-- A length rounded up to 64 bytes. -/
def up64 (n : Nat) : Nat := cdiv n 64 * 64

/-- The length of an image. -/
def Image.len (i : Image) : Nat := 64 + up64 i.text + up64 i.dataLen + up64 i.lsLen

/-- What reading a stream of bytes came to: all of it; the bytes before a fault; or a translation that is not there yet. -/
inductive Stream where
  | all (s : State) (bs : List Byte)
  | bad (s : State) (bs : List Byte)
  | miss (s : State)

/-- n bytes of function f from address a of a space, in pieces of at most 4 KiB, through the stream of plate p's mover
(R272, Table 3-3): host and peer memory, and HBM that the host holds, give ext. -/
def State.readStream (s : State) (f sp p : Nat) : Nat → Nat → Nat → List Byte → Stream
  | 0, _, _, _ => .all s []
  | fuel + 1, a, n, ext =>
    if n = 0 then .all s []
    else
      let k := min n (4096 - a % 4096)
      match s.xlRange f sp .read false 3 p 2 a k with
      | (t, .ok l) =>
        let bs := t.fetch l ext
        let used := (l.filter fun x => (tgtLink x.1).isSome || (match x.1 with | .dpa d => t.biased d x.2 | _ => false)).foldl (fun u x => u + x.2) 0
        match (t.fetchReqs f l).readStream f sp p fuel (a + k) (n - k) (ext.drop used) with
        | .all u r => .all u (bs ++ r)
        | .bad u r => .bad u (bs ++ r)
        | .miss u => .miss u
      | (t, .miss) => .miss t
      | (t, _) => .bad t []

/-- The parts of an image's bytes, from offset 64 on, stored: text, data, and the local stores of every exposed burin;
what lies beyond the bytes read is not. -/
def State.storeImage (s : State) (p : Nat) (i : Image) (bs : List Byte) : State :=
  let text := (bs.drop 64).take i.text
  let data := (bs.drop (64 + up64 i.text)).take i.dataLen
  let ls := (bs.drop (64 + up64 i.text + up64 i.dataLen)).take i.lsLen
  let m := storeBytes (storeBytes s.mem (imBase p) text) (winBase p + i.dataOff) data
  { s with mem := (List.range 32).foldl (fun m b => storeBytes m (lsBase p b) ls) m }

/-- A load ends with a result. -/
def State.loadEnd (s : State) (p r : Nat) : State :=
  let s := (s.setPlate p { s.plate p with load := none }).pst p F.pltStatus_loading 0
  (s.pst p F.pltStatus_load_result r).pst p F.pltStatus_loaded (if r = 1 then 1 else 0)

/-- A load begins, or is refused with `LOAD_RESULT` 6 (R279). -/
def State.loadGo (s : State) (p a sp : Nat) : State :=
  if s.runs p ∨ (s.plate p).load.isSome ∨ (s.plate p).resetting then s.pst p F.pltStatus_load_result 6
  else ((s.setPlate p { s.plate p with load := some (a, sp) }).pst p F.pltStatus_loaded 0).pst p F.pltStatus_loading 1

/-- The digest registers as one number: byte 0 in bits [63:56] of `PLT_DIGEST[0]`. -/
def State.digest (s : State) (p : Nat) : Nat :=
  (List.range 6).foldl (fun a i => a * 2 ^ 64 + (s.rd (Reg.pltDigest p i)).toNat) 0

/-- The load of an image that firmware supplies with its digest, as ext (R370). -/
def State.loadBuiltIn (s : State) (p : Nat) (ext : List Byte) : State :=
  let i := imageOf (ext.take 64)
  if ext.length < 64 then s.loadEnd p 4
  else if headerCheck (ext.take 64) ≠ 0 then s.loadEnd p (headerCheck (ext.take 64))
  else if ext.length < i.len then (s.storeImage p i ext).loadEnd p 4
  else
    let t := s.storeImage p i (ext.take i.len)
    (t.setPlate p { t.plate p with image := i }).loadEnd p 1

/-- The space number under which a load takes its image from firmware (the model's own). -/
def builtIn : Nat := 4

/-- The load under way runs to its end: header, stream, digest (R279). What lies behind a link comes in ext; a translation
that is missing leaves the load waiting. -/
def State.loadRun (s : State) (p : Nat) (ext : List Byte) : State :=
  match (s.plate p).load with
  | none => s
  | some (a, sp) =>
    let f := s.plateOwner p
    if sp = builtIn then s.loadBuiltIn p ext else
    if 1024 < f then (s.evViolation (0x840 + p) a).loadEnd p 4
    else match s.readStream f sp p (xlFuel 64) a 64 ext with
      | .miss t => t
      | .bad t _ => t.loadEnd p 4
      | .all t h =>
        if headerCheck h ≠ 0 then t.loadEnd p (headerCheck h)
        else
          let i := imageOf h
          match s.readStream f sp p (xlFuel i.len) a i.len ext with
          | .miss t => t
          | .bad t bs => (t.storeImage p i bs).loadEnd p 4
          | .all t bs =>
            let t := t.storeImage p i bs
            let t := t.setPlate p { t.plate p with image := i }
            if sha384 (bs.map (·.toNat)) = t.digest p then t.loadEnd p 1
            else (t.loadEnd p 5).raise .warning 18 5 (fn := t.plateFn p) (inst := p) (arg0 := 5)

/-! ### Dispensers (R271) -/

/-- A claim by burin b from dispenser d: its result and the state after it. -/
def State.claim (s : State) (p d b : Nat) : State × Nat :=
  let k := Reg.pltDisp p d
  let limit := s.rf k F.pltDisp_limit
  let next := s.rf k F.pltDisp_next
  if s.dmode p then
    let j := (mget (s.plate p).claims (d * 32 + b)).getD 0
    let s := s.setPlate p { s.plate p with claims := mput (s.plate p).claims (d * 32 + b) (j + 1) }
    (s.wf k F.pltDisp_next (next + 1), if b + 32 * j < limit then b + 32 * j else 0xFFFFFFFF)
  else if next < limit then (s.wf k F.pltDisp_next (next + 1), next)
  else (s, 0xFFFFFFFF)

/-! ### The plate mover (R272, R273, R301) -/

/-- Queue q of plate p's mover. -/
def State.mq (s : State) (p q : Nat) : MoverQ := (mget (s.plate p).mover q).getD {}

/-- A queue changed. -/
def State.setMq (s : State) (p q : Nat) (x : MoverQ) : State :=
  s.setPlate p { s.plate p with mover := mput (s.plate p).mover q x }

/-- Bytes of a descriptor's row, and its rows (Table 13-10). -/
def dRow (d : List Nat) : Nat := nbits (d.getD 2 0) 31 0
@[inherit_doc dRow] def dRows (d : List Nat) : Nat := max 1 (nbits (d.getD 2 0) 63 32)

/-- Kinds of source and destination. -/
def dSrcKind (d : List Nat) : Nat := nbits (d.getD 4 0) 2 0
@[inherit_doc dSrcKind] def dDstKind (d : List Nat) : Nat := nbits (d.getD 4 0) 5 3

/-- The address of row r of the source, and of the destination, in their kinds: a DPA for kinds 0 to 2. -/
def dSrc (p : Nat) (d : List Nat) (r : Nat) : Nat :=
  let o := d.getD 0 0 + r * nbits (d.getD 3 0) 31 0
  match dSrcKind d with
  | 0 => winBase p + o
  | 1 => lsBase p (nbits (d.getD 4 0) 10 6) + o
  | _ => o
@[inherit_doc dSrc] def dDst (p : Nat) (d : List Nat) (r : Nat) : Nat :=
  let o := d.getD 1 0 + r * nbits (d.getD 3 0) 63 32
  match dDstKind d with
  | 0 => winBase p + o
  | 1 => lsBase p (nbits (d.getD 4 0) 15 11) + o
  | _ => o

/-- Whether the offsets of a side pass its memory (R302). -/
def dPasses (kind off rows row stride : Nat) : Bool :=
  match kind with
  | 0 => decide (pmSize < off + (rows - 1) * stride + row)
  | 1 => decide (lsSize < off + (rows - 1) * stride + row)
  | _ => false

/-- The faulty words of a descriptor of 8 words, as a mask (R302). -/
def dFaults (d : List Nat) : Nat :=
  let rows := dRows d
  let row := dRow d
  let k (i : Nat) (b : Bool) : Nat := if b then 2 ^ i else 0
  k 0 (dPasses (dSrcKind d) (d.getD 0 0) rows row (nbits (d.getD 3 0) 31 0)) +
  k 1 (dPasses (dDstKind d) (d.getD 1 0) rows row (nbits (d.getD 3 0) 63 32)) +
  k 2 (decide (row = 0) || decide (2 ^ 32 - 1 < rows * row)) +
  k 4 (decide (6 ≤ dSrcKind d) || decide (6 ≤ dDstKind d) || decide (nbits (d.getD 4 0) 63 16 ≠ 0)) +
  k 5 (decide (d.getD 5 0 ≠ 0)) + k 6 (decide (d.getD 6 0 ≠ 0)) + k 7 (decide (d.getD 7 0 ≠ 0))

/-- The 64-byte lines checked for an access of n bytes at a DPA, their first addresses. -/
def lineStarts (a n : Nat) : List Nat := (linesOf a n).map fun l => max a (l * 64)

/-- Whether a DPA lies in the instruction memory of a plate (R280). -/
def isImem (a : Nat) : Bool :=
  match winPlate a with
  | some _ => decide (0xC00000 ≤ (a - 0x4000000000) % 0x1000000)
  | none => false

/-- The state after the checks of n bytes at a DPA for master m, or none where it may go on (R21, R23, R280). -/
def State.dpaCheck (s : State) (m a n : Nat) (wr : Bool) : Option State :=
  (lineStarts a n).findSome? fun x =>
    match s.check m x with
    | some t => some t
    | none => if wr ∧ isImem x then some (s.evViolation m x) else none

/-- The plate memory a DPA lies in, as EV_PLATE_ECC names it: memory, burin, offset (Table 22-7). -/
def eccPlace (a : Nat) : Nat × Nat × Nat :=
  let o := (a - 0x4000000000) % 0x1000000
  if o < 0x400000 then (0, 0, o)
  else if o < 0xC00000 then (1, (o - 0x400000) / 0x40000, (o - 0x400000) % 0x40000)
  else (2, 0, o - 0xC00000)

/-- The fault of a double-bit error in a plate's memories (R264). -/
def State.evEcc (s : State) (a : Nat) : State :=
  match winPlate a with
  | some p =>
    let (m, b, o) := eccPlace a
    s.raise .fault 18 1 (fn := s.plateFn p) (inst := p) (arg0 := m + b * 4) (arg1 := o)
  | none => s

/-- The words of a plate's memories among n bytes at a DPA that read with a double-bit error. -/
def dbeIn (e : Env) (a n : Nat) : Option Nat :=
  if (winPlate a).isSome then
    (e.dbe.find? fun w => decide (a / 8 ≤ w) && decide (w ≤ (a + n - 1) / 8)).map fun w => w * 8
  else none

/-- Single-bit errors counted for a plate (R264). -/
def State.countSbe (s : State) (p n : Nat) : State := s.incF (Reg.monEcc p) F.monEcc_count n

/-- One side of a transfer resolved: its pieces; a failure; or a translation that is missing. -/
inductive Side where
  | ok (s : State) (l : List (Tgt × Nat))
  | bad (s : State)
  | miss (s : State)

/-- The pieces of a row of n bytes at an address of a kind (R272): plate-local memories as they are, DPAs under R23, spaces
0-2 through the plate's stream. -/
def State.side (s : State) (p kind a n : Nat) (wr : Bool) : Side :=
  if kind < 2 then .ok s [(.dpa a, n)]
  else if kind = 2 then
    (match s.dpaCheck (0x840 + p) a n wr with
      | some t => .bad t
      | none => .ok s [(.dpa a, n)])
  else match s.xlRange (s.plateOwner p) (kind - 3) (if wr then .write else .read) false 3 p (xlFuel n) a n with
    | (t, .ok l) => .ok t l
    | (t, .miss) => .miss t
    | (t, _) => .bad t

/-- What moving the rows of a descriptor came to. -/
inductive Moved where
  | done (s : State)
  | failed (s : State)
  | miss (s : State)

/-- Bytes of pieces that come from outside. -/
def State.extLen (s : State) (l : List (Tgt × Nat)) : Nat :=
  (l.filter fun x => (tgtLink x.1).isSome || (match x.1 with | .dpa d => s.biased d x.2 | _ => false)).foldl (fun u x => u + x.2) 0

/-- The rows of a descriptor moved, from row r on: each is read and written; one that cannot be read or written, or reads
with a double-bit error, ends the descriptor (R272, R273). -/
def State.moveRows (s : State) (p : Nat) (d : List Nat) (e : Env) : Nat → Nat → List Byte → Moved
  | 0, _, _ => .done s
  | fuel + 1, r, ext =>
    let n := dRow d
    let f := s.plateOwner p
    match s.side p (dSrcKind d) (dSrc p d r) n false with
    | .miss t => .miss t
    | .bad t => .failed t
    | .ok t src =>
      match t.side p (dDstKind d) (dDst p d r) n true with
      | .miss t => .miss t
      | .bad t => .failed t
      | .ok t dst =>
        match src.findSome? (fun x => match x.1 with | .dpa a => dbeIn e a x.2 | _ => none) with
        | some a => .failed (t.evEcc a)
        | none =>
          let bs := t.fetch src ext
          let near (k : Nat) : Bool := decide (k < 2)
          let ext := ext.drop (t.extLen src)
          let t := if near (dSrcKind d) then t else t.fetchReqs f src
          let t := if near (dDstKind d) then t.store (dDst p d r) bs else t.put f true dst bs
          t.moveRows p d e fuel (r + 1) ext

/-- Bytes mixed of old and new ones by free values: which of them were written is not defined (R273). -/
def mixBytes (k : Nat) : List Byte → List Byte → List Byte
  | o :: os, n :: ns => (if (Config.freeValue k).toNat % 2 = 1 then n else o) :: mixBytes (k + 1) os ns
  | _, _ => []

/-- The rows of a failed descriptor: of each row that can be written, any bytes may have been (R273). -/
def State.spoilRows (s : State) (p : Nat) (d : List Nat) (ext : List Byte) : Nat → Nat → State
  | 0, _ => s
  | fuel + 1, r =>
    let n := dRow d
    match s.side p (dSrcKind d) (dSrc p d r) n false, s.side p (dDstKind d) (dDst p d r) n true with
    | .ok _ src, .ok _ [(.dpa a, _)] =>
      let bs := mixBytes s.free (s.bytes a n) (s.fetch src ext)
      ({ s.store a bs with free := s.free + n }).spoilRows p d ext fuel (r + 1)
    | _, _ => s.spoilRows p d ext fuel (r + 1)

/-- The state in which a translation that the descriptor needs is asked for, if one is missing. -/
def State.rowsMiss (s : State) (p : Nat) (d : List Nat) : Nat → Nat → Option State
  | 0, _ => none
  | fuel + 1, r =>
    match s.side p (dSrcKind d) (dSrc p d r) (dRow d) false with
    | .miss t => some t
    | .bad _ => none
    | .ok t _ =>
      match t.side p (dDstKind d) (dDst p d r) (dRow d) true with
      | .miss t => some t
      | .bad _ => none
      | .ok t _ => t.rowsMiss p d fuel (r + 1)

/-- The oldest descriptor of a queue ends (R273): its writes are visible, or it fails and sets the error flag, or it is
discarded because the flag is set. The count advances in each case. -/
def State.descEnd (s : State) (p q : Nat) (e : Env) : State :=
  let x := s.mq p q
  match x.q with
  | [] => s
  | d :: ds =>
    let fin (t : State) (err : Bool) : State :=
      t.setMq p q { t.mq p q with q := ds, ended := (x.ended + 1) % 2 ^ 32, err := err }
    if x.err then fin s true
    else
      match s.rowsMiss p d (dRows d) 0 with
      | some t => t
      | none =>
      match (s.countSbe p e.sbe).moveRows p d e (dRows d) 0 e.host with
      | .miss t => t
      | .done t => fin t false
      | .failed t => fin ({ s.spoilRows p d e.host (dRows d) 0 with mon := t.mon, regs := t.regs, out := t.out }) true

end Sys2Proof.Machine
end

