-- ==== Sys2Proof/Machine/Mailbox.lean ====
section
/-! DEFINITION. Mailbox channels, wake events and interrupt sources (20_mailboxes_interrupts.md): the meanings of the
rows MBX_SEND to MSIX_UNMASK. -/

namespace Sys2Proof.Machine

/-- Whether a master may be an endpoint of a channel (R470). -/
def mbxEndpoint (m : Nat) : Bool := decide (m ≤ 0x400) || isCore m || decide (m = 0x8A0) || decide (m = 0x8B0)

/-- Whether a master is a unit endpoint (R471). -/
def isUnit (m : Nat) : Bool := decide (m = 0x8A0) || decide (m = 0x8B0)

/-- The sender and receiver of channel c. -/
def State.mbxSender (s : State) (c : Nat) : Nat := s.rf (Reg.mbxChan c) F.mbxChan_sender

@[inherit_doc State.mbxSender]
def State.mbxReceiver (s : State) (c : Nat) : Nat := s.rf (Reg.mbxChan c) F.mbxChan_receiver

/-- Whether channel c is in use: `EN`, and two different masters that may be endpoints (R470). -/
def State.mbxEn (s : State) (c : Nat) : Bool :=
  s.on (Reg.mbxChan c) F.mbxChan_en && mbxEndpoint (s.mbxSender c) && mbxEndpoint (s.mbxReceiver c) &&
    s.mbxSender c != s.mbxReceiver c

/-- The channel's notices. -/
def State.chan (s : State) (c : Nat) : MbxChan := (mget s.icu.mbx c).getD {}

/-- Slots of a channel (R474). -/
def State.mbxSlots (s : State) (c : Nat) : Nat := s.rf (Reg.mbxChan c) F.mbxChan_depth + 1

/-- A notice discarded and counted, with the warning for reasons 1-3 at most once in 1 ms (R477, R479). -/
def State.mbxDrop (s : State) (c reason : Nat) : State :=
  let s := s.incF (Reg.mbxTxStat c) F.mbxTxStat_drops 1
  let s := if reason = 1 then s.wf (Reg.mbxTxStat c) F.mbxTxStat_full 1 else s
  if reason = 0 then s
  else
    let f := if s.mbxSender c ≤ 0x400 then s.mbxSender c else 0x7FF
    s.raiseMs .warning 11 1 c (fn := f) (arg0 := c + reason * 2 ^ 16)

/-- A notice appended with its sequence number and time, waking its receiver (R474, R481). -/
def State.mbxAccept (s : State) (c : Nat) (v : Word) : State :=
  let ch := s.chan c
  let ch := { ch with q := ch.q ++ [⟨v.toNat, ch.nextSeq, s.time⟩], nextSeq := (ch.nextSeq + 1) % 2 ^ 16 }
  ({ s with icu.mbx := mput s.icu.mbx c ch }).wake c

/-- MBX_SEND (R472, R474, R477-R479): a write of `MBX_TXc` by master m. -/
def execMbxSend (m c : Nat) (v : Word) (s : State) : Res :=
  .next <|
    let a := regBase + Reg.mbxTx c
    let rcv := s.mbxReceiver c
    let d := s.rf (Reg.mbxChan c) F.mbxChan_domain
    if ¬ s.mbxEn c then (s.evViolation m a).mbxDrop c 0
    else if m ≠ s.mbxSender c then s.evViolation m a
    else if rcv ≤ 0x400 ∧ (¬ s.fnEn rcv ∨ s.on (Reg.vfmFnCtrl rcv) F.vfmFnCtrl_flr_busy) then s.mbxDrop c 2
    else if d < 96 ∧ s.pd d = 3 then s.mbxDrop c 3
    else if s.mbxSlots c ≤ (s.chan c).q.length then (if isUnit m then s else s.mbxDrop c 1)
    else s.mbxAccept c v

/-- MBX_POP (R472, R476): a write of `POP` by master m removes the head notice; a woken domain starts its 1 ms with its
last notice (R482). -/
def execMbxPop (m c : Nat) (s : State) : Res :=
  .next <|
    if m ≠ s.mbxReceiver c then s.evViolation m (regBase + Reg.mbxRxStat c)
    else match (s.chan c).q with
      | [] => s.wf (Reg.mbxRxStat c) F.mbxRxStat_underflow 1
      | _ :: t =>
        let s := { s with icu.mbx := mput s.icu.mbx c { s.chan c with q := t } }
        let d := s.rf (Reg.mbxChan c) F.mbxChan_domain
        if t = [] ∧ (mget s.icu.woken d).isSome then
          { s with icu.woken := mput s.icu.woken d (some (s.clk + 1000000)) }
        else s

/-- WAKE_HOLD_EXPIRY (R482): the hold of a woken domain ends once its 1 ms has passed; the power manager may then switch
it off, which is a request of its own. -/
def execWakeHoldExpiry (d : Nat) (s : State) : Res :=
  .next <|
    match mget s.icu.woken d with
    | some (some t) => if t ≤ s.clk then { s with icu.woken := mdel s.icu.woken d } else s
    | _ => s

/-- Whether something in a mailbox channel with its source asserted is seen: `VALID` (Table 20-2). -/
def State.mbxValid (s : State) (c : Nat) : Bool := !(s.chan c).q.isEmpty

/-- Log rings whose suppression records are due (R532). -/
def State.suppDue (s : State) : Bool := s.mon.supp.any fun e => decide (e.2.count ≠ 0)

/-- Whether the records of a ring index register are not all consumed. -/
def State.ringHas (s : State) (k : Nat) : Bool :=
  fld (s.rd k) 63 32 != fld (s.rd k) 31 0

/-- The condition of the level sources that the spec defines (Table 20-2, R532); none for a source whose condition lies
outside the block. -/
def State.levelCond (s : State) (i : Nat) : Option Bool :=
  if 0x50 ≤ i ∧ i < 0x58 then
    some (s.on (Reg.hifPortStatus ((i - 0x50) / 2))
      (if (i - 0x50) % 2 = 0 then F.hifPortStatus_down0 else F.hifPortStatus_down1) && s.pd (80 + (i - 0x50) / 2) = 2)
  else if i = 0x60 then some (s.on Reg.timStatus F.timStatus_lock_chg)
  else if i = 0x68 then some (!s.mon.alarmQ.isEmpty)
  else if i = 0x69 then some (s.rf Reg.monAlarmStat F.monAlarmStat_lost != 0)
  else if i = 0x6A then some (s.ringHas (Reg.monLogIdx 0) && s.pd 94 = 2)
  else if i = 0x6B then some (s.suppDue && s.pd 94 = 2)
  else if i = 0x6C then some (s.ringHas Reg.monTraceIdx && s.pd 94 = 2)
  else if i = 0x70 then some (s.on Reg.pwrStatus F.pwrStatus_chg)
  else if 0x100 ≤ i ∧ i < 0x300 then some (s.mbxValid (i - 0x100))
  else if i < 0x400 then some false
  else none

/-- EDGE_SOURCE_EVENT (R483, R485): an edge of an edge-triggered source. -/
def execEdgeSourceEvent (i : Nat) (s : State) : Res :=
  .next (if i < 4096 ∧ s.on (Reg.icuSrc i) F.icuSrc_trig then s.edge i else s)

/-- LEVEL_SOURCE_CHANGE (R483): a level source rises or falls; where the condition is one the block holds, the source
takes it as it is. -/
def execLevelSourceChange (i : Nat) (up : Bool) (s : State) : Res :=
  .next <|
    if 4096 ≤ i ∨ s.on (Reg.icuSrc i) F.icuSrc_trig then s
    else s.level i ((s.levelCond i).getD up)

/-- Sources that target t may claim (R486): pending, enabled, routed to core t, above the threshold. -/
def State.eligible (s : State) (t : Nat) : List Nat :=
  (s.regs.filter fun e =>
    decide (Reg.icuSrc 0 ≤ e.1) && decide (e.1 < Reg.icuSrc 4096) &&
    fld e.2 61 61 = 1 && fld e.2 63 63 = 1 && fld e.2 50 50 = 0 && decide (fld e.2 49 48 = t) &&
    decide (s.rf (Reg.icuThresh t) F.icuThresh_thresh < fld e.2 55 52)).map fun e => (e.1 - Reg.icuSrc 0) / 8

/-- What orders sources at a claim: priority, then active-and-pending ones first, then the lowest number (R487, Table
20-3). -/
def State.claimKey (s : State) (i : Nat) : Nat :=
  (s.rf (Reg.icuSrc i) F.icuSrc_prio * 2 + b2n (s.icu.active.contains i)) * 4096 + (4095 - i)

/-- The source a claim at target t returns, if any. -/
def State.claimed (s : State) (t : Nat) : Option Nat :=
  (s.eligible t).foldl (fun b i =>
    match b with
    | none => some i
    | some j => if s.claimKey j < s.claimKey i then some i else some j) none

/-- A claim at target t (R487): the word that `ICU_CLAIMt` returns; the source's PEND and latch clear and INSVC sets. -/
def State.icuClaim (s : State) (t : Nat) : State × Nat :=
  match s.claimed t with
  | none => (s, 0)
  | some i =>
    let s := ((s.wf (Reg.icuSrc i) F.icuSrc_pend 0).wf (Reg.icuSrc i) F.icuSrc_latch 0).wf (Reg.icuSrc i) F.icuSrc_insvc 1
    ({ s with icu.active := sdel s.icu.active i }, 2 ^ 63 + i)

/-- ICU_CLAIM (R487): a read of `ICU_CLAIMt`; the source returned is in the answer. -/
def execIcuClaim (m t : Nat) (s : State) : Res :=
  .next <|
    let k := Reg.icuClaim t
    s.sw m k fun s => (s.icuClaim t).1.emit .resp [m, regBase + k, 0] (leBytes 8 (s.icuClaim t).2)

/-- ICU_COMPLETE (R488): a write of `ICU_COMPLETEt` with source i. -/
def execIcuComplete (m t i : Nat) (s : State) : Res :=
  .next <|
    s.sw m (Reg.icuComplete t) fun s =>
      let k := Reg.icuSrc (i % 4096)
      if s.on k F.icuSrc_insvc ∧ s.rf k F.icuSrc_core = t then
        let s := s.wf k F.icuSrc_insvc 0
        let again := if s.on k F.icuSrc_trig then s.on k F.icuSrc_latch
          else s.icu.level.contains (i % 4096) || (s.on Reg.icuCtrl F.icuCtrl_svc_mode && s.icu.active.contains (i % 4096))
        s.wf k F.icuSrc_pend (b2n again)
      else s.wf (Reg.icuThresh t) F.icuThresh_err 1

/-- ICU_SRC_WRITE (R484, R490): a write of `ICU_SRCs`. Mailbox sources keep `HOST`, `CORE` and `FN`, and stay disabled for
a unit receiver; the PF does not write sources from 0x400 on, whose trigger firmware sets; enabling an asserted host
level counts as a rise. -/
def execIcuSrcWrite (m i : Nat) (v : Word) (s : State) : Res :=
  .next <|
    s.sw m (Reg.icuSrc i) fun s =>
      let k := Reg.icuSrc i
      let old := s.rd k
      if 4096 ≤ i ∨ (m = 0 ∧ 0x400 ≤ i) then s
      else
        let w := softWrite false old v
          [F.icuSrc_en, F.icuSrc_prio, F.icuSrc_host, F.icuSrc_core, F.icuSrc_fn, F.icuSrc_vec]
        let w := if 0x400 ≤ i then setFld w 59 59 (fld v 59 59) else w
        let w := if 0x100 ≤ i ∧ i < 0x300 then
            let r := s.mbxReceiver (i - 0x100)
            let w := setFld (setFld (setFld w 50 50 (fld old 50 50)) 49 48 (fld old 49 48)) 42 32 (fld old 42 32)
            if isUnit r then setFld w 63 63 0 else w
          else w
        let s := s.wr k w
        if fld old 63 63 = 0 ∧ fld w 63 63 = 1 ∧ fld w 50 50 = 1 ∧ fld w 59 59 = 0 ∧ s.icu.level.contains i
        then s.hostSource i else s

/-- MSIX_COALESCE_TIMEOUT (R491): `TIME` × 100 ns have passed since the first event not yet sent of a vector. -/
def execMsixCoalesceTimeout (f v : Nat) (s : State) : Res :=
  .next <|
    match (s.msixEnt f v).first with
    | some t =>
      if t + s.rf (coalKey f v) F.icuCoalPf_time * 100 ≤ s.clk ∧ s.rf (coalKey f v) F.icuCoalPf_events ≠ 0
      then s.msixDue f v else s
    | none => s

/-- MSIX_UNMASK (R494): every condition that masked a pending vector has cleared; its message is sent and its pending bit
cleared. -/
def execMsixUnmask (f v : Nat) (s : State) : Res :=
  .next <|
    let e := s.msixEnt f v
    if e.pend ∧ ¬ s.msixMasked f v then
      ({ s with icu.msix := mput s.icu.msix (f * 2048 + v) { e with pend := false } }).emit .msix [f, v, e.addr, e.data]
    else s

end Sys2Proof.Machine
end

