-- ==== Sys2Proof/Machine/Monitors.lean ====
section
/-! DEFINITION. Capture units, the event queue, log and trace rings and the alarm queue (22_monitors.md): the rows
CAPTURE_SAMPLE to ALARM_POP. -/

namespace Sys2Proof.Machine

/-! ### Capture units -/

/-- The floor of the base-2 logarithm, 0 for 0. -/
def log2n (n : Nat) : Nat := Nat.log2 n

/-- The bin of sample v (R523). -/
def captureBin (base v : Int) (shift : Nat) (logBins : Bool) : Nat :=
  let d := v - base
  if d < 0 then 0
  else
    let q := d.toNat / 2 ^ shift
    if logBins then min 31 (1 + log2n (q + 1)) else min 31 (1 + q)

/-- A capture unit emptied (R524). -/
def State.captureEmpty (s : State) (u : Nat) : State :=
  let s := s.wr (Reg.monCapCount u) 0
  let s := s.wr (Reg.monCapSum u) 0
  let s := s.wr (Reg.monCapMin u) (BitVec.ofNat 64 0x7FFFFFFFFFFFFFFF)
  let s := s.wr (Reg.monCapMax u) (BitVec.ofNat 64 0x8000000000000000)
  let s := s.wr (Reg.monCapDropped u) 0
  (List.range 16).foldl (fun t i => t.wr (Reg.monCapBin u i) 0) s

/-- CAPTURE_SAMPLE (R522-R524): unit u takes sample v. -/
def execCaptureSample (u : Nat) (v : Int) (s : State) : Res :=
  .next <|
    let cfg := Reg.monCapCfg u
    let src := s.rf cfg F.monCapCfg_src
    if s.on cfg F.monCapCfg_en ∧ 1 ≤ src ∧ src ≤ 0x0E then
      let v := satS 64 v
      let b := captureBin (sgn 64 (s.rd (Reg.monCapBase u)).toNat) v (s.rf cfg F.monCapCfg_shift) (s.on cfg F.monCapCfg_log)
      let s := s.incF (Reg.monCapCount u) F.monCapCount_count 1
      let s := s.incF (Reg.monCapBin u (b / 2)) (if b % 2 = 0 then F.monCapBin_even else F.monCapBin_odd) 1
      let s := s.wr (Reg.monCapSum u) (BitVec.ofNat 64 (wrap 64 (satS 64 (sgn 64 (s.rd (Reg.monCapSum u)).toNat + v))))
      let s := s.wr (Reg.monCapMin u) (BitVec.ofNat 64 (wrap 64 (min (sgn 64 (s.rd (Reg.monCapMin u)).toNat) v)))
      s.wr (Reg.monCapMax u) (BitVec.ofNat 64 (wrap 64 (max (sgn 64 (s.rd (Reg.monCapMax u)).toNat) v)))
    else s

/-- CAPTURE_CLEAR (R524): a write of a unit's configuration, or of its base; `CLR`, or a change of source or binning,
empties the unit. -/
def execCaptureClear (m u : Nat) (base : Bool) (v : Word) (s : State) : Res :=
  .next <|
    s.sw m (if base then Reg.monCapBase u else Reg.monCapCfg u) fun s =>
      if base then
        let t := s.wr (Reg.monCapBase u) v
        if s.rd (Reg.monCapBase u) = v then t else t.captureEmpty u
      else
        let old := s.rd (Reg.monCapCfg u)
        let w := softWrite false old v [F.monCapCfg_en, F.monCapCfg_autoclr, F.monCapCfg_log, F.monCapCfg_shift,
          F.monCapCfg_sel, F.monCapCfg_src]
        let t := s.wr (Reg.monCapCfg u) w
        if fld v 62 62 = 1 ∨ fld old 60 60 ≠ fld w 60 60 ∨ fld old 59 54 ≠ fld w 59 54 ∨ fld old 47 36 ≠ fld w 47 36 ∨
            fld old 35 28 ≠ fld w 35 28 then t.captureEmpty u
        else t

/-! ### Rings -/

/-- The log2 of a ring's records, clamped to 8-16 (Table 22-5). -/
def ringLog (v : Word) : Nat := max 8 (min 16 (fld v 57 52))

/-- The registers of ring r: the log ring of a function, or, from 2,000, the trace ring. -/
def ringCfg (r : Nat) : Nat := if r < 2000 then Reg.monLog r else Reg.monTrace

@[inherit_doc ringCfg]
def ringIdx (r : Nat) : Nat := if r < 2000 then Reg.monLogIdx r else Reg.monTraceIdx

/-- Records of ring r not consumed. -/
def State.ringUsed (s : State) (r : Nat) : Nat :=
  (fld (s.rd (ringIdx r)) 63 32 + 2 ^ 32 - fld (s.rd (ringIdx r)) 31 0) % 2 ^ 32

/-- Whether a log ring has more than 19 slots free (R529). -/
def State.ringRoom (s : State) (r : Nat) : Bool :=
  decide (s.ringUsed r + 19 < 2 ^ ringLog (s.rd (ringCfg r)))

/-- The four words of a record with its PHASE (Table 22-3). -/
def EvRec.words (e : EvRec) (phase : Nat) : List Nat :=
  [e.time % 2 ^ 64,
   phase * 2 ^ 63 + b2n e.suppr * 2 ^ 62 + e.cls.code * 2 ^ 60 + e.arg2 % 2 ^ 12 * 2 ^ 48 +
     (if e.suppr then 0 else e.code % 2 ^ 16) * 2 ^ 32 + e.count % 2 ^ 32,
   e.block % 256 * 2 ^ 56 + e.inst % 256 * 2 ^ 48 + e.fn % 2 ^ 11 * 2 ^ 32 + e.arg0 % 2 ^ 32,
   e.arg1 % 2 ^ 64]

/-- A record's bytes. -/
def EvRec.bytes (e : EvRec) (phase : Nat) : List Byte := (e.words phase).flatMap (leBytes 8)

/-- A record written at the head of ring r: one 32-byte write, then PROD; a VF ring with `IRQ` raises its vector (R527,
R532). -/
def State.ringWrite (s : State) (r : Nat) (e : EvRec) : State :=
  let cfg := s.rd (ringCfg r)
  let n := 2 ^ ringLog cfg
  let prod := fld (s.rd (ringIdx r)) 63 32
  let s := s.store (fld cfg 39 12 * 4096 + prod % n * 32) (e.bytes ((prod / n + 1) % 2))
  let s := s.wr (ringIdx r) (setFld (s.rd (ringIdx r)) 63 32 ((prod + 1) % 2 ^ 32))
  if 1 ≤ r ∧ r ≤ 1024 ∧ fld cfg 62 62 = 1 then s.msixEvent r (fld cfg 50 40) else s

/-- The suppression record of block b of ring r (R529). -/
def suppRec (r b : Nat) (p : Supp) : EvRec :=
  { time := p.first, cls := if p.fault then .fault else .warning, code := 0, block := b, fn := r, count := p.count,
    suppr := true }

/-- Suppression records due for ring r written, one per block, while the ring has room (R529); each is copied to the LOG
volume whatever its ring (R526). -/
def State.flushSupp (s : State) (r : Nat) : List Nat → State
  | [] => s
  | b :: bs =>
    match mget s.mon.supp (r * 32 + b) with
    | some p =>
      let e := suppRec r b p
      let t := { s.ringWrite r e with mon.supp := mdel (s.ringWrite r e).mon.supp (r * 32 + b) }
      (t.toLog e).flushSupp r bs
    | none => s.flushSupp r bs

/-- Whether ring r has suppression records due. -/
def State.ringDue (s : State) (r : Nat) : Bool := s.mon.supp.any fun e => decide (e.1 / 32 = r) && decide (e.2.count ≠ 0)

/-- The ring's suppression records written if they are due and there is room. -/
def State.settleRing (s : State) (r : Nat) : State :=
  if s.ringDue r ∧ s.ringRoom r then s.flushSupp r (List.range 19) else s

/-- EVENT_QUEUE_DRAIN (R526, R527, R529, R531, R560): the oldest record of the event queue goes to its ring. -/
def execEventQueueDrain (s : State) : Res :=
  .next <|
    match s.mon.evQ with
    | [] => s
    | e :: q =>
      let s := { s with mon.evQ := q }
      if e.cls = .trace then
        if fld (s.rd Reg.monTrace) 63 63 = 1 ∧ s.ringUsed 2000 < 2 ^ ringLog (s.rd Reg.monTrace) then s.ringWrite 2000 e
        else s.incF Reg.monLogStat F.monLogStat_trace_dropped 1
      else
        let r := e.ring
        if fld (s.rd (Reg.monLog r)) 63 63 = 0 then s.incF Reg.monLogNoring F.monLogNoring_count 1
        else
          let s := s.settleRing r
          if s.ringRoom r ∧ ¬ s.ringDue r then s.ringWrite r e else s.suppress r e

/-- LOG_HEAD_WRITE (R529): software writes HEAD of ring f (2,000 the trace ring); suppression records due are written. -/
def execLogHeadWrite (m f : Nat) (v : Word) (s : State) : Res :=
  .next <|
    s.swp m f (ringIdx f) fun s =>
      let s := s.wr (ringIdx f) (setFld (s.rd (ringIdx f)) 31 0 (fld v 31 0))
      if f < 2000 then s.settleRing f else s

/-- LOG_RING_ENABLE (R526, Table 22-5, R77): a write of `MON_LOGf` or `MON_TRACE`. A change of `EN` from 0 to 1 resets PROD
and HEAD. A write that enables a ring not wholly in HBM, a VF's ring not wholly in its partition, or a PF ring that overlaps a
VF partition is refused. -/
def execLogRingEnable (m f : Nat) (v : Word) (s : State) : Res :=
  .next <|
    s.swp m f (ringCfg f) fun s =>
      let old := s.rd (ringCfg f)
      let w := if f < 2000 then softWrite false old v [F.monLog_en, F.monLog_irq, F.monLog_log2, F.monLog_vec, F.monLog_base]
        else softWrite false old v [F.monTrace_en, F.monTrace_log2, F.monTrace_base]
      let lo := fld w 39 12 * 4096
      let hi := lo + 2 ^ ringLog w * 32
      let inVf := s.regs.any fun e => isPartKey e.1 && decide ((partRange e.2).1 < hi) && decide (lo < (partRange e.2).2)
      if fld w 63 63 = 1 ∧ (hbmEnd < hi ∨ (if 1 ≤ f ∧ f ≤ 1024 then lo < (s.part f).1 ∨ (s.part f).2 < hi else inVf)) then
        (s.wf (Reg.vfmFnCtrl 0) F.vfmFnCtrl_err 1).raise .warning 3 1 (fn := 0) (arg0 := f % 2000) (arg1 := regBase + ringCfg f)
      else
        let s := s.wr (ringCfg f) w
        if fld old 63 63 = 0 ∧ fld w 63 63 = 1 then s.wr (ringIdx f) 0 else s

/-- ALARM_POP (R530): the head alarm record is removed. -/
def execAlarmPop (m : Nat) (s : State) : Res :=
  .next (s.sw m Reg.monAlarmStat fun s => { s with mon.alarmQ := s.mon.alarmQ.drop 1 })

end Sys2Proof.Machine
end

