-- ==== Sys2Proof/Machine/WorkQueueOps.lean ====
section
/-! DEFINITION. Work queues and completion queues (05_work_queues.md): what the queue commands and every engine that
completes a work entry share. -/

namespace Sys2Proof.Machine

/-! ### Fields of a work entry (Table 5-2) -/

/-- Word i of an entry. -/
def Ent.w (e : Ent) (i : Nat) : Nat := e.words.getD i 0

/-- Its opcode, and the fields of WRITE and READ. -/
def Ent.op (e : Ent) : Nat := nbits (e.w 7) 55 48

@[inherit_doc Ent.op] def Ent.len (e : Ent) : Nat := nbits (e.w 3) 31 0
@[inherit_doc Ent.op] def Ent.rkey (e : Ent) : Nat := nbits (e.w 3) 63 32
@[inherit_doc Ent.op] def Ent.lkey (e : Ent) : Nat := nbits (e.w 4) 31 0
@[inherit_doc Ent.op] def Ent.notice (e : Ent) : Nat := nbits (e.w 4) 63 32
@[inherit_doc Ent.op] def Ent.qpn (e : Ent) : Nat := nbits (e.w 5) 17 0
@[inherit_doc Ent.op] def Ent.lspace (e : Ent) : Nat := nbits (e.w 7) 33 32
@[inherit_doc Ent.op] def Ent.noticeEn (e : Ent) : Bool := nbit (e.w 7) 37
@[inherit_doc Ent.op] def Ent.suppress (e : Ent) : Bool := nbit (e.w 7) 38
@[inherit_doc Ent.op] def Ent.intr (e : Ent) : Bool := nbit (e.w 7) 39

/-! ### Completion queues -/

/-- The 32 bytes of a completion entry with its PHASE (Table 5-7). -/
def CqEnt.toBytes (e : CqEnt) (phase : Bool) : List Byte :=
  leBytes 8 e.tag ++ leBytes 8 (e.info % 2 ^ 32 * 2 ^ 32 + e.bytes % 2 ^ 32) ++
  leBytes 8 (e.wqn * 2 ^ 48 + e.slot * 2 ^ 32 + e.qpn % 2 ^ 18 * 2 ^ 14) ++
  leBytes 8 (b2n phase * 2 ^ 63 + b2n e.notice * 2 ^ 62 + e.opcode % 256 * 2 ^ 48 + e.status % 256 * 2 ^ 40 + e.srcNode % 2 ^ 16)

/-- Whether a CQ is full: PRODUCED less its cached head is its size (R113). -/
def Cq.isFull (c : Cq) : Bool := decide (2 ^ c.logSize ≤ (c.produced + 2 ^ 32 - c.head) % 2 ^ 32)

/-- The CQ changed. -/
def State.setCq (s : State) (n : Nat) (c : Cq) : State := { s with wqe.cqs := mput s.wqe.cqs n c }

/-- A CQ in Error, with its event: 1 translation fault, 2 link fault (R114). -/
def State.cqError (s : State) (n : Nat) (c : Cq) (why : Nat) : State :=
  (s.setCq n { c with st := .error }).raise .fault 4 4 (fn := c.owner) (arg0 := n + why * 2 ^ 16)

/-- Whether an entry qualifies for the mode a CQ is armed in (R115). -/
def CqEnt.qualifies (e : CqEnt) (mode : Nat) : Bool := decide (mode = 0) || e.intr || decide (e.status ≠ 0) || e.notice

/-- A completion entry or notice written to its CQ, if the CQ takes it: PRODUCED and the write index advance, PHASE
inverts on a wrap, and an armed CQ raises its vector (R110, R111, R113-R115). The Bool says whether it was written. -/
def State.cqWrite (s : State) (n : Nat) (e : CqEnt) : State × Bool :=
  match mget s.wqe.cqs n with
  | none => (s, false)
  | some c =>
    if c.st = .error ∨ c.isFull then (s, false)
    else match s.xlate c.owner c.space (c.base + c.widx * 32) .write true 1 n with
      | (t, .ok x) =>
        let t := (t.put c.owner false [(x, 32)] (e.toBytes c.phase)).closeStreams.observe 0 0x11 (e.toBytes c.phase)
        let wrapd := c.widx + 1 = 2 ^ c.logSize
        let c := { c with produced := (c.produced + 1) % 2 ^ 32, widx := if wrapd then 0 else c.widx + 1,
                          phase := if wrapd then !c.phase else c.phase }
        let fire := match c.armed with | some m => e.qualifies m | none => false
        let t := t.setCq n { c with st := if c.isFull then .full else .normal, armed := if fire then none else c.armed }
        (if fire then (t.msixEvent c.owner c.vector).observe 0 0x12 (leBytes 8 c.owner ++ leBytes 8 c.vector) else t, true)
      | (t, .fault _) => (t.cqError n c 1, false)
      | (t, .down) => (t.cqError n c 2, false)
      | (t, .miss) => (t, false)

/-- Notices in the pool (R113). -/
def State.poolUsed (s : State) : Nat := s.wqe.cqs.foldl (fun a e => a + e.2.held.length) 0

/-- A notice for a CQ (R113, R133): written, or held in the pool, or dropped with its warning. The status is the one the
initiator's completion carries. -/
def State.cqNotice (s : State) (n : Nat) (e : CqEnt) : State × Nat :=
  match mget s.wqe.cqs n with
  | none => (s.raise .warning 4 3 (arg0 := n), 0x23)
  | some c =>
    let r := if c.held = [] then s.cqWrite n e else (s, false)
    if r.2 then (r.1, 0)
    else
      let c := (mget r.1.wqe.cqs n).getD c
      if c.held.length < 8 ∧ r.1.poolUsed < 4096 then (r.1.setCq n { c with held := c.held ++ [e] }, 0)
      else (r.1.raise .warning 4 3 (fn := c.owner) (arg0 := n), 0x23)

/-! ### Retiring entries -/

/-- The WQ changed. -/
def State.setWq (s : State) (w : Nat) (q : Wq) : State := { s with wqe.wqs := mput s.wqe.wqs w q }

/-- The completion entry of a finished work entry (Table 5-7). -/
def Ent.completion (e : Ent) (w : Nat) : CqEnt :=
  { tag := e.w 0, info := e.info, bytes := e.bytes, wqn := w, slot := e.slot,
    qpn := if e.op = 1 ∨ e.op = 2 then e.qpn else 0, opcode := e.op, status := e.status, intr := e.intr }

/-- A command of the WQE block ends: `GO` clears and `STATUS` shows. -/
def State.wqeEnd (s : State) (f st : Nat) : State :=
  (s.wf (Reg.wqeCmd f) F.wqeCmd_go 0).wf (Reg.wqeCmd f) F.wqeCmd_status st

/-- A Draining WQ with no entry left becomes Disabled: FIRST_FAIL clears, and a DISABLE_WQ that waits completes (R106,
R109, R137, R138). -/
def State.wqDrained (s : State) (w : Nat) : State :=
  match mget s.wqe.wqs w with
  | some q =>
    if q.st = .draining ∧ q.ents = [] then
      let s := s.setWq w { q with st := .disabled, firstFail := none, flushing := false, disCmd := false, granted := 0 }
      if q.disCmd then s.wqeEnd q.owner 0 else s
    else s
  | none => s

/-- The finished entries at the head of a WQ retired in ring order: each completion entry written where one is due (R111),
COMPLETED and FIRST_FAIL counted (R136, R137). Stops at the first entry that is not finished or cannot be written. -/
def State.retire (s : State) (w : Nat) : Nat → State
  | 0 => s.wqDrained w
  | n + 1 =>
    match mget s.wqe.wqs w with
    | none => s
    | some q =>
      match q.ents with
      | [] => s.wqDrained w
      | e :: es =>
        if e.st ≠ .done ∨ e.flush ≠ [] then s
        else match e.note with
        | some (c, x) =>
          let r := s.cqNotice c x
          (match mget r.1.wqe.wqs w with
            | some q => r.1.setWq w { q with ents := { e with note := none, status := if e.status = 0 then r.2 else e.status } :: es }
            | none => r.1).retire w n
        | none =>
          let pop (t : State) : State :=
            match mget t.wqe.wqs w with
            | some q =>
              t.setWq w { q with ents := es, completed := q.completed + 1,
                                 firstFail := if e.status ≠ 0 then some (q.firstFail.getD q.completed) else q.firstFail }
            | none => t
          if e.status = 0 ∧ e.suppress then (pop s).retire w n
          else match s.cqWrite q.cqn (e.completion w) with
            | (t, true) => (pop t).retire w n
            | (t, false) => t

/-- An entry of a WQ changed by f. -/
def State.updEnt (s : State) (w slot : Nat) (f : Ent → Ent) : State :=
  match mget s.wqe.wqs w with
  | some q => s.setWq w { q with ents := q.ents.map fun e => if e.slot = slot ∧ e.st ≠ .done then f e else e }
  | none => s

/-- An entry finishes with a status; its WQ retires what it can. At most 64 entries are in flight, each
retired after its notice. -/
def State.finish (s : State) (w slot st : Nat) : State :=
  (s.updEnt w slot fun e => { e with st := .done, status := st }).retire w 128

/-- The entry, if it is still in flight. -/
def State.ent? (s : State) (w slot : Nat) : Option Ent :=
  match mget s.wqe.wqs w with
  | some q => q.ents.find? fun e => decide (e.slot = slot)
  | none => none

/-- A step of an entry fails on the local side: no more steps start, and the entry completes with the status once the
steps already started are final (R121). -/
def State.failEnt (s : State) (w slot st : Nat) : State :=
  match s.ent? w slot with
  | some e =>
    if e.open_ = 0 then s.finish w slot st
    else s.updEnt w slot fun e => { e with status := st, allSent := true }
  | none => s

/-- The notices a CQ holds in the pool written while it takes them, oldest first. -/
def State.cqNotices (s : State) (n : Nat) : Nat → State
  | 0 => s
  | fuel + 1 =>
    match mget s.wqe.cqs n with
    | some c =>
      match c.held with
      | [] => s
      | e :: es =>
        match s.cqWrite n e with
        | (t, true) =>
          (match mget t.wqe.cqs n with | some d => t.setCq n { d with held := es } | none => t).cqNotices n fuel
        | (t, false) => t
    | none => s

/-- Completions and notices that a CQ can take again: its notices first, then the WQs that name it, in number order
(R113, R114). -/
def State.cqRelease (s : State) (n : Nat) : State :=
  let s := s.cqNotices n 8
  (s.wqe.wqs.filter fun e => decide (e.2.cqn = n)).foldl (fun t e => t.retire e.1 128) s

/-- A WQ stopped by a ring fault: 1 translation, 2 link (R108). -/
def State.wqStop (s : State) (w why : Nat) : State :=
  match mget s.wqe.wqs w with
  | some q =>
    if q.st = .enabled then
      ({ s.setWq w { q with st := .stopped, stopReason := why, polling := false } with
          wqe.due := (s.setWq w { q with st := .stopped, stopReason := why, polling := false }).wqe.due.filter (· ≠ w) }).raise
        .fault 4 2 (fn := q.owner) (arg0 := w + why * 2 ^ 16)
    else s
  | none => s

/-- The entry whose next step is to start: the oldest with steps left (R104, R136, R47). -/
def Wq.cur (q : Wq) : Option Ent := q.ents.find? fun e => decide (e.st ≠ .done) && !e.allSent

/-- Whether the entries of a WQ may start (R106). -/
def State.wqRuns (s : State) (q : Wq) : Bool := decide (q.st = .enabled) && s.fnEn q.owner && !s.cpf.halted

/-- The entry that is to start next in WQ w, when its queue may start it and it has the given opcode. -/
def State.nextEnt (s : State) (w op : Nat) : Option (Wq × Ent) :=
  match mget s.wqe.wqs w with
  | some q =>
    if s.wqRuns q then
      match q.cur with
      | some e => if e.op = op then some (q, e) else none
      | none => none
    else none
  | none => none

/-! ### Checking fetched entries (R103) -/

/-- The reserved bits of word i for an opcode, LENGTH apart (Tables 5-2, 5-3). Words 3 to 6 of COLL have a table of their
own (R371). -/
def entReserved (op i : Nat) : Nat :=
  let all := 2 ^ 64 - 1
  let w7 := 127 * 2 ^ 56 + 255 * 2 ^ 40 + 7 * 2 ^ 34 + (2 ^ 32 - 1)
  let rw := op = 1 ∨ op = 2
  match i with
  | 0 => 0
  | 1 => if rw ∨ op = 8 then 0 else all
  | 2 => if rw then 0 else if op = 8 then all - (2 ^ 16 - 1) else all
  | 3 => if rw then 0 else all - (2 ^ 32 - 1)
  | 4 => if rw then 0 else if op = 8 then 2 ^ 32 - 1 else all
  | 5 => if rw then all - (2 ^ 18 - 1) else all
  | 6 => all
  | _ => w7

/-- The words, as a mask, that hold a reserved bit set to 1. -/
def entMask (op : Nat) (ws : List Nat) : Nat :=
  (List.range 8).foldl (fun m i => if Nat.land (ws.getD i 0) (entReserved op i) ≠ 0 then m + 2 ^ i else m) 0

/-- The words of a COLL entry, as a mask, that hold a reserved bit set to 1; `LSPACE` is reserved (R371). -/
def collMask (ws : List Nat) : Nat :=
  collReserved ws + (if Nat.land (ws.getD 7 0) (entReserved 0x10 7 + 3 * 2 ^ 32) ≠ 0 ∨ nbit (ws.getD 7 0) 37 then 0x80 else 0)

/-- Whether function f owns QP number n: inside its range, or, for the PF, in no VF's range (R76). -/
def State.ownsQpn (s : State) (f n : Nat) : Bool :=
  let inR : Word → Bool := fun v => decide (fld v 11 0 * 64 ≤ n) && decide (n < (fld v 11 0 + fld v 24 12) * 64)
  if f = 0 then
    decide (n < 2 ^ 18) && !s.regs.any fun e =>
      decide (Reg.vfmFnQp 1 ≤ e.1) && decide (e.1 ≤ Reg.vfmFnQp 1024) && decide ((e.1 - Reg.vfmFnQp 0) % 64 = 0) && inR e.2
  else inR (s.rd (Reg.vfmFnQp f))

/-- The first check of Table 5-4 that an entry fails: its status and word mask; COLL passes on to the collective
engine. -/
def State.entCheck (s : State) (f w : Nat) (ws : List Nat) : Option (Nat × Nat) :=
  let e : Ent := { slot := 0, words := ws }
  let rw := e.op = 1 ∨ e.op = 2
  if ¬ (rw ∨ e.op = 0 ∨ e.op = 8 ∨ e.op = 9 ∨ e.op = 0x10) then some (0x20, 0x80)
  else if e.op = 0x10 then (if collMask ws ≠ 0 then some (0x01, collMask ws) else none)
  else
    let m := entMask e.op ws
    let m := if e.noticeEn ∧ e.op ≠ 1 then Nat.lor m 0x80 else m
    let over1 := rw ∧ 2 ^ 64 < e.w 1 + e.len
    let over2 := rw ∧ 2 ^ 64 < e.w 2 + e.len
    if m ≠ 0 then some (0x01, m)
    else if ¬ rw ∧ e.len ≠ 0 then some (0x02, 8)
    else if over1 ∨ over2 then some (0x02, 8 + (if over1 then 2 else 0) + (if over2 then 4 else 0))
    else if rw ∧ ¬ s.ownsQpn f e.qpn then some (0x21, 0x20)
    else if e.op = 8 ∧ (e.w 2 = w ∨ (mget s.wqe.wqs (e.w 2)).map (·.owner) ≠ some f) then some (0x22, 4)
    else none

end Sys2Proof.Machine
end

