-- ==== Sys2Proof/Machine/QpOps.lean ====
section
/-! DEFINITION. Queue pairs (06_remote_memory.md) and the packets they send (07_transport.md): what the queue-pair
commands, the arriving packets and the timers share. -/

namespace Sys2Proof.Machine

/-- This module's node ID and incarnation. -/
def State.node (s : State) : Nat := s.rf Reg.fabCtrl F.fabCtrl_node_id

@[inherit_doc State.node]
def State.inc (s : State) : Nat := s.rf Reg.topInc F.topInc_inc

/-- The QP changed. -/
def State.setQp (s : State) (n : Nat) (q : Qp) : State := { s with qpe.qps := mput s.qpe.qps n q }

/-- A command of the QPE block ends. -/
def State.qpeEnd (s : State) (f st : Nat) : State :=
  (s.wf (Reg.qpeCmd f) F.qpeCmd_go 0).wf (Reg.qpeCmd f) F.qpeCmd_status st

/-- How far PSN b lies after PSN a, modulo 2^24 (R155). -/
def psnDist (a b : Nat) : Nat := (b + 2 ^ 24 - a) % 2 ^ 24

/-- Whether PSN a is before PSN b (R155). -/
def psnBefore (a b : Nat) : Bool := decide (a ≠ b) && decide (psnDist a b < 2 ^ 23)

/-- A packet of QP n to its peer (Table 7-2). -/
def State.qpPkt (s : State) (n : Nat) (q : Qp) (type psn : Nat) : Packet :=
  { dstNode := q.rnode, dstQpn := q.rqpn, srcNode := s.node, srcQpn := n, tc := q.tc, type := type, psn := psn,
    enc := q.saEn, srcInc := s.inc, dstInc := q.peerInc }

/-! ### Acknowledgement by a receiver -/

/-- The point no acknowledgement passes (R159): the first DATA with LAST whose WRITE is not yet visible, or EPSN. -/
def Qp.ackPoint (q : Qp) : Nat :=
  q.rx.foldl (fun c r => if r.kind = .data ∧ r.last ∧ ¬ r.visible ∧ r.refused = 0 ∧ psnBefore r.psn c then r.psn else c)
    q.epsn

/-- Whether the SACK bitmap may show PSN p: recorded, and before every invisible LAST (R158, R159). -/
def Qp.sackShows (q : Qp) (p : Nat) : Bool :=
  q.rx.any (fun r => decide (r.psn = p)) &&
    !q.rx.any fun r => r.kind = .data && r.last && !r.visible && decide (r.refused = 0) &&
      (decide (r.psn = p) || psnBefore r.psn p)

/-- The oldest refusal to report: one that no ACK sent so far has passed (R160). -/
def Qp.refusal (q : Qp) : Option RxRec :=
  q.rx.foldl (fun b r =>
    if r.refused ≠ 0 ∧ ¬ psnBefore r.psn q.lastCum then
      match b with
      | none => some r
      | some x => if psnBefore r.psn x.psn then some r else some x
    else b) none

/-- The ACK that QP n sends now (Table 7-3, R158-R160); one that still waits is overtaken (R187). -/
def State.ackNow (s : State) (n : Nat) (q : Qp) : State :=
  let cum := q.ackPoint
  let sack := (List.range 64).foldl (fun m i => if q.sackShows ((cum + 1 + i) % 2 ^ 24) then m + 2 ^ i else m) 0
  let arg := match q.refusal with | some r => r.refused * 2 ^ 24 + r.psn | none => 0
  let p := { s.qpPkt n q 5 cum with argA := arg, argB := sack }
  s.setQp n { q with ctl := (q.ctl.filter fun x => x.type ≠ 5) ++ [p], ackDue := 0, ackSince := none, lastCum := cum }

/-! ### Entries and transactions -/

/-- The entries of every WQ that name QP n and are not finished. -/
def State.qpEnts (s : State) (n : Nat) : List (Nat × Nat) :=
  s.wqe.wqs.flatMap fun e =>
    (e.2.ents.filter fun x => decide ((x.op = 1 ∨ x.op = 2) ∧ x.qpn = n ∧ x.st ≠ .done)).map fun x => (e.1, x.slot)

/-- The entries finished with a status. -/
def State.finishAll (s : State) (st : Nat) (l : List (Nat × Nat)) : State :=
  l.foldl (fun t e => t.finish e.1 e.2 st) s

/-- Every transaction of QP n ends: nothing is outstanding, nothing waits for release (R129, R131). -/
def State.dropTx (s : State) (n : Nat) : State :=
  match mget s.qpe.qps n with
  | some q =>
    { s.setQp n { q with una := [], reads := [], txq := [], retry := 0 } with
        qpe.trk := s.qpe.trk.filter fun t => t.qp ≠ n }
  | none => s

/-- The statuses that move a QP to Error (R131). -/
def qpErrorStatus (st : Nat) : Bool :=
  [0x04, 0x05, 0x06, 0x07, 0x08, 0x09, 0x0C, 0x0E, 0x0F, 0x10, 0x11, 0x33].contains st

/-- QP n moves to Error with a status (R131): its entries complete with `flush`, it sends one abort, and the warning is
raised; an ARM_QP that waits completes with the status (R128). -/
def State.qpError (s : State) (n st : Nat) (flush : Nat := 0x0B) : State :=
  match mget s.qpe.qps n with
  | none => s
  | some q =>
    if q.st = .error ∨ q.st = .retired ∨ q.st = .idle then s
    else
      let s := s.dropTx n
      let q1 := (mget s.qpe.qps n).getD q
      let s := s.setQp n { q1 with
        st := .error, lastStatus := st, cmd := none
        ctl := q1.ctl ++ [{ s.qpPkt n q1 0xB 0 with argA := st }] }
      let s := if q.cmd = some .arm then s.qpeEnd q.owner st else s
      let s := s.finishAll flush (s.qpEnts n)
      s.raise .warning 5 4 (fn := q.owner) (arg0 := n + st * 2 ^ 24)

/-- A transaction taken in the tracking table (R139). -/
def State.track (s : State) (t : Trk) : State := { s with qpe.trk := s.qpe.trk ++ [t] }

/-- Transactions a function may hold (R139, Table 6-4). -/
def State.trkMax (s : State) (f : Nat) : Nat := max 1 (min 512 (s.rf (Reg.qpeFnTrk f) F.qpeFnTrk_max)) * 1024

/-- Transactions a function holds. -/
def State.trkHeld (s : State) (f : Nat) : Nat := (s.qpe.trk.filter fun t => t.fn = f).length

/-- The reservations of other functions that they do not use (R140). -/
def State.trkReserved (s : State) (f : Nat) : Nat :=
  s.regs.foldl (fun a e =>
    if Reg.qpeFnTrk 0 ≤ e.1 ∧ e.1 ≤ Reg.qpeFnTrk 1024 ∧ e.1 % 8 = 0 ∧ e.1 ≠ Reg.qpeFnTrk f then
      a + (fld e.2 9 0 * 1024 - s.trkHeld ((e.1 - Reg.qpeFnTrk 0) / 8))
    else a) 0

/-- Whether a step of QP n may take an entry of the tracking table (R139, R140). -/
def State.trkFree (s : State) (n : Nat) (q : Qp) : Bool :=
  decide ((s.qpe.trk.filter fun t => t.qp = n).length < (if q.maxOut = 0 then 1024 else q.maxOut)) &&
  decide (s.trkHeld q.owner < s.trkMax q.owner) &&
  (decide (s.trkHeld q.owner < s.rf (Reg.qpeFnTrk q.owner) F.qpeFnTrk_res * 1024) ||
   decide (s.qpe.trk.length + s.trkReserved q.owner < 524288))

/-- The links behind which an entry's data was written that its completion must flush (R45): all but the link of its
CQ's ring. -/
def State.flushLinks (s : State) (w : Nat) (e : Ent) : List Dest :=
  match mget s.wqe.wqs w with
  | none => []
  | some q =>
    let own := match mget s.wqe.cqs q.cqn with
      | some c => if c.space = 1 then some (0, 0) else if c.space = 2 then (s.peerRegion c.owner c.base).map (fun r => (r.port, r.half)) else none
      | none => none
    (s.hif.dests.filter fun d => decide (d.wqn = w) && decide (some (d.port, d.half) ≠ own) && decide (e.op = 2 ∨ e.op = 1 ∨ e.op = 0x10))

/-- A flush read issued for someone (R45-R47); on a half that is down it is not issued, and fails (R53). -/
def State.flushRead (s : State) (d : Dest) (who : FlushFor) : State :=
  let t : State := { s with hif.flushes := s.hif.flushes ++ [Flush.mk s.hif.flushId d.port d.half d.addr who],
                            hif.flushId := s.hif.flushId + 1 }
  if s.linkUp d.port d.half then t.emit .tlpRead [d.port, d.half, 0, d.addr, 0] else t

/-- Flush reads issued for an entry, one per destination. -/
def State.flushEnt (s : State) (w slot : Nat) : List Dest → State
  | [] => s
  | d :: ds =>
    ((s.updEnt w slot fun e => { e with flush := sins e.flush s.hif.flushId }).flushRead d (.entry w slot)).flushEnt w slot ds

/-- An entry whose steps are all final completes, after the flush reads its data needs (R45, R132, R134). -/
def State.settle (s : State) (w slot : Nat) : State :=
  match s.ent? w slot with
  | some e =>
    if e.allSent ∧ e.open_ = 0 ∧ e.st ≠ .done then
      let ds := s.flushLinks w e
      let s := s.flushEnt w slot ds
      let s := { s with hif.dests := s.hif.dests.filter fun d => ¬ ds.contains d }
      s.finish w slot e.status
    else s
  | none => s

/-- A transaction's part of its entry is final (R139): the entry may complete. -/
def State.transEnd (s : State) (w slot step : Nat) : State :=
  if s.qpe.trk.any fun t => decide (t.wqn = w) && decide (t.slot = slot) && decide (t.step = step) then
    let s := { s with qpe.trk := s.qpe.trk.filter fun t => ¬ (t.wqn = w ∧ t.slot = slot ∧ t.step = step) }
    (s.updEnt w slot fun e => { e with open_ := e.open_ - 1 }).settle w slot
  else s

/-- Packets of an entry that stay in flight after it has completed: they belong to no entry any more. -/
def Qp.detach (q : Qp) (w slot : Nat) : Qp :=
  { q with una := q.una.map fun x => if x.wqn = w ∧ x.slot = slot then { x with wqn := 0x10000 } else x,
           reads := q.reads.filter fun r => ¬ (r.wqn = w ∧ r.slot = slot) }

/-! ### Regions and checks at the target -/

/-- The region a key names, whatever its generation. -/
def State.region (s : State) (key : Nat) : Option Region := mget s.qpe.regions (key / 256)

/-- Whether QP n is bound to a collective group's ring or to a proof job, so that the engine alone sends on it and takes its
notices (R368, R425). -/
def State.engineQp (s : State) (n : Nat) : Bool :=
  s.col.groups.any (fun e => e.2.rings.any fun r => decide (r.2.next = n) || decide (r.2.prev = n)) ||
    s.prf.jobs.any (fun e => e.2.qps.any fun q => decide (q.2.1 = n))

/-- The plate memories that n bytes at an offset of a staging region lie in (R369): plates, `STAGE_OFF`, bytes per plate. -/
def stagePieces (ps : List Nat) (o a : Nat) : Nat → Nat → Nat → List (Tgt × Nat)
  | 0, _, _ => []
  | fuel + 1, off, n =>
    if n = 0 ∨ a = 0 then []
    else
      let k := min n (a - off % a)
      (.dpa (0x4000000000 + ps.getD (off / a) 0 * 0x1000000 + o + off % a), k) :: stagePieces ps o a fuel (off + k) (n - k)

/-- What the checks 4 to 9 of Table 6-2 answer: the status of a refusal, the pieces of the range, or that it waits. -/
inductive RChk where
  | ok (l : List (Tgt × Nat))
  | refuse (st : Nat)
  | wait
  deriving DecidableEq, Repr

/-- The report of a violation (R142). -/
def State.violation (s : State) (tq : Qp) (reason idx off : Nat) (p : Packet) : State :=
  s.aggregate .remoteViolation tq.owner reason (p.srcQpn + idx % 2 ^ 12 * 2 ^ 18) (off % 2 ^ 48 + p.srcNode * 2 ^ 48)
    (idx / 2 ^ 12)

/-- Checks 4 to 9 of Table 6-2 on n bytes at an offset of a region, for a packet of the QP tq numbered tn. -/
def State.remoteCheck (s : State) (tn : Nat) (tq : Qp) (p : Packet) (key off n : Nat) (wr : Bool) : State × RChk :=
  let idx := key / 256
  match s.region key with
  | none => (s.violation tq 0 idx off p, .refuse 0x05)
  | some r =>
    if r.lastOwner ≠ tq.owner then (s.violation tq 1 idx off p, .refuse 0x05)
    else if r.owner = none ∨ r.gen ≠ key % 256 then
      (s.aggregate (if wr then .revokedWrite else .revokedRead) r.lastOwner 0 idx (p.srcNode + p.srcQpn * 2 ^ 16) 0, .refuse 0x06)
    else if ¬ (if wr then r.remoteW else r.remoteR) then (s.violation tq 2 idx off p, .refuse 0x05)
    else if r.len < off + n then (s.violation tq 3 idx off p, .refuse 0x05)
    else if let some (ps, o, a) := r.stage then (s, .ok (stagePieces ps o a 2 off n))
    else
      match s.xlRange tq.owner r.space (if wr then .write else .read) false 2 tn (xlFuel n) (r.base + off) n with
      | (t, .ok l) => (t, .ok l)
      | (t, .fault _) => (t, .refuse 0x04)
      | (t, .down) => (t, .refuse 0x0C)
      | (t, .miss) => (t, .wait)

/-- Whether a local key fails for a range of an entry (R121). -/
def State.localKeyBad (s : State) (f key sp a n : Nat) (wr : Bool) : Bool :=
  match s.region key with
  | none => true
  | some r => decide (r.owner ≠ some f) || decide (r.gen ≠ key % 256) || decide (r.use ≠ .app) || decide (r.space ≠ sp) || decide (a < r.base) ||
      decide (r.base + r.len < a + n) || (wr && !r.localW)

/-- Destinations behind links written for a queue, kept for its next FENCE or flushing completion (R45-R47): the peer's
probe address, or the host flush address. -/
def State.noteDests (s : State) (w f : Nat) : List (Tgt × Nat) → State
  | [] => s
  | (.dpa _, _) :: l => s.noteDests w f l
  | (.bus p h a, _) :: l =>
    let addr := match s.qpe.regions.find? (fun e => e.2.owner = some f && decide (e.2.space = 2) && decide (e.2.base ≤ a) &&
        decide (a < e.2.base + e.2.len) && decide (e.2.port = p) && decide (e.2.half = h)) with
      | some e => e.2.probe
      | none => s.rf Reg.hifHostFlush F.hifHostFlush_addr * 8
    let d : Dest := ⟨w, p, h, addr⟩
    (if s.hif.dests.contains d then s else { s with hif.dests := s.hif.dests ++ [d] }).noteDests w f l

end Sys2Proof.Machine
end

