-- ==== Sys2Proof/Machine/FabricOps.lean ====
section
/-! DEFINITION. The router (08_amholt_fabric.md): cells, credits, FIFOs, drops, route lookup and injection. -/

namespace Sys2Proof.Machine

/-! ### Links and cells -/

/-- The link of quad n. -/
def State.link (s : State) (n : Nat) : FabLink := (mget s.fab.links n).getD {}

/-- The link changed. -/
def State.setLink (s : State) (n : Nat) (l : FabLink) : State := { s with fab.links := mput s.fab.links n l }

/-- The stage of a link (Table 8-6), coded as `LSTATE`. -/
def State.lstate (s : State) (n : Nat) : Nat := s.rf (Reg.fabPortStatus n) F.fabPortStatus_lstate

/-- The timebase in 2^-16 ns. -/
def State.now80 (s : State) : Nat := s.time * 2 ^ 16 + s.frac / 2 ^ 16

/-- Whether the timebase is in lock. -/
def State.tlock (s : State) : Bool := s.on Reg.timStatus F.timStatus_lock

/-- A cell with its CRC (R175). -/
def withCrc (b : List Byte) : List Byte := b ++ leBytes 4 (crc32 (nats b))

/-- Whether a cell is good: 128 bytes, CRC right, KIND valid (R175). -/
def cellGood (c : List Byte) : Bool :=
  decide (c.length = 128) && decide (c.drop 124 = leBytes 4 (crc32 (nats (c.take 124)))) && decide (nbits (beNat (c.take 4)) 31 30 ≠ 0)

/-- The field of n bytes at byte a of a cell, most significant byte first. -/
def cfld (c : List Byte) (a n : Nat) : Nat := beNat ((c.drop a).take n)

/-- One more at index i. -/
def bump (l : List Nat) (i k : Nat) : List Nat := l.set i (l.getD i 0 + k)

/-- A data cell sent on quad n, kept for resending (Table 8-2, R181). -/
def State.sendCell (s : State) (n vc : Nat) (poison : Bool) (d : List Byte) : State :=
  let l := s.link n
  let b := withCrc (beBytes 4 (2 ^ 30 + l.seq * 2 ^ 18 + l.exp * 2 ^ 6 + b2n poison) ++ (d ++ List.replicate 120 0).take 120)
  (s.setLink n { l with seq := (l.seq + 1) % 4096, retry := l.retry ++ [b], sent := bump l.sent vc 1,
                        ackedAt := if l.retry = [] then s.clk else l.ackedAt }).emit .cell [n] b

/-- A control cell sent on quad n (Table 8-3). -/
def State.sendCtl (s : State) (n : Nat) (nak : Bool) : State :=
  let l := s.link n
  s.emit .ctl [n] (withCrc (beBytes 4 (2 ^ 31 + l.exp * 2 ^ 18 + b2n nak * 2 ^ 17) ++ l.freed.flatMap (fun c => beBytes 2 c) ++
    beBytes 10 s.now80 ++ beBytes 10 l.echo ++ beBytes 10 l.echoRx ++ beBytes 2 s.node ++ beBytes 2 s.inc ++
    beBytes 1 (b2n s.tlock * 128 + n) ++ List.replicate 69 0))

/-- A training cell sent on quad n, of stage 1 (ID) or 2 (CONFIRM) (Table 8-4, R179). -/
def State.sendTrain (s : State) (n stage : Nat) : State :=
  let l := s.link n
  s.emit .ctl [n] (withCrc (beBytes 4 (3 * 2 ^ 30 + stage * 2 ^ 28 + 2 ^ 24 + b2n l.peerSeen * 2 ^ 23) ++ beBytes 2 s.node ++
    beBytes 2 s.inc ++ beBytes 1 n ++ [0] ++ beBytes 2 l.peerNode ++ beBytes 1 l.peerPort ++ [0] ++ beBytes 2 2048 ++
    beBytes 1 36 ++ beBytes 1 20 ++ beBytes 2 0 ++ beBytes 10 s.now80 ++ beBytes 10 l.echo ++ beBytes 10 l.echoRx ++
    List.replicate 74 0))

/-- Cells of a packet in a FIFO of quad n given back (R183). -/
def State.freeCells (s : State) (key k : Nat) (credit : Bool) : State :=
  if key / 8 = 12 ∨ ¬ credit then s
  else
    let l := s.link (key / 8)
    s.setLink (key / 8) { l with
      freed := l.freed.set (key % 8) ((l.freed.getD (key % 8) 0 + k) % 2 ^ 16)
      held := l.held.set (key % 8) (l.held.getD (key % 8) 0 - k) }

/-! ### FIFOs and drops -/

/-- A FIFO. -/
def State.fifo (s : State) (key : Nat) : List FPkt := (mget s.fab.bufs key).getD []

/-- The FIFO changed; a new head starts its wait now. -/
def State.setFifo (s : State) (key : Nat) (l : List FPkt) (newHead : Bool) : State :=
  let s := { s with fab.bufs := if l = [] then mdel s.fab.bufs key else mput s.fab.bufs key l }
  if newHead then { s with fab.headAt := mput s.fab.headAt key s.clk, fab.stalled := sdel s.fab.stalled key } else s

/-- A packet dropped for a reason of `FAB_DROP` (R204); EV_HOP_LIMIT is counted over 1 ms (R192). -/
def State.fabDrop (s : State) (r port : Nat) (p : Packet) : State :=
  let s := s.incF (Reg.fabDrop r) F.fabDrop_count 1
  if r = 1 then s.aggregate .hopLimit 0x7FF port (p.dstNode + p.st * 2 ^ 16) 0 0
  else
    let n := (mget s.fab.drops r).getD 0 + 1
    let k := (7 * 256 + 5) * 2 ^ 32 + r
    let due := match mget s.mon.limited k with | some t => decide (t + 1000000 ≤ s.clk) | none => true
    if due then
      let s := { s with fab.drops := mdel s.fab.drops r, mon.limited := mput s.mon.limited k s.clk }
      s.raise .warning 7 5 (arg0 := r) (count := n)
    else { s with fab.drops := mput s.fab.drops r n }

/-- Whether all of a packet has been received. -/
def FPkt.whole (p : FPkt) : Bool := decide (p.total ≤ p.data.length)

/-- The packet's bytes. -/
def FPkt.bytes (p : FPkt) : List Byte := p.data.flatten

/-- A packet for this module handed to the transport engine, or, poisoned, dropped (R186, R201); a follower's own links are no
source of input (R403). -/
def State.eject (s : State) (port : Nat) (p : FPkt) : State :=
  if p.poison then s.fabDrop 7 port p.hdr
  else if s.follows then s
  else (s.cpfNote port 0x04 p.bytes).emit .rx [0, port] (pkt := some (pktOf p.bytes))

/-- The injection state. -/
def State.injState (s : State) : Nat := s.rf Reg.fabCtrl F.fabCtrl_inj_state

/-- What is done at the head of a FIFO leaves it: packets sent, ejected or dropped whole; after a drain, packets of the
old state that have not started are dropped (R194). -/
def State.fifoAdvance (s : State) (key : Nat) : Nat → State
  | 0 => s
  | n + 1 =>
    match s.fifo key with
    | [] => s
    | p :: ps =>
      if p.started then
        if p.total ≤ p.sent then (s.setFifo key ps true).fifoAdvance key n else s
      else if p.drop then
        if p.whole then ((s.freeCells key p.total p.credit).setFifo key ps true).fifoAdvance key n else s
      else if p.routed ∧ p.out = 12 then
        if p.whole ∧ (s.leads → s.traceRoom p.bytes.length) then (((s.freeCells key p.total p.credit).eject (key / 8) p).setFifo key ps true).fifoAdvance key n else s
      else if s.fab.drained ∧ p.routed ∧ p.hdr.st ≠ s.injState then
        ((s.fabDrop 4 (key / 8) p.hdr).setFifo key ({ p with drop := true } :: ps) false).fifoAdvance key n
      else s

/-! ### Routes -/

/-- The entry of route table t for a node: detour, port; ports 13 and 14 are taken as 15 (Table 8-7). -/
def State.route (s : State) (t d : Nat) : Bool × Nat :=
  let e := nbits (s.rd (Reg.fabRt t (d / 4))).toNat (16 * (d % 4) + 4) (16 * (d % 4))
  (nbit e 4, if 13 ≤ e % 16 then 15 else e % 16)

/-- Whether quad n is an Active Amholt link. -/
def State.fabActive (s : State) (n : Nat) : Bool := decide (n < 12) && decide (s.lstate n = 4)

/-- The dimension of a port, 6 and 7 taken as 5. -/
def FabLink.order (l : FabLink) : Nat := 2 * min 5 l.dim + l.dir

/-- The order of the ring direction in which a packet arrived on quad n. -/
def FabLink.inOrder (l : FabLink) : Nat := 2 * min 5 l.dim + 1 - l.dir

/-- R188: the phase and the outgoing VC of a data packet; none where the phase would pass 2. -/
def State.dataVc (s : State) (inp inVc out : Nat) (detour : Bool) : Option Nat :=
  let o := (s.link out).order
  let inj := decide (inp = 12)
  let i := (s.link inp).inOrder
  let ph := if inj then 0 else inVc / 2 + (if o < i then 1 else 0)
  let ph := if detour then ph + 1 else ph
  if 2 < ph then none
  else
    let vc := if inj ∨ ph ≠ inVc / 2 ∨ o ≠ i then 2 * ph else inVc
    some (if (s.link out).dateline then 2 * ph + 1 else vc)

/-- Whether quad n is a trace link while counterproof is not Off: it carries only counterproof traffic (R404). -/
def State.traceQuad (s : State) (n : Nat) : Bool :=
  decide (s.rf Reg.cpfStatus F.cpfStatus_state ≠ 0) && nbit (s.rf Reg.cpfCtrl F.cpfCtrl_tlinks) n

/-- What the router decides for a packet at input inp (R185, R186, R188, R192): its port and VC, or the reason of its
drop. -/
def State.routeOf (s : State) (inp : Nat) (p : Packet) : Nat × Nat × Option Nat :=
  if p.dstNode = s.node then (12, 0, none)
  else if 6 ≤ p.vc ∧ 1024 < p.plen then (15, 0, some 6)
  else if inp ≠ 12 ∧ p.hops = 63 then (15, 0, some 1)
  else
    let (det, port) := s.route p.st p.dstNode
    if port = 12 then (15, 0, some 5)
    else if ¬ s.fabActive port ∨ s.traceQuad port then (15, 0, some 2)
    else if 6 ≤ p.vc then (port, p.vc, none)
    else match s.dataVc inp p.vc port det with
      | some vc => (port, vc, none)
      | none => (15, 0, some 3)

/-- A packet of the module handed to the router: HOPS 0 and the injection state; it is routed and joins the injection
port's FIFO of its VC (R184, R188). -/
def State.inject (s : State) (p : Packet) : State :=
  let p := { p with hops := 0, st := s.injState }
  let mute := s.follows || s.cpf.halted
  let s := s.emit .amholt [0] (pkt := some p)
  if mute then s
  else match s.routeOf 12 p with
  | (_, _, some r) => s.fabDrop r 12 p
  | (out, vc, none) =>
    let f : FPkt := { hdr := p, data := cellsOf (pktCells p) (pktBytes p), total := pktCells p, routed := true, out := out, vc := vc }
    let key := 12 * 8 + (if out = 12 then 0 else vc)
    let q := s.fifo key
    (s.setFifo key (q ++ [f]) q.isEmpty).fifoAdvance key 1

/-! ### Torus positions -/

/-- The ring size of dimension k (Table 8-9). -/
def State.ringSize (s : State) (k : Nat) : Nat :=
  let z := nbits (s.rd Reg.fabGeom).toNat (8 * k + 7) (8 * k)
  if z = 0 then 256 else z

/-- Torus dimensions. -/
def State.dims (s : State) : Nat := max 1 (min 6 (s.rf Reg.fabGeom F.fabGeom_dims))

/-- The coordinates of a position (R202). -/
def State.torusCoords (s : State) (p : Nat) : Nat → Nat → List Nat
  | 0, _ => []
  | n + 1, k => p % s.ringSize k :: s.torusCoords (p / s.ringSize k) n (k + 1)

/-- The position of coordinates. -/
def State.posOf (s : State) : Nat → List Nat → Nat
  | _, [] => 0
  | k, x :: l => x + s.ringSize k * s.posOf (k + 1) l

/-- Positions in all. -/
def State.fabSize (s : State) : Nat := (List.range s.dims).foldl (fun a k => a * s.ringSize k) 1

/-- The position of a node ID: its own number, or the one it moved to by a takeover. -/
def State.position (s : State) (d : Nat) : Nat := (mget s.fab.moves d).getD d

/-- The node at a position; 65,536 where its node has moved away (R444). -/
def State.nodeAt (s : State) (p : Nat) : Nat :=
  match s.fab.moves.find? fun e => decide (e.2 = p) with
  | some e => e.1
  | none => if (mget s.fab.moves p).isSome then 0x10000 else p

/-- Whether a node is recorded lost, or is none. -/
def State.nodeLostAt (s : State) (d : Nat) : Bool := decide (d = 0x10000) || s.fab.faults.any fun e => e.lost && decide (e.node = d)

/-- One position on along dimension k, in direction 0 (+) or 1. -/
def State.neighbour (s : State) (c : List Nat) (k dir : Nat) : List Nat :=
  let z := s.ringSize k
  c.set k ((c.getD k 0 + (if dir = 0 then 1 else z - 1)) % z)

/-- The torus neighbours of a node (R435), by node ID after the moves. -/
def State.neighbours (s : State) (x : Nat) : NSet :=
  let c := s.torusCoords (s.position x) s.dims 0
  ((List.range s.dims).flatMap fun k => [0, 1].map fun d => s.nodeAt (s.posOf 0 (s.neighbour c k d))).foldl
    (fun l n => if n = x ∨ n = 0x10000 then l else sins l n) []

end Sys2Proof.Machine
end

