-- ==== Sys2Proof/Machine/WorkQueue.lean ====
section
/-! DEFINITION. Polling, scheduling, work entries and the commands of the work-queue block (05_work_queues.md, and R121,
R132-R138, R154 of chapters 06 and 07): the rows WQ_POLL_DUE to CQ_ARM. -/

namespace Sys2Proof.Machine

/-! ### Polling -/

/-- A poll of WQ w falls due, unless it may not be polled, its read is under way or it holds 64 entries (R99, R106). The
Bool says that an earlier poll still waits. -/
def State.pollDue (s : State) (w : Nat) : State × Bool :=
  match mget s.wqe.wqs w with
  | some q =>
    if s.wqRuns q ∧ ¬ q.polling ∧ q.ents.length < 64 then
      if s.wqe.due.contains w then (s, true) else ({ s with wqe.due := s.wqe.due ++ [w] }, false)
    else (s, false)
  | none => (s, false)

/-- WQ_POLL_DUE (R99, R101): the interval of WQ w expires; a poll that finds an earlier one waiting is merged and
counted. -/
def execWqPollDue (w : Nat) (s : State) : Res :=
  .next <|
    match s.pollDue w with
    | (t, true) =>
      let c := ((mget t.wqe.wqs w).map (·.cls)).getD 0
      (t.incF (Reg.wqePollStatus c) F.wqePollStatus_overrun 1).raiseMs .warning 4 1 c (inst := c)
    | (t, false) => t

/-- Entries a poll reads: from the fetch index to the end of its aligned 512 bytes (R100). -/
def Wq.pollCount (q : Wq) : Nat := 8 - q.idx % 8

/-- The link half of the first piece that lies behind one. -/
def linkOf : List (Tgt × Nat) → Option (Nat × Nat)
  | [] => none
  | (t, _) :: l => match tgtLink t with | some x => some x | none => linkOf l

/-- Poll reads outstanding on a link half (R96). -/
def State.pollsOn (s : State) (l : Nat × Nat) : Nat :=
  (s.wqe.wqs.filter fun e => e.2.polling && decide (e.2.pollLink = some l)).length

/-- Whether CXL is active on port 0. -/
def State.cxlUp (s : State) : Bool := s.on (Reg.hifPortStatus 0) F.hifPortStatus_cxl

/-- Whether the host lines of n bytes from a are all held Shared (R42). -/
def State.lineHeld (s : State) (a n : Nat) : Bool := (linesOf a n).all fun l => s.hif.shared.contains l

/-- The host lines of n bytes from a held Shared from now on, while there is room for them (R42). -/
def State.holdLines (s : State) (a n : Nat) : State :=
  (linesOf a n).foldl (fun t l =>
    if t.hif.shared.length < 8192 then { t with hif.shared := sins t.hif.shared l } else t) s

/-- The poll of WQ w served: its read issued, or, for a host line held Shared, answered from the copy; or the ring fault it
meets (R94-R96, R108). None while it must remain due. -/
def State.servePoll (s : State) (w : Nat) : Option State :=
  match mget s.wqe.wqs w with
  | none => some s
  | some q =>
    if ¬ s.wqRuns q ∨ q.polling ∨ 64 ≤ q.ents.length then some s
    else
      let n := 64 * q.pollCount
      match s.xlRange q.owner q.space .read true 0 w (xlFuel n) (q.base + 64 * q.idx) n with
      | (t, .ok l) =>
        let lk := linkOf l
        let busy := match lk with | some x => decide (256 ≤ t.pollsOn x) | none => false
        if busy then none
        else
          let t := t.setWq w { q with polling := true, pollLink := lk }
          match l with
          | [(.bus 0 0 a, k)] =>
            if t.cxlUp then (if t.lineHeld a k then some t else some ((t.fetchReqs q.owner l).holdLines a k))
            else some (t.fetchReqs q.owner l)
          | _ => some (t.fetchReqs q.owner l)
      | (t, .fault _) => some (t.wqStop w 1)
      | (t, .down) => some (t.wqStop w 2)
      | (_, .miss) => none

/-- The slice of class c, at most 64 (Table 5-9). -/
def State.slice (s : State) (c : Nat) : Nat := min 64 (nbits (s.rd Reg.wqePollSlice).toNat (8 * c + 7) (8 * c))

/-- Poll slots of class c in a window: 75 per unit, or its share of 4,800 when the slices exceed 64. -/
def State.classSlots (s : State) (c : Nat) : Nat :=
  let sum := s.slice 0 + s.slice 1 + s.slice 2 + s.slice 3
  if 64 < sum then 4800 * s.slice c / sum else 75 * s.slice c

/-- The polls due served in order of due time, each from its class's slots; the slots left, and the polls that remain
due. -/
def State.pollPass (s : State) (slots : List Nat) : List Nat → State × List Nat × List Nat
  | [] => (s, slots, [])
  | w :: ws =>
    let c := ((mget s.wqe.wqs w).map (·.cls)).getD 0
    if slots.getD c 0 = 0 then
      match s.pollPass slots ws with
      | (t, r, rest) => (t, r, w :: rest)
    else match s.servePoll w with
      | some t => t.pollPass (slots.set c (slots.getD c 0 - 1)) ws
      | none => match s.pollPass slots ws with
        | (t, r, rest) => (t, r, w :: rest)

/-- Slots left over shared among the classes with polls still due, in proportion to their slices (R101). -/
def State.shareSlots (s : State) (left : Nat) (due : List Nat) : List Nat :=
  let needs (c : Nat) : Bool := due.any fun w => ((mget s.wqe.wqs w).map (·.cls)).getD 0 = c
  let sum := (List.range 4).foldl (fun a c => if needs c then a + s.slice c else a) 0
  (List.range 4).map fun c => if needs c ∧ sum ≠ 0 then left * s.slice c / sum else 0

/-- Passes over the polls due: the classes' own slots first, then what is left over; at the end any class takes what
remains. -/
def State.pollPasses (s : State) (slots : List Nat) (left : Nat) (due : List Nat) : Nat → State
  | 0 =>
    match s.pollPass (List.replicate 4 left) (due.take left) with
    | (t, _, rest) => { t with wqe.due := rest ++ due.drop left }
  | n + 1 =>
    match s.pollPass slots due with
    | (t, _, rest) =>
      let left := left - (due.length - rest.length)
      t.pollPasses (t.shareSlots left rest) left rest n

/-- POLL_WINDOW (R101, R102): a window of 1 µs with 4,800 poll slots serves the polls due. -/
def execPollWindow (s : State) : Res :=
  .next (({ s with wqe.due := [] }).pollPasses ((List.range 4).map s.classSlots) 4800 s.wqe.due 4)

/-- WQ_KICK (R99, Table 5-14): a write of `WQE_WQ_KICKf`: the queue's next poll is due at once. -/
def execWqKick (f w : Nat) (s : State) : Res :=
  .next <|
    s.cmd f (Reg.wqeWqKick f) fun s =>
      if (mget s.wqe.wqs (w % 65536)).map (·.owner) = some f then (s.pollDue (w % 65536)).1 else s

/-- An entry in the slot at the fetch index, as it is taken: checked, or flushed after a failed WAIT (R103, R138). -/
def State.takeEnt (s : State) (q : Wq) (w : Nat) (ws : List Nat) : Ent :=
  let e : Ent := { slot := q.idx, words := ws, fetched := s.clk }
  if q.flushing then { e with st := .done, status := 0x0B }
  else match s.entCheck q.owner w ws with
    | some (st, m) => { e with st := .done, status := st, info := m }
    | none => e

/-- The entries of a read accepted while their PHASE is the expected one and fewer than 64 are held (R99). -/
def State.accept (s : State) (w : Nat) (q : Wq) : List (List Nat) → Wq
  | [] => q
  | ws :: l =>
    if nbit (ws.getD 7 0) 63 = q.phase ∧ q.ents.length < 64 then
      let wrapd := q.idx + 1 = 2 ^ q.logSize
      s.accept w { q with
        ents := q.ents ++ [s.takeEnt q w ws]
        idx := if wrapd then 0 else q.idx + 1
        phase := if wrapd then !q.phase else q.phase } l
    else q

/-- Byte strings of 64 cut from one. -/
def entriesOf : Nat → List Byte → List (List Nat)
  | 0, _ => []
  | n + 1, bs => wordsOf 8 (bs.take 64) :: entriesOf n (bs.drop 64)

/-- POLL_READ_COMPLETION (R99, R100, R103, R108): the poll read of WQ w returns, res = 0 successful; what lies behind a
link comes in data. A read that finds entries is followed at once by another. -/
def execPollReadCompletion (w res : Nat) (data : List Byte) (s : State) : Res :=
  .next <|
    match mget s.wqe.wqs w with
    | none => s
    | some q =>
      if ¬ q.polling then s
      else
        let q := { q with polling := false, pollLink := none }
        let s := s.setWq w q
        if ¬ s.wqRuns q then s
        else if res ≠ 0 then s.wqStop w 2
        else
          let n := q.pollCount
          let bs := match s.xlRange q.owner q.space .read true 0 w (xlFuel (64 * n)) (q.base + 64 * q.idx) (64 * n) with
            | (_, .ok l) => s.fetch l data
            | _ => data
          let q2 := s.accept w q (entriesOf n (bs ++ List.replicate (64 * n) 0))
          let s := (s.setWq w q2).retire w 128
          if q2.ents.length ≠ q.ents.length then (s.pollDue w).1 else s

/-! ### The scheduler -/

/-- Whether WQ q waits for a step of a WRITE or READ on an Active QP; the QP. -/
def State.stepWaits (s : State) (k : Nat) (q : Wq) : Option (Nat × Qp) :=
  if q.port = k ∧ s.wqRuns q ∧ q.granted = 0 then
    match q.cur with
    | some e =>
      if e.op = 1 ∨ e.op = 2 then
        match mget s.qpe.qps e.qpn with
        | some p => if p.st = .active ∧ p.cmd = none ∧ p.owner = q.owner then some (e.qpn, p) else none
        | none => none
      else none
    | none => none
  else none

/-- Whether WQ q has a ready step at scheduler k (R104, R139). -/
def State.stepReady (s : State) (k : Nat) (q : Wq) : Bool :=
  match s.stepWaits k q with
  | some (n, p) => s.trkFree n p
  | none => false

/-- Steps that wait for the tracking table counted, each once (R139). -/
def State.countStalls (s : State) (k : Nat) : State :=
  s.wqe.wqs.foldl (fun t e =>
    if (s.stepWaits k e.2).isSome ∧ ¬ s.stepReady k e.2 ∧ ¬ e.2.stalled then
      (t.incF Reg.qpeTrkStatus F.qpeTrkStatus_stalls 1).setWq e.1 { e.2 with stalled := true }
    else t) s

/-- The next of a rising list after n, cyclically. -/
def nextAfter (n : Nat) (l : List Nat) : Option Nat :=
  match l.find? (fun x => decide (n < x)) with
  | some x => some x
  | none => l.head?

/-- A function's weight on attach ports (Table 4-9). -/
def State.attachWt (s : State) (f : Nat) : Nat := max 1 (s.rf (Reg.vfmFnQp f) F.vfmFnQp_attach_wt)

/-- The queue of function f that takes the step (R104, inner level), from the ready ones, with its turn and credits
brought up to date; the state of the credits. -/
def State.innerPick (s : State) (c : Sched) (f : Nat) (ready : List Nat) : State × Option Nat :=
  let has (t : State) (w : Nat) : Bool := match mget t.wqe.wqs w with | some q => decide (q.credit ≠ 0) | none => false
  let cur := (mget c.cur f).getD 0
  let keep := ready.contains cur && has s cur &&
    (match mget s.wqe.wqs cur with | some q => decide (q.turn < q.curBurst) | none => false)
  if keep then (s, some cur)
  else
    let s := if ready.any (has s) then s
      else { s with wqe.wqs := s.wqe.wqs.map fun e => if e.2.owner = f then (e.1, { e.2 with credit := e.2.weight }) else e }
    match nextAfter cur (ready.filter (has s)) with
    | some w =>
      (match mget s.wqe.wqs w with
        | some q => (s.setWq w { q with turn := 0, curBurst := q.burst }, some w)
        | none => (s, some w))
    | none => (s, none)

/-- SCHEDULER_GRANT (R104): scheduler k grants one step, to the function and queue whose turn it is. -/
def execSchedulerGrant (k : Nat) (s : State) : Res :=
  .next <|
    let s := s.countStalls k
    let c := (mget s.wqe.sched k).getD {}
    let ready := (s.wqe.wqs.filter fun e => s.stepReady k e.2).map fun e => (e.2.owner, e.1)
    let fns := ready.foldl (fun a e => sins a e.1) []
    let has (c : Sched) (f : Nat) : Bool := decide ((mget c.credit f).getD (s.attachWt f) ≠ 0)
    let c := if fns.any (has c) then c else { c with credit := [] }
    let start := if c.credit = [] then fns.head? else nextAfter c.last (fns.filter (has c))
    match start with
    | none => s
    | some f =>
      match s.innerPick c f ((ready.filter fun e => e.1 = f).map (·.2)) with
      | (s, none) => s
      | (s, some w) =>
        let c := { c with credit := mput c.credit f ((mget c.credit f).getD (s.attachWt f) - 1), last := f, cur := mput c.cur f w }
        let s := { s with wqe.sched := mput s.wqe.sched k c }
        match mget s.wqe.wqs w with
        | some q => s.setWq w { q with granted := 1, credit := q.credit - 1, turn := q.turn + 1, stalled := false }
        | none => s

/-! ### Entries of the queue itself -/

/-- NOP_ENTRY (R98): the NOP at the head of what WQ w is to start completes. -/
def execNopEntry (w : Nat) (s : State) : Res :=
  .next <|
    match s.nextEnt w 0 with
    | some (_, e) => s.finish w e.slot 0
    | none => s

/-- A WAIT of WQ w completes; after another status than ST_OK every later entry is flushed (R138). -/
def State.waitEnd (s : State) (w slot st : Nat) : State :=
  let s := s.updEnt w slot fun e => { e with st := .done, status := st }
  let t : State := match mget s.wqe.wqs w with
    | some q =>
      if st = 0 then s
      else s.setWq w { q with flushing := true, ents := q.ents.map fun e =>
        if e.st = .fetched then { e with st := .done, status := 0x0B } else e }
    | none => s
  t.retire w 128

/-- WAIT (R136): the WAIT that is the oldest entry of WQ w not yet started starts; later entries are held back. -/
def execWait (w : Nat) (s : State) : Res :=
  .next <|
    match s.nextEnt w 8 with
    | some (_, e) => if e.st = .fetched then s.updEnt w e.slot fun e => { e with st := .started, start := s.clk } else s
    | none => s

/-- The WAIT of WQ w that has started. -/
def State.waiting (s : State) (w : Nat) : Option Ent :=
  match s.nextEnt w 8 with
  | some (_, e) => if e.st = .started then some e else none
  | none => none

/-- WAIT_SATISFIED (R136, R137): the awaited count is reached, an awaited entry has failed, or the awaited WQ is gone. -/
def execWaitSatisfied (w : Nat) (s : State) : Res :=
  .next <|
    match s.waiting w with
    | none => s
    | some e =>
      match mget s.wqe.wqs (e.w 2) with
      | none => s.waitEnd w e.slot 0x34
      | some q =>
        match q.firstFail with
        | some n =>
          if n < e.w 1 then s.waitEnd w e.slot 0x34
          else if e.w 1 ≤ q.completed then s.waitEnd w e.slot 0 else s
        | none => if e.w 1 ≤ q.completed then s.waitEnd w e.slot 0 else s

/-- WAIT_TIMEOUT (R137): the timeout of a started WAIT, in µs, passes. -/
def execWaitTimeout (w : Nat) (s : State) : Res :=
  .next <|
    match s.waiting w with
    | some e => if e.notice ≠ 0 ∧ e.start + e.notice * 1000 ≤ s.clk then s.waitEnd w e.slot 0x0A else s
    | none => s

/-- FENCE (R47): once every earlier entry of WQ w is final, one flush read is issued per destination behind a link
written since the last; with none, the FENCE completes. -/
def execFence (w : Nat) (s : State) : Res :=
  .next <|
    match s.nextEnt w 9 with
    | none => s
    | some (q, e) =>
      if e.st = .fetched ∧ ((q.ents.takeWhile fun x => x.slot ≠ e.slot).all fun x => x.st = .done && x.flush.isEmpty) then
        let ds := s.hif.dests.filter fun d => d.wqn = w
        if ds = [] then s.finish w e.slot 0
        else
          let s := s.updEnt w e.slot fun e => { e with st := .started, start := s.clk }
          let s := ds.foldl (fun t d => (t.updEnt w e.slot fun e => { e with flush := sins e.flush t.hif.flushId }).flushRead d
            (.fence w e.slot)) s
          { s with hif.dests := s.hif.dests.filter fun d => d.wqn ≠ w }
      else s

/-! ### WRITE and READ -/

/-- Payload bytes of a full packet of a QP (R154). -/
def State.maxPay (s : State) (q : Qp) : Nat :=
  if q.transport = 0 then 4096
  else match s.rf Reg.umtCfg F.umtCfg_max_pay with
    | 0 => 4096
    | 1 => 2048
    | _ => 1024

/-- The code of a response piece size (Table 7-2). -/
def pieceCode (n : Nat) : Nat := if n = 4096 then 0 else if n = 2048 then 1 else 2

/-- The exponent of a QP's first timeout (R162). -/
def State.rtoE (s : State) (q : Qp) : Nat :=
  if q.transport = 0 then s.rf Reg.umtCfg F.umtCfg_rto_am_e else s.rf Reg.umtCfg F.umtCfg_rto_eth_e

/-- The retransmit timer starts with the first packet that is unacknowledged (R162). -/
def State.startTimer (s : State) (q : Qp) : Qp :=
  if q.una = [] ∧ q.reads = [] then { q with timerAt := s.clk, expE := s.rtoE q, retry := 0 } else q

/-- The DATA packets that carry bytes in order, from a PSN and remote offset on (R154). -/
def dataPkts (proto : Packet) (pay rkey : Nat) (lastStep : Bool) : Nat → Nat → Nat → List Byte → List Packet
  | 0, _, _, _ => []
  | n + 1, psn, off, bs =>
    let c := bs.take pay
    let rest := bs.drop pay
    { proto with type := 1, psn := psn % 2 ^ 24, plen := c.length, argA := rkey, argB := off % 2 ^ 48,
                 last := lastStep && rest.isEmpty, payload := c } ::
    (if rest.isEmpty then [] else dataPkts proto pay rkey lastStep n (psn + 1) (off + pay) rest)

/-- Entries that complete without a packet, whose turn has come: every WRITE packet before them is acknowledged
(R154). -/
def marksDue : List Sent → List Sent
  | [] => []
  | x :: l =>
    match x.kind with
    | .mark => x :: marksDue l
    | .readReq => marksDue l
    | .connect => marksDue l
    | _ => []

/-- The marks of QP n whose turn has come completed. -/
def State.sweepMarks (s : State) (n : Nat) : State :=
  match mget s.qpe.qps n with
  | some q =>
    let ms := marksDue q.una
    if ms = [] then s
    else
      let s := s.setQp n { q with una := q.una.filter fun x => ¬ ms.contains x }
      ms.foldl (fun t x => t.transEnd x.wqn x.slot x.step) s
  | none => s

/-- A loopback range carried between its pieces in packets of at most 4,096 B, each checked at the target (R52, R141):
bytes moved, and the status, or none to wait. -/
def State.loopMove (s : State) (tn : Nat) (tq : Qp) (p : Packet) (key : Nat) (wr : Bool) (w : Nat) :
    Nat → Nat → List Byte → List Byte → Nat → State × List Byte × Option Nat
  | 0, _, _, _, _ => (s, [], some 0)
  | fuel + 1, off, bs, ext, n =>
    if n = 0 then (s, [], some 0)
    else
      let k := min n 4096
      match s.remoteCheck tn tq p key off k wr with
      | (t, .refuse st) => (t, [], some st)
      | (t, .wait) => (t, [], none)
      | (t, .ok l) =>
        let got := if wr then bs.take k else t.fetch l ext
        let t := if wr then ((t.put tq.owner true l got).noteDests w tq.owner l).meter tq.owner 2 k else t.fetchReqs tq.owner l
        let used := if wr then 0 else (l.filter fun x => (tgtLink x.1).isSome || (match x.1 with | .dpa a => t.biased a x.2 | _ => false)).foldl (fun a x => a + x.2) 0
        match t.loopMove tn tq p key wr w fuel (off + k) (bs.drop k) (ext.drop used) (n - k) with
        | (u, d, r) => (u, got ++ d, r)

/-- The target QP of a loopback QP n, when it exists, is Active and is paired with it (Table 6-2, check 3). -/
def State.loopTarget (s : State) (n : Nat) (p : Qp) : Option Qp :=
  match mget s.qpe.qps p.rqpn with
  | some t => if t.st = .active ∧ t.rnode = s.node ∧ t.rqpn = n then some t else none
  | none => none

/-- The entry of WQ w that starts a step on QP p: WRITE (1) or READ (2), and the step's offset and bytes. -/
def Ent.stepRange (e : Ent) : Nat × Nat := (e.steps * 65536, min 65536 (e.len - e.steps * 65536))

/-- What a WRITE or READ entry at the head of WQ w meets before its step (Table 6-1): it completes where its QP is not
there, Idle, Retired or in Error. -/
def State.qpGate (s : State) (w : Nat) (q : Wq) (e : Ent) : Option State :=
  match mget s.qpe.qps e.qpn with
  | none => some (s.finish w e.slot 0x30)
  | some p =>
    if p.owner ≠ q.owner ∨ p.st = .idle ∨ p.st = .retired ∨ s.engineQp e.qpn then some (s.finish w e.slot 0x30)
    else if p.st = .error then some (s.finish w e.slot 0x0B)
    else none

/-- The entry with its step taken. -/
def Ent.stepTaken (s : State) (n : Nat) (e : Ent) : Ent :=
  { e with st := .started, start := if e.st = .fetched then s.clk else e.start, steps := e.steps + 1, sent := e.sent + n,
           open_ := e.open_ + 1, allSent := decide (e.len ≤ e.steps * 65536 + n) }

/-- The grant of WQ w used up. -/
def State.useGrant (s : State) (w : Nat) : State :=
  match mget s.wqe.wqs w with
  | some q => s.setWq w { q with granted := 0 }
  | none => s

/-- A refusal met at a loopback target: the entry completes with it and the QP moves to Error where R131 says so. -/
def State.loopRefused (s : State) (w slot n st : Nat) : State :=
  let s := s.finish w slot st
  if qpErrorStatus st then s.qpError n st else s

/-- A local key failure, or none, for a step (R121); an entry of length 0 checks no key. -/
def State.stepKeyBad (s : State) (q : Wq) (e : Ent) (off n : Nat) (wr : Bool) : Bool :=
  decide (n ≠ 0) && s.localKeyBad q.owner e.lkey e.lspace (e.w 1 + off) n wr

/-- Whether a step over Amholt finds no route as it starts (R195). -/
def State.noRoute (s : State) (p : Qp) : Bool :=
  decide (p.transport = 0) && decide (p.rnode ≠ s.node) && decide ((s.route s.injState p.rnode).2 = 15)

/-- WRITE (R121, R132, R133, R139, R154, R52): the granted step of the WRITE that WQ w is to carry out. What lies behind a
link or in host bias comes in ext. -/
def execWrite (w : Nat) (ext : List Byte) (s : State) : Res :=
  .next <|
    match s.nextEnt w 1 with
    | none => s
    | some (q, e) =>
      match s.qpGate w q e with
      | some t => t
      | none =>
        match mget s.qpe.qps e.qpn with
        | none => s
        | some p =>
          let (off, n) := e.stepRange
          if p.st ≠ .active ∨ q.granted = 0 then s
          else if s.stepKeyBad q e off n false then (s.useGrant w).failEnt w e.slot 0x03
          else if s.noRoute p then (s.useGrant w).failEnt w e.slot 0x50
          else match s.xlRange q.owner e.lspace .read false 0 w (xlFuel n) (e.w 1 + off) n with
            | (t, .miss) => t
            | (t, .fault _) => (t.useGrant w).failEnt w e.slot 0x04
            | (t, .down) => (t.useGrant w).failEnt w e.slot 0x0C
            | (t, .ok l) =>
              let bs := t.fetch l ext
              let t := t.fetchReqs q.owner l
              let lastStep := decide (e.len ≤ off + n)
              if p.rnode = t.node then
                match t.loopTarget e.qpn p with
                | none => ((t.useGrant w).incF Reg.qpeTrkStatus F.qpeTrkStatus_refused 1).loopRefused w e.slot e.qpn 0x33
                | some tq =>
                  match t.loopMove p.rqpn tq { t.qpPkt e.qpn p 1 0 with argA := e.rkey } e.rkey true w 16 (e.w 2 + off) bs [] n with
                  | (u, _, none) => u
                  | (u, d, some st) =>
                    let u := (u.useGrant w).updEnt w e.slot fun x => { x.stepTaken s n with open_ := x.open_, bytes := x.bytes + d.length }
                    if st ≠ 0 then u.loopRefused w e.slot e.qpn st
                    else
                      let u := if lastStep ∧ e.noticeEn then u.updEnt w e.slot fun x =>
                          { x with note := some (tq.ncqn, { info := e.notice, bytes := e.len, qpn := p.rqpn, notice := true, srcNode := s.node }) }
                        else u
                      u.settle w e.slot
              else
                let p := t.startTimer p
                let ps := if n = 0 then [] else dataPkts (t.qpPkt e.qpn p 1 0) (t.maxPay p) e.rkey lastStep 64 p.psn (e.w 2 + off) bs
                let psn0 := if e.steps = 0 then p.psn else e.psn0
                let psn := (p.psn + ps.length) % 2 ^ 24
                let note := lastStep && e.noticeEn
                let np := { t.qpPkt e.qpn p 2 psn with argA := e.notice, argB := e.len + psn0 * 2 ^ 32 }
                let mk (k : SentKind) (x : Packet) : Sent := ⟨k, x.psn, x, w, e.slot, e.steps, false, false⟩
                let sent := ps.map (mk .data) ++ (if note then [mk .notice np] else [])
                let sent := if sent = [] then [mk .mark { t.qpPkt e.qpn p 1 psn with plen := 0 }] else sent
                let p := { p with una := p.una ++ sent, txq := p.txq ++ ps ++ (if note then [np] else []),
                                  psn := if note then (psn + 1) % 2 ^ 24 else psn }
                let t := (t.setQp e.qpn p).useGrant w
                let t := t.track ⟨q.owner, e.qpn, w, e.slot, e.steps⟩
                (t.updEnt w e.slot fun x => { x.stepTaken s n with psn0 := psn0 }).sweepMarks e.qpn

/-- READ (R121, R134, R139, R154, R52): the granted step, one request segment, of the READ that WQ w is to carry out. What a
loopback READ reads behind a link or in host bias comes in ext. -/
def execRead (w : Nat) (ext : List Byte) (s : State) : Res :=
  .next <|
    match s.nextEnt w 2 with
    | none => s
    | some (q, e) =>
      match s.qpGate w q e with
      | some t => t
      | none =>
        match mget s.qpe.qps e.qpn with
        | none => s
        | some p =>
          let (off, n) := e.stepRange
          if p.st ≠ .active ∨ q.granted = 0 then s
          else if n = 0 then (s.useGrant w).finish w e.slot 0
          else if s.stepKeyBad q e off n true then (s.useGrant w).failEnt w e.slot 0x03
          else if s.noRoute p then (s.useGrant w).failEnt w e.slot 0x50
          else match s.xlRange q.owner e.lspace .write false 0 w (xlFuel n) (e.w 1 + off) n with
            | (t, .miss) => t
            | (t, .fault _) => (t.useGrant w).failEnt w e.slot 0x04
            | (t, .down) => (t.useGrant w).failEnt w e.slot 0x0C
            | (t, .ok l) =>
              if p.rnode = t.node then
                match t.loopTarget e.qpn p with
                | none => ((t.useGrant w).incF Reg.qpeTrkStatus F.qpeTrkStatus_refused 1).loopRefused w e.slot e.qpn 0x33
                | some tq =>
                  match t.loopMove p.rqpn tq { t.qpPkt e.qpn p 3 0 with argA := e.rkey } e.rkey false w 16 (e.w 2 + off) [] ext n with
                  | (u, _, none) => u
                  | (u, d, some st) =>
                    let u := (u.useGrant w).updEnt w e.slot fun x => { x.stepTaken s n with open_ := x.open_, bytes := x.bytes + d.length }
                    let u := if d.length = n then ((u.put q.owner true l d).noteDests w q.owner l).meter q.owner 2 n else u
                    if st ≠ 0 then u.loopRefused w e.slot e.qpn st else u.settle w e.slot
              else
                let p := t.startTimer p
                let pay := t.maxPay p
                let pk := { t.qpPkt e.qpn p 3 p.psn with argA := e.rkey, argB := (e.w 2 + off) % 2 ^ 48 + (n - 1) * 2 ^ 48,
                                                          piece := pieceCode pay }
                let p := { p with
                  una := p.una ++ [⟨.readReq, p.psn, pk, w, e.slot, e.steps, false, false⟩]
                  reads := p.reads ++ [{ psn := p.psn, wqn := w, slot := e.slot, step := e.steps, off := off, len := n, piece := pay, pkt := pk }]
                  txq := p.txq ++ [pk], psn := (p.psn + 1) % 2 ^ 24 }
                let t := (t.setQp e.qpn p).useGrant w
                let t := t.track ⟨q.owner, e.qpn, w, e.slot, e.steps⟩
                t.updEnt w e.slot fun x => x.stepTaken s n

/-! ### Commands of the WQE block -/

/-- The sum of a quota field over the VFs. -/
def State.quotaSum (s : State) (fl : Fld) : Nat :=
  s.regs.foldl (fun a e =>
    if Reg.vfmFnQuota 1 ≤ e.1 ∧ e.1 ≤ Reg.vfmFnQuota 1024 ∧ (e.1 - Reg.vfmFnQuota 0) % 64 = 0
    then a + fld e.2 fl.hi fl.lo else a) 0

/-- What function f may hold of a pool, in single resources: its quota, or, for the PF, what the VFs' quotas leave (R76). -/
def State.quota (s : State) (f : Nat) (fl : Fld) (unit pool : Nat) : Nat :=
  if f = 0 then pool - s.quotaSum fl * unit else s.rf (Reg.vfmFnQuota f) fl * unit

/-- Work and completion queues of a function (R94). -/
def State.wqUse (s : State) (f : Nat) : Nat :=
  (s.wqe.wqs.filter fun e => decide (e.2.owner = f)).length + (s.wqe.cqs.filter fun e => decide (e.2.owner = f)).length

/-- A command of `WQE_CMDf` (R109): it is written with `GO` = 1 through function f's page, unless one is under way. -/
def State.wqeCmd (s : State) (f c obj : Nat) (act : State → State) : State :=
  s.cmd f (Reg.wqeCmd f) fun s =>
    if s.on (Reg.wqeCmd f) F.wqeCmd_go then s
    else act (((s.wf (Reg.wqeCmd f) F.wqeCmd_cmd c).wf (Reg.wqeCmd f) F.wqeCmd_obj obj).wf (Reg.wqeCmd f) F.wqeCmd_go 1)

/-- An argument register. -/
def State.wqeArg (s : State) (f i : Nat) : Nat := (s.rd (Reg.wqeArg f i)).toNat

/-- Whether a function may name a space (R57). -/
def mayName (f sp : Nat) : Bool := decide (sp < 3) || decide (f = 0)

/-- Whether a ring base is aligned (R94). -/
def ringAligned (base bytes : Nat) : Bool := decide (base % min bytes 4096 = 0)

/-- CREATE_WQ (R94, R99, R109, Table 5-6). -/
def execCreateWq (f : Nat) (s : State) : Res :=
  .next <|
    s.wqeCmd f 1 (s.rf (Reg.wqeCmd f) F.wqeCmd_obj) fun s =>
      let base := s.wqeArg f 0 / 64 * 64
      let a := s.wqeArg f 1
      let lg := nbits a 3 0
      let cqn := nbits a 57 42
      if lg < 4 ∨ ¬ ringAligned base (64 * 2 ^ lg) ∨ ¬ mayName f (nbits a 5 4) ∨ 4 < nbits a 10 8 ∨ nbits a 18 11 = 0 ∨
          nbits a 25 19 = 0 ∨ 64 < nbits a 25 19 ∨ nbits a 41 26 = 0 then s.wqeEnd f 0x01
      else if (mget s.wqe.cqs cqn).map (·.owner) ≠ some f then s.wqeEnd f 0x25
      else if s.quota f F.vfmFnQuota_wq 16 65536 ≤ s.wqUse f then s.wqeEnd f 0x24
      else match firstFrom (fun n => (mget s.wqe.wqs n).isNone) 0 65536 with
        | none => s.wqeEnd f 0x24
        | some w =>
          ((s.setWq w { owner := f, base := base, logSize := lg, space := nbits a 5 4, cls := nbits a 7 6,
                        port := nbits a 10 8, weight := nbits a 18 11, burst := nbits a 25 19, interval := nbits a 41 26,
                        cqn := cqn, credit := nbits a 18 11 }).wf (Reg.wqeCmd f) F.wqeCmd_obj w).wqeEnd f 0

/-- The WQ a command names, if the function owns it; else the command ends with `ST_WQ_STATE` (R109). -/
def State.onWq (s : State) (f obj : Nat) (act : State → Wq → State) : State :=
  match mget s.wqe.wqs (obj % 65536) with
  | some q => if q.owner = f then act s q else s.wqeEnd f 0x25
  | none => s.wqeEnd f 0x25

/-- MODIFY_WQ (R109). -/
def execModifyWq (f obj : Nat) (s : State) : Res :=
  .next <|
    s.wqeCmd f 2 obj fun s => s.onWq f obj fun s q =>
      let a := s.wqeArg f 1
      if nbits a 18 11 = 0 ∨ nbits a 25 19 = 0 ∨ 64 < nbits a 25 19 ∨ nbits a 41 26 = 0 then s.wqeEnd f 0x01
      else (s.setWq (obj % 65536) { q with cls := nbits a 7 6, weight := nbits a 18 11, burst := nbits a 25 19,
                                           interval := nbits a 41 26 }).wqeEnd f 0

/-- ENABLE_WQ (R107, Table 5-5). -/
def execEnableWq (f obj : Nat) (s : State) : Res :=
  .next <|
    s.wqeCmd f 3 obj fun s => s.onWq f obj fun s q =>
      if q.st = .disabled ∨ q.st = .stopped then
        (s.setWq (obj % 65536) { q with st := .enabled, stopReason := 0 }).wqeEnd f 0
      else s.wqeEnd f 0x25

/-- A WQ drains: entries not started and a WAIT in progress are flushed (R107). -/
def State.wqDrain (s : State) (w : Nat) (cmd : Bool) : State :=
  match mget s.wqe.wqs w with
  | some q =>
    let s := { s with wqe.due := s.wqe.due.filter (· ≠ w) }
    (s.setWq w { q with
      st := .draining, disCmd := cmd, polling := false, granted := 0
      ents := q.ents.map fun e =>
        if e.st = .fetched ∨ (e.op = 8 ∧ e.st = .started) then { e with st := .done, status := 0x0B } else e }).retire w 128
  | none => s

/-- DISABLE_WQ (R107, R109): completes when the WQ reaches Disabled. -/
def execDisableWq (f obj : Nat) (s : State) : Res :=
  .next <|
    s.wqeCmd f 4 obj fun s => s.onWq f obj fun s q =>
      if q.st = .enabled ∨ q.st = .stopped then s.wqDrain (obj % 65536) true else s.wqeEnd f 0x25

/-- The started WAITs on a WQ that is gone complete (R137). -/
def State.waitersFail (s : State) (w : Nat) : State :=
  (s.wqe.wqs.map (·.1)).foldl (fun t x =>
    match t.waiting x with
    | some e => if e.w 2 = w then t.waitEnd x e.slot 0x34 else t
    | none => t) s

/-- DESTROY_WQ (R109, R137): only a Disabled WQ. -/
def execDestroyWq (f obj : Nat) (s : State) : Res :=
  .next <|
    s.wqeCmd f 5 obj fun s => s.onWq f obj fun s q =>
      if q.st = .disabled then
        (({ s with wqe.wqs := mdel s.wqe.wqs (obj % 65536) }).waitersFail (obj % 65536)).wqeEnd f 0
      else s.wqeEnd f 0x25

/-- The codes of Table 5-6. -/
def WqSt.code : WqSt → Nat
  | .disabled => 0
  | .enabled => 1
  | .draining => 2
  | .stopped => 3

/-- Four words written to the argument registers of the WQE block by a query. -/
def State.wqeRet (s : State) (f a b c d : Nat) : State :=
  (((s.wr (Reg.wqeArg f 0) (BitVec.ofNat 64 a)).wr (Reg.wqeArg f 1) (BitVec.ofNat 64 b)).wr (Reg.wqeArg f 2)
    (BitVec.ofNat 64 c)).wr (Reg.wqeArg f 3) (BitVec.ofNat 64 d)

/-- QUERY_WQ (Table 5-6). -/
def execQueryWq (f obj : Nat) (s : State) : Res :=
  .next <|
    s.wqeCmd f 6 obj fun s => s.onWq f obj fun s q =>
      (s.wqeRet f q.base
        (q.logSize + q.space * 2 ^ 4 + q.cls * 2 ^ 6 + q.port * 2 ^ 8 + q.weight * 2 ^ 11 + q.burst * 2 ^ 19 +
          q.interval * 2 ^ 26 + q.cqn * 2 ^ 42)
        q.completed
        (q.st.code + b2n q.phase * 2 ^ 2 + q.idx * 2 ^ 3 + q.ents.length * 2 ^ 19 + q.stopReason * 2 ^ 26)).wqeEnd f 0

/-- CREATE_CQ (R94, R109, R110, Table 5-6). -/
def execCreateCq (f : Nat) (s : State) : Res :=
  .next <|
    s.wqeCmd f 8 (s.rf (Reg.wqeCmd f) F.wqeCmd_obj) fun s =>
      let base := s.wqeArg f 0 / 64 * 64
      let a := s.wqeArg f 1
      let lg := nbits a 3 0
      let vec := nbits a 18 8
      if lg < 4 ∨ ¬ ringAligned base (32 * 2 ^ lg) ∨ ¬ mayName f (nbits a 5 4) ∨ ¬ mayName f (nbits a 7 6) ∨
          (f ≠ 0 ∧ 64 ≤ vec) then s.wqeEnd f 0x01
      else if s.quota f F.vfmFnQuota_wq 16 65536 ≤ s.wqUse f then s.wqeEnd f 0x24
      else match firstFrom (fun n => (mget s.wqe.cqs n).isNone) 0 65536 with
        | none => s.wqeEnd f 0x24
        | some c =>
          ((s.setCq c { owner := f, base := base, logSize := lg, space := nbits a 5 4, headSpace := nbits a 7 6,
                        headAddr := s.wqeArg f 2 / 8 * 8, vector := vec }).wf (Reg.wqeCmd f) F.wqeCmd_obj c).wqeEnd f 0

/-- The CQ a command names, if the function owns it (R109). -/
def State.onCq (s : State) (f obj : Nat) (act : State → Cq → State) : State :=
  match mget s.wqe.cqs (obj % 65536) with
  | some c => if c.owner = f then act s c else s.wqeEnd f 0x25
  | none => s.wqeEnd f 0x25

/-- The state of a CQ out of Error. -/
def Cq.fresh (c : Cq) : Cq := { c with st := if c.isFull then .full else .normal }

/-- RESUME_CQ (R114): only a CQ in Error; held completions are written in order. -/
def execResumeCq (f obj : Nat) (s : State) : Res :=
  .next <|
    s.wqeCmd f 9 obj fun s => s.onCq f obj fun s c =>
      if c.st = .error then ((s.setCq (obj % 65536) c.fresh).cqRelease (obj % 65536)).wqeEnd f 0 else s.wqeEnd f 0x25

/-- DESTROY_CQ (R109): only a CQ that no WQ or QP names; held notices are discarded. -/
def execDestroyCq (f obj : Nat) (s : State) : Res :=
  .next <|
    s.wqeCmd f 10 obj fun s => s.onCq f obj fun s c =>
      let n := obj % 65536
      if (s.wqe.wqs.any fun e => decide (e.2.cqn = n)) ∨ (s.qpe.qps.any fun e => decide (e.2.ncqn = n)) then s.wqeEnd f 0x25
      else
        let s := { s with wqe.cqs := mdel s.wqe.cqs n }
        let s := if c.held = [] then s else s.raise .warning 4 3 (fn := f) (arg0 := n) (count := c.held.length)
        s.wqeEnd f 0

/-- The codes of Table 5-6. -/
def CqSt.code : CqSt → Nat
  | .normal => 0
  | .full => 1
  | .error => 2

/-- QUERY_CQ (Table 5-6). -/
def execQueryCq (f obj : Nat) (s : State) : Res :=
  .next <|
    s.wqeCmd f 11 obj fun s => s.onCq f obj fun s c =>
      (s.wqeRet f c.base
        (c.logSize + c.space * 2 ^ 4 + c.headSpace * 2 ^ 6 + c.vector * 2 ^ 8 + c.st.code * 2 ^ 19)
        c.headAddr (c.produced + c.head * 2 ^ 32)).wqeEnd f 0

/-- CQ_HEAD_REREAD (R113, R114): the head of a full CQ is read again, res = 0 successful; behind a link its bytes come in
data. What waits for the CQ is released. -/
def execCqHeadReread (c res : Nat) (data : List Byte) (s : State) : Res :=
  .next <|
    match mget s.wqe.cqs c with
    | none => s
    | some q =>
      if q.st ≠ .full then s
      else match s.xlRange q.owner q.headSpace .read true 1 c 2 q.headAddr 4 with
        | (t, .miss) => t
        | (t, .fault _) => t.cqError c q 1
        | (t, .down) => t.cqError c q 2
        | (t, .ok l) =>
          if res ≠ 0 ∧ (linkOf l).isSome then t.cqError c q 2
          else
            let bs := t.fetch l data
            let t := t.fetchReqs q.owner l
            (t.setCq c { q with head := leNat bs }.fresh).cqRelease c

/-- CQ_ARM (R115): a write of `WQE_CQ_ARMf`: the cached head is refreshed, and the CQ is armed, or its vector raised at
once where entries beyond that head are there. -/
def execCqArm (f : Nat) (v : Word) (s : State) : Res :=
  .next <|
    s.cmd f (Reg.wqeCqArm f) fun s =>
      let n := fld v 15 0
      match mget s.wqe.cqs n with
      | none => s
      | some c =>
        if c.owner ≠ f then s
        else
          let c := { c with head := fld v 47 16 }
          let c := if c.st = .error then c else c.fresh
          let s := if c.produced ≠ c.head then (s.setCq n { c with armed := none }).msixEvent f c.vector
            else s.setCq n { c with armed := some (fld v 48 48) }
          s.cqRelease n

end Sys2Proof.Machine
end

