-- ==== Sys2Proof/Machine/QueuePair.lean ====
section
/-! DEFINITION. Queue-pair and region commands (06_remote_memory.md, R48-R50, R153): the rows CREATE_QP to
REFUSAL_AGGREGATION_END. -/

namespace Sys2Proof.Machine

/-- A command of `QPE_CMDf`: it is written with `GO` = 1 through function f's page, unless one is under way (R109). -/
def State.qpeCmd (s : State) (f c obj : Nat) (act : State → State) : State :=
  s.cmd f (Reg.qpeCmd f) fun s =>
    if s.on (Reg.qpeCmd f) F.qpeCmd_go then s
    else act (((s.wf (Reg.qpeCmd f) F.qpeCmd_cmd c).wf (Reg.qpeCmd f) F.qpeCmd_obj obj).wf (Reg.qpeCmd f) F.qpeCmd_go 1)

/-- An argument register. -/
def State.qpeArg (s : State) (f i : Nat) : Nat := (s.rd (Reg.qpeArg f i)).toNat

/-- Four words written to the argument registers of the QPE block by a query. -/
def State.qpeRet (s : State) (f a b c d : Nat) : State :=
  (((s.wr (Reg.qpeArg f 0) (BitVec.ofNat 64 a)).wr (Reg.qpeArg f 1) (BitVec.ofNat 64 b)).wr (Reg.qpeArg f 2)
    (BitVec.ofNat 64 c)).wr (Reg.qpeArg f 3) (BitVec.ofNat 64 d)

/-! ### Queue pairs -/

/-- CREATE_QP (R126, Table 6-5): an Idle QP with a free number of the function's range. -/
def execCreateQp (f obj : Nat) (s : State) : Res :=
  .next <|
    s.qpeCmd f 1 obj fun s =>
      let n := obj % 2 ^ 18
      let a := s.qpeArg f 0
      if nbits a 17 16 = 3 then s.qpeEnd f 0x01
      else if ¬ s.ownsQpn f n ∨ (mget s.qpe.qps n).isSome ∨ (mget s.wqe.cqs (nbits a 15 0)).map (·.owner) ≠ some f then
        s.qpeEnd f 0x30
      else
        (s.setQp n { owner := f, ncqn := nbits a 15 0, transport := nbits a 17 16, tc := nbits a 20 18, saEn := nbit a 21,
                     sa := nbits a 37 22, maxOut := nbits a 47 38 }).qpeEnd f 0

/-- The QP a command names, if the function owns it; else the command ends with `ST_QPE_STATE`. -/
def State.onQp (s : State) (f obj : Nat) (act : State → Nat → Qp → State) : State :=
  match mget s.qpe.qps (obj % 2 ^ 18) with
  | some q => if q.owner = f then act s (obj % 2 ^ 18) q else s.qpeEnd f 0x30
  | none => s.qpeEnd f 0x30

/-- MODIFY_QP (R129): NCQN, TC and MAX_OUT in any state but Retired, the SA only in Idle. -/
def execModifyQp (f obj : Nat) (s : State) : Res :=
  .next <|
    s.qpeCmd f 2 obj fun s => s.onQp f obj fun s n q =>
      let a := s.qpeArg f 0
      if nbits a 17 16 = 3 then s.qpeEnd f 0x01
      else if q.st = .retired ∨ (mget s.wqe.cqs (nbits a 15 0)).map (·.owner) ≠ some f then s.qpeEnd f 0x30
      else
        let q := { q with ncqn := nbits a 15 0, tc := nbits a 20 18, maxOut := nbits a 47 38 }
        let q := if q.st = .idle then { q with saEn := nbit a 21, sa := nbits a 37 22 } else q
        (s.setQp n q).qpeEnd f 0

/-- QPs bound to Ethernet port n. -/
def State.boundTo (s : State) (n : Nat) : Nat := (s.qpe.qps.filter fun e => decide (e.2.port = some n)).length

/-- Whether Ethernet port n may carry UMT of a transport (R153). -/
def State.umtUp (s : State) (transport n : Nat) : Bool :=
  s.on (Reg.umtPort n) F.umtPort_en && s.on (Reg.umtPort n) F.umtPort_up &&
    s.on (Reg.umtPort n) (if transport = 1 then F.umtPort_ip6_en else F.umtPort_ip4_en)

/-- The enabled, up port with the fewest bound QPs, the lowest on a tie (R153). -/
def State.bindPort (s : State) (transport : Nat) : Option Nat :=
  (List.range 12).foldl (fun b n =>
    if s.umtUp transport n then
      match b with
      | none => some n
      | some m => if s.boundTo n < s.boundTo m then some n else some m
    else b) none

/-- ARM_QP (R128, R153, R155): an Idle QP is given its peer and sends a connect with the initial PSN it chooses, a free
value; the command completes when the QP leaves Armed. -/
def execArmQp (f obj : Nat) (s : State) : Res :=
  .next <|
    s.qpeCmd f 3 obj fun s => s.onQp f obj fun s n q =>
      let a := s.qpeArg f 1
      if q.st ≠ .idle then s.qpeEnd f 0x30
      else
        let port := if q.transport = 0 then none else s.bindPort q.transport
        if q.transport ≠ 0 ∧ port = none then s.qpeEnd f 0x40
        else
          let q := { q with
            rnode := nbits a 15 0, rqpn := nbits a 33 16
            rip := if q.transport = 1 then s.qpeArg f 2 * 2 ^ 64 + s.qpeArg f 3 else s.qpeArg f 3 % 2 ^ 32
            st := .armed, cmd := some .arm, port := port, psn := s.freeVal.toNat % 2 ^ 24, ipsn := s.freeVal.toNat % 2 ^ 24, peerInc := 0
            una := [], reads := [], rx := [], txq := [], ctl := [] }
          let s := s.draw
          let q := s.startTimer q
          let c := { s.qpPkt n q 8 0 with argA := q.psn }
          s.setQp n { q with una := [⟨.connect, 0, c, 0x10000, 0, 0, false, false⟩], ctl := [c] }

/-- What a QP's received packets hold in the in-flight counters of regions given back (R123). -/
def State.rxRelease (s : State) (q : Qp) : State :=
  q.rx.foldl (fun t r =>
    match r.reg with
    | some i => { t with qpe.regions := mupd t.qpe.regions i fun g => { g with inflight := g.inflight - 1 } }
    | none => t) s

/-- The end of a QP's transactions for RESET_QP or DESTROY_QP: its entries are flushed and the QP takes nothing more
(R129). -/
def State.qpEndAll (s : State) (n : Nat) (c : QpCmd) : State :=
  let s := s.dropTx n
  match mget s.qpe.qps n with
  | some q => (s.setQp n { q with st := .error, cmd := some c, ctl := [] }).finishAll 0x0B (s.qpEnts n)
  | none => s

/-- RESET_QP (R129, Table 6-1): from Armed, Active and Error. -/
def execResetQp (f obj : Nat) (s : State) : Res :=
  .next <|
    s.qpeCmd f 4 obj fun s => s.onQp f obj fun s n q =>
      if q.cmd = none ∧ (q.st = .armed ∨ q.st = .active ∨ q.st = .error) then s.qpEndAll n .reset else s.qpeEnd f 0x30

/-- DESTROY_QP (R129, Table 6-1): from Idle, Active and Error. -/
def execDestroyQp (f obj : Nat) (s : State) : Res :=
  .next <|
    s.qpeCmd f 5 obj fun s => s.onQp f obj fun s n q =>
      if q.cmd = none ∧ (q.st = .idle ∨ q.st = .active ∨ q.st = .error) then s.qpEndAll n .destroy else s.qpeEnd f 0x30

/-- A QP as CREATE_QP left it, with its arguments. -/
def Qp.idle (q : Qp) : Qp :=
  { owner := q.owner, ncqn := q.ncqn, transport := q.transport, tc := q.tc, saEn := q.saEn, sa := q.sa, maxOut := q.maxOut }

/-- QP_DRAIN_END (R127, R129): the drain of a RESET_QP or DESTROY_QP ends: the QP is Idle, or Retired for 1 s. -/
def execQpDrainEnd (q : Nat) (s : State) : Res :=
  .next <|
    match mget s.qpe.qps q with
    | some p =>
      if s.hif.flushes.any fun x => match x.who with | .notice n _ => decide (n = q) | _ => false then s
      else match p.cmd with
        | some .reset => ((s.rxRelease p).setQp q p.idle).qpeEnd p.owner 0
        | some .destroy =>
          let r : Qp := { p.idle with
            st := .retired, rnode := p.rnode, rqpn := p.rqpn, peerInc := p.peerInc, lastStatus := p.lastStatus
            retireAt := some (s.clk + 1000000000) }
          ((s.rxRelease p).setQp q r).qpeEnd p.owner 0
        | _ => s
    | none => s

/-- The codes of Table 6-5. -/
def QpSt.code : QpSt → Nat
  | .idle => 0
  | .armed => 1
  | .active => 2
  | .error => 3
  | .retired => 4

/-- QUERY_QP (Table 6-5). -/
def execQueryQp (f obj : Nat) (s : State) : Res :=
  .next <|
    s.qpeCmd f 6 obj fun s => s.onQp f obj fun s n q =>
      (s.qpeRet f
        (q.ncqn + q.transport * 2 ^ 16 + q.tc * 2 ^ 18 + b2n q.saEn * 2 ^ 21 + q.sa * 2 ^ 22 + q.maxOut * 2 ^ 38)
        (q.rnode + q.rqpn * 2 ^ 16 + q.peerInc * 2 ^ 34 + q.st.code * 2 ^ 50 + q.lastStatus * 2 ^ 53)
        ((s.qpe.trk.filter fun t => t.qp = n).length) 0).qpeEnd f 0

/-- QP_RETIRE_EXPIRY (R127): 1 s after its last transaction a Retired QP becomes free. -/
def execQpRetireExpiry (q : Nat) (s : State) : Res :=
  .next <|
    match mget s.qpe.qps q with
    | some p =>
      (match p.st, p.retireAt with
        | .retired, some t => if t ≤ s.clk then { s with qpe.qps := mdel s.qpe.qps q } else s
        | _, _ => s)
    | none => s

/-! ### Regions -/

/-- Regions a function has registered. -/
def State.regionUse (s : State) (f : Nat) : Nat := (s.qpe.regions.filter fun e => decide (e.2.owner = some f)).length

/-- The lowest index never used, or else the one freed first (R119). -/
def State.freeIndex (s : State) : Option Nat :=
  if s.qpe.nextIdx < 2 ^ 24 then some s.qpe.nextIdx else s.qpe.freed.head?

/-- The region that the argument registers of function f describe (Table 6-6). -/
def State.argRegion (s : State) (f gen port half cid : Nat) : Region :=
  let a := s.qpeArg f 1
  { owner := some f, lastOwner := f, gen := gen, base := s.qpeArg f 0, len := nbits a 47 0, space := nbits a 49 48,
    localW := nbit a 50, remoteR := nbit a 51, remoteW := nbit a 52, port := port, half := half, cid := cid,
    probe := if s.qpeArg f 2 / 8 = 0 then s.qpeArg f 0 else s.qpeArg f 2 / 8 * 8 }

/-- A region taken for function f: its index's generation goes up, and the key is returned (R117, R119). -/
def State.regionTake (s : State) (f port half cid : Nat) : State :=
  match s.freeIndex with
  | none => s.qpeEnd f 0x31
  | some i =>
    let gen := (((mget s.qpe.regions i).map (·.gen)).getD 0 + 1) % 256
    let s := { s with qpe.regions := mput s.qpe.regions i (s.argRegion f gen port half cid),
                      qpe.nextIdx := max s.qpe.nextIdx (i + 1), qpe.freed := s.qpe.freed.filter (· ≠ i) }
    ((s.wr (Reg.qpeArg f 3) (BitVec.ofNat 64 (i * 256 + gen))).wf (Reg.qpeCmd f) F.qpeCmd_obj i).qpeEnd f 0

/-- The links a probe tries in the order of R49. -/
def State.probeLinks (s : State) (f : Nat) : List (Nat × Nat) :=
  let a := s.qpeArg f 1
  if nbit a 53 then [(nbits a 55 54, nbits a 56 56)]
  else [1, 2, 3, 0].flatMap fun n =>
    if s.on (Reg.hifPortCfg n) F.hifPortCfg_bifurcate then [(n, 0), (n, 1)] else [(n, 0)]

/-- A probe's read issued on its first link (R48). -/
def State.probeRead (s : State) (f : Nat) (l : List (Nat × Nat)) : State :=
  match l with
  | [] => s
  | (n, h) :: _ => s.emit .tlpRead [n, h, 0, (s.argRegion f 0 n h 0).probe, 8]

/-- Whether the arguments of a registration are refused (R118). -/
def State.regBad (s : State) (f : Nat) : Bool :=
  let r := s.argRegion f 0 0 0 0
  let size := (s.part f).2 - (s.part f).1
  decide (r.len = 0) || decide (2 ^ 64 < r.base + r.len) || (decide (r.space = 3) && decide (f ≠ 0)) ||
    (decide (r.space = 0) && (decide (2 ^ 43 < r.base + r.len) ||
      (!s.on (Reg.xltFnCfg f) F.xltFnCfg_dev_en && decide (size < r.base + r.len)))) ||
    (decide (r.space = 2) && (decide (r.probe < r.base) || decide (r.base + r.len < r.probe + 8)))

/-- REGISTER (R117-R119, R48, R49): a region is registered, after a probe when it lies in space 2. -/
def execRegister (f : Nat) (s : State) : Res :=
  .next <|
    s.qpeCmd f 8 (s.rf (Reg.qpeCmd f) F.qpeCmd_obj) fun s =>
      if s.regBad f then s.qpeEnd f 0x32
      else if s.quota f F.vfmFnQuota_reg 4096 (2 ^ 24) ≤ s.regionUse f ∨ s.freeIndex = none then s.qpeEnd f 0x31
      else if (s.argRegion f 0 0 0 0).space = 2 then
        let l := s.probeLinks f
        ({ s with hif.probes := s.hif.probes ++ [Probe.mk f l] }).probeRead f l
      else s.regionTake f 0 0 0

/-- A device's entry on a link marked unreachable, with its event, unless it is so already (R50, R51). -/
def State.peerLost (s : State) (n h cid : Nat) : State :=
  let hit : Peer → Bool := fun p => decide (p.port = n) && decide (p.half = h) && decide (p.cid = cid) && p.reach
  if s.hif.peers.any hit then
    ({ s with hif.peers := s.hif.peers.map fun p => if hit p then { p with reach := false } else p }).raise .warning 1 4
      (inst := n) (arg0 := cid % 2 ^ 16 + h * 2 ^ 16)
  else s

/-- PEER_PROBE_COMPLETE (R48-R50): the probe for function f's registration ends on the link on trial, with the device's
completer ID: the region is registered, or the next link is tried, or the registration fails. -/
def execPeerProbeComplete (f : Nat) (ok : Bool) (cid : Nat) (s : State) : Res :=
  .next <|
    match s.hif.probes.find? (fun p => decide (p.f = f)) with
    | none => s
    | some p =>
      let rest := s.hif.probes.filter fun x => x.f ≠ f
      match p.links with
      | [] => ({ s with hif.probes := rest }).qpeEnd f 0x0C
      | (n, h) :: l =>
        if ok ∧ s.linkUp n h then
          let s := { s with hif.probes := rest }
          let mine : Peer → Bool := fun x => decide (x.port = n) && decide (x.half = h) && decide (x.cid = cid)
          if s.hif.peers.any mine then
            ({ s with hif.peers := s.hif.peers.map fun x => if mine x then { x with reach := true } else x }).regionTake f n h cid
          else if 64 ≤ (s.hif.peers.filter fun x => x.port = n).length then
            (s.raise .warning 1 3 (fn := f) (inst := n)).qpeEnd f 0x0C
          else ({ s with hif.peers := s.hif.peers ++ [Peer.mk n h cid true] }).regionTake f n h cid
        else
          let s := s.peerLost n h cid
          match l with
          | [] => ({ s with hif.probes := rest }).qpeEnd f 0x0C
          | l => ({ s with hif.probes := rest ++ [Probe.mk f l] }).probeRead f l

/-- The region of an index, if function f owns it. -/
def State.ownRegion (s : State) (f i : Nat) : Option Region :=
  match mget s.qpe.regions i with
  | some r => if r.owner = some f ∧ r.use = .app then some r else none
  | none => none

/-- The generation of an index goes up and its drain starts (R122, R123). -/
def State.revokeStart (s : State) (i : Nat) (r : Region) (free : Bool) : State :=
  { s with qpe.regions := mput s.qpe.regions i { r with gen := (r.gen + 1) % 256, revoking := some free } }

/-- DEREGISTER (R125): the region is revoked, then freed; it waits for a revoke that is under way. -/
def execDeregister (f obj : Nat) (s : State) : Res :=
  .next <|
    s.qpeCmd f 9 obj fun s =>
      let i := obj % 2 ^ 24
      match s.ownRegion f i with
      | none => s.qpeEnd f 0x30
      | some r =>
        if r.revoking.isSome then { s with qpe.dereg := mput s.qpe.dereg f i } else s.revokeStart i r true

/-- QUERY_REGION (Table 6-6). -/
def execQueryRegion (f obj : Nat) (s : State) : Res :=
  .next <|
    s.qpeCmd f 10 obj fun s =>
      let i := obj % 2 ^ 24
      match s.ownRegion f i with
      | none => s.qpeEnd f 0x30
      | some r =>
        (s.qpeRet f r.base
          (r.len + r.space * 2 ^ 48 + b2n r.localW * 2 ^ 50 + b2n r.remoteR * 2 ^ 51 + b2n r.remoteW * 2 ^ 52 +
            (if r.space = 2 then r.port * 2 ^ 54 + r.half * 2 ^ 56 else 0))
          (if r.space = 2 then r.probe else 0)
          (i * 256 + r.gen + r.inflight % 2 ^ 20 * 2 ^ 32 + b2n r.revoking.isSome * 2 ^ 52)).qpeEnd f 0

/-- REVOKE (R122, R125): a write of `QPE_REVOKEf` with `GO` = 1. -/
def execRevoke (f : Nat) (v : Word) (s : State) : Res :=
  .next <|
    let k := Reg.qpeRevoke f
    s.cmd f k fun s =>
      if s.on k F.qpeRevoke_go then s.wf k F.qpeRevoke_err 1
      else
        let i := fld v 23 0
        let s := s.wf k F.qpeRevoke_index i
        let s := if fld v 62 62 = 1 then s.wf k F.qpeRevoke_done 0 else s
        let s := if fld v 61 61 = 1 then s.wf k F.qpeRevoke_err 0 else s
        match s.ownRegion f i with
        | none => s.wf k F.qpeRevoke_status 0x30
        | some r =>
          if r.revoking.isSome then s.wf k F.qpeRevoke_status 0x30
          else
            let s := s.revokeStart i r false
            ((s.wf k F.qpeRevoke_gen ((r.gen + 1) % 256)).wf k F.qpeRevoke_status 0).wf k F.qpeRevoke_go 1

/-- A command of the COL block ends (R109). -/
def State.colEnd (s : State) (f st : Nat) : State :=
  (s.wf (Reg.colCmd f) F.colCmd_go 0).wf (Reg.colCmd f) F.colCmd_status st

/-- A command of the PRF block ends (R109). -/
def State.prfEnd (s : State) (f st : Nat) : State :=
  (s.wf (Reg.prfCmd f) F.prfCmd_go 0).wf (Reg.prfCmd f) F.prfCmd_status st

/-- The staging region of a proof job is revoked: a DESTROY_JOB that waits for it completes (R451). -/
def State.jobFreed (s : State) (f : Nat) : State :=
  if s.on (Reg.prfCmd f) F.prfCmd_go ∧ s.rf (Reg.prfCmd f) F.prfCmd_cmd = 9 then s.prfEnd f 0 else s

/-- REVOKE_DRAIN_END (R123, R125): the in-flight counter of a region under revoke is 0: `DONE` is set, or the index of a
DEREGISTER is freed; a DEREGISTER that waited starts. -/
def execRevokeDrainEnd (i : Nat) (s : State) : Res :=
  .next <|
    match mget s.qpe.regions i with
    | none => s
    | some r =>
      if r.inflight ≠ 0 then s
      else match r.revoking with
        | none => s
        | some true =>
          let s := { s with qpe.regions := mput s.qpe.regions i { r with owner := none, revoking := none, use := .app, stage := none }
                            qpe.freed := s.qpe.freed ++ [i] }
          (match r.use with
          | .app => if s.on (Reg.qpeCmd r.lastOwner) F.qpeCmd_go ∧ s.rf (Reg.qpeCmd r.lastOwner) F.qpeCmd_cmd = 9 then s.qpeEnd r.lastOwner 0 else s
          | .group g =>
            let s : State := { s with col.groups := mdel s.col.groups g }
            if s.on (Reg.colCmd r.lastOwner) F.colCmd_go ∧ s.rf (Reg.colCmd r.lastOwner) F.colCmd_cmd = 6 then s.colEnd r.lastOwner 0 else s
          | .job f => s.jobFreed f)
        | some false =>
          let f := r.lastOwner
          let r := { r with revoking := none }
          let s := { s with qpe.regions := mput s.qpe.regions i r }
          let s := (s.wf (Reg.qpeRevoke f) F.qpeRevoke_done 1).wf (Reg.qpeRevoke f) F.qpeRevoke_go 0
          if mget s.qpe.dereg f = some i then ({ s with qpe.dereg := mdel s.qpe.dereg f }).revokeStart i r true else s

/-- The event of an aggregation window, with its count (R124, R142, R192, R244, R253). -/
def State.aggEvent (s : State) (a : Agg) : State :=
  match a.kind with
  | .revokedWrite => s.raise .warning 5 1 (fn := a.fn) (inst := a.inst) (arg0 := a.arg0) (arg1 := a.arg1) (count := a.count)
  | .revokedRead => s.raise .warning 5 2 (fn := a.fn) (inst := a.inst) (arg0 := a.arg0) (arg1 := a.arg1) (count := a.count)
  | .remoteViolation =>
    s.raise .fault 5 5 (fn := a.fn) (inst := a.inst) (arg0 := a.arg0) (arg1 := a.arg1) (arg2 := a.arg2) (count := a.count)
  | .policed => s.raise .warning 9 4 (fn := a.fn) (inst := a.inst) (arg0 := a.arg0) (arg1 := a.arg1) (count := a.count)
  | .authFail => s.raise .fault 10 2 (fn := a.fn) (inst := a.inst) (arg0 := a.arg0) (arg1 := a.arg1) (count := a.count)
  | .hopLimit => s.raise .warning 7 4 (fn := a.fn) (inst := a.inst) (arg0 := a.arg0) (arg1 := a.arg1) (count := a.count)

/-- REFUSAL_AGGREGATION_END (R124): the 1 ms of the i-th window open has passed, and its one event is issued. -/
def execRefusalAggregationEnd (i : Nat) (s : State) : Res :=
  .next <|
    match s.mon.aggs[i]? with
    | some a =>
      if a.start + 1000000 ≤ s.clk then ({ s with mon.aggs := s.mon.aggs.eraseIdx i }).aggEvent a else s
    | none => s

end Sys2Proof.Machine
end

