-- ==== Sys2Proof/Machine/TimeOps.lean ====
section
/-! DEFINITION. The timebase, gates and token buckets (10_time_and_gates.md) as every other engine uses them. -/

namespace Sys2Proof.Machine

/-! ### The timebase -/

/-- `TIM_RATE` clamped to its range (R224). -/
def clampRate (r : Int) : Int := max (-2147484) (min 2147484 r)

/-- The rate in force. -/
def State.rate (s : State) : Int := sgn 32 (s.rf Reg.timRate F.timRate_rate)

/-- VFs whose `EN` is 1. -/
def State.enabledVfs (s : State) : List Nat :=
  (s.regs.filter fun e => decide (Reg.vfmFnCtrl 1 ≤ e.1) && decide (e.1 ≤ Reg.vfmFnCtrl 1024) &&
    decide ((e.1 - Reg.vfmFnCtrl 0) % 64 = 0) && decide (fld e.2 0 0 = 1)).map fun e => (e.1 - Reg.vfmFnCtrl 0) / 64

/-- The ratio k that burin b of plate p runs at (R502): its own limit, or in fixed mode the lowest exposed limit. -/
def State.burinK (s : State) (p b : Nat) : Nat :=
  let op := s.rf (Reg.pwrPlate p) F.pwrPlate_op
  if s.dmode p then (List.range 32).foldl (fun a i => min a (s.kPos p i op)) 64 else s.kPos p b op

/-- Cycles of a clock of num/den per ns in the nanosecond that begins at t. -/
def cyclesAt (num den t : Nat) : Nat := (t + 1) * num / den - t * num / den

/-- The meters that count time (Table 4-5): ENABLED_NS, and of each running plate PLATE_CYCLES and BURIN_CYCLES. -/
def State.meterTick (s : State) (ns : Nat) : State :=
  let s := (0 :: s.enabledVfs).foldl (fun t f => t.meter f 15 ns) s
  (s.plt.plates.filter fun e => s.runs e.1 && decide (s.plateOwner e.1 ≤ 1024)).foldl (fun t e =>
    let p := e.1
    let f := t.plateOwner p
    let bs := (List.range 32).filter fun b => decide ((t.core (.burin p b)).run ≠ .halted)
    (t.meter f 6 (cyclesAt 5 2 t.clk)).meter f 7 (bs.foldl (fun a b => a + cyclesAt (5 * t.burinK p b) 128 t.clk) 0)) s

/-- One TBCLK cycle of the timebase and of the block's clocks (R222). -/
def State.tick (s : State) : State :=
  let i : Int := ((s.time * 2 ^ 32 + s.frac : Nat) : Int) + 4294967296 + s.rate
  let t : Nat := wrap 96 i
  let s := s.meterTick (t / 2 ^ 32 - s.time)
  { s with time := t / 2 ^ 32, frac := t % 2 ^ 32, clk := s.clk + 1 }

/-- The root in use (R230). -/
def State.effRoot (s : State) : Nat :=
  if s.tim.rootLost then s.rf Reg.timCtrl F.timCtrl_backup_node else s.rf Reg.timCtrl F.timCtrl_root_node

/-- The role and source in force (Table 10-1): the backup node acts as root with no source once the root is lost
(R230). -/
def State.timeRole (s : State) : Nat × Nat :=
  if s.tim.rootLost ∧ s.node = s.rf Reg.timCtrl F.timCtrl_backup_node then (1, 0)
  else
    let r := s.rf Reg.timCtrl F.timCtrl_role
    let c := s.rf Reg.timCtrl F.timCtrl_src
    (if r = 3 then 0 else r, if c = 3 then 0 else c)

/-- Whether samples discipline the timebase. -/
def State.disciplined (s : State) : Bool := decide (s.timeRole.1 = 2) || (decide (s.timeRole.1 = 1) && decide (s.timeRole.2 ≠ 0))

/-- The parent port of a follower, 15 for none (R226). -/
def State.parent (s : State) : Nat :=
  let p := (s.route s.injState s.effRoot).2
  if s.timeRole.1 = 2 ∧ s.effRoot ≠ s.node ∧ s.fabActive p then p else 15

/-- `HOLDOVER` (R228): locked by samples, and none has come since. -/
def State.holdover (s : State) : Bool := s.tlock && s.disciplined && decide (s.tim.lastSample < s.clk)

/-- `LOCK` takes a value; a change is latched and raises its warning (R228). -/
def State.setTlock (s : State) (b : Bool) : State :=
  if s.tlock = b then s
  else
    let s := (s.wf Reg.timStatus F.timStatus_lock (b2n b)).wf Reg.timStatus F.timStatus_lock_chg 1
    s.raise .warning 9 2 (arg0 := b2n b)

/-- A discipline sample passed on (R200, R227). -/
def State.pushSample (s : State) (theta : Int) (port : Nat) (lock : Bool) : State :=
  { s with tim.samples := s.tim.samples ++ [(theta, port, lock)] }

/-- The offset of the partner on quad n passed on as a sample, at most once per 1 µs (R200). -/
def State.linkSample (s : State) (n : Nat) (offset : Int) (lock : Bool) : State :=
  let l := s.link n
  let due := match l.sampleAt with | some t => decide (t + 1000 ≤ s.clk) | none => true
  if due then (s.setLink n { l with sampleAt := some s.clk }).pushSample (-offset) n lock else s

/-! ### Hatch lists -/

/-- The active bank of port n. -/
def State.hlBank (s : State) (n : Nat) : Nat := s.rf (Reg.timHlCtrl n) F.timHlCtrl_active

/-- Entries in force of bank b. -/
def State.hlLen (s : State) (n b : Nat) : Nat := max 1 (min 1024 (s.rf (Reg.timHlCycle n b) F.timHlCycle_len))

/-- The entries of bank b as durations and masks (R235). -/
def State.hlEnts (s : State) (n b : Nat) : List (Nat × Nat) :=
  (List.range (s.hlLen n b)).map fun i =>
    (max 1 (s.rf (Reg.timHlEnt n b i) F.timHlEnt_duration), s.rf (Reg.timHlEnt n b i) F.timHlEnt_mask)

/-- Entries laid into a cycle of c ns: the last one lasts to its end, what passes the end is cut (R236). -/
def fitCycle : Nat → List (Nat × Nat) → List (Nat × Nat)
  | _, [] => []
  | c, [(_, m)] => if c = 0 then [] else [(c, m)]
  | c, (d, m) :: l => if c = 0 then [] else if c ≤ d then [(c, m)] else (d, m) :: fitCycle (c - d) l

/-- The length of a list of entries. -/
def segLen (l : List (Nat × Nat)) : Nat := l.foldl (fun a e => a + e.1) 0

/-- One cycle of bank b. -/
def State.hlCycle (s : State) (n b : Nat) : List (Nat × Nat) :=
  let l := s.hlEnts n b
  let c := s.rf (Reg.timHlCycle n b) F.timHlCycle_cycle
  fitCycle (if c = 0 then segLen l else c) l

/-- The first cycle start of the active bank. -/
def State.hlOrigin (s : State) (n : Nat) : Nat :=
  match (mget s.tim.hatch n).bind (·.origin) with
  | some o => o
  | none => s.rf (Reg.timHlBase n (s.hlBank n)) F.timHlBase_base

/-- Whether the gates of port n are all open whatever its list says (R236, R240). -/
def State.hlOff (s : State) (n : Nat) : Bool :=
  !s.on (Reg.timHlCtrl n) F.timHlCtrl_en || (!s.tlock && s.on Reg.timCtrl F.timCtrl_open_unlocked)

/-- What is left of a cycle from an offset on, with the entry's number first. -/
def segFrom : Nat → Nat → List (Nat × Nat) → Nat × List (Nat × Nat)
  | _, i, [] => (i, [])
  | o, i, (d, m) :: l => if o < d then (i, (d - o, m) :: l) else segFrom (o - d) (i + 1) l

/-- How long class t stays open from the start of a list of entries. -/
def openRun (t : Nat) : List (Nat × Nat) → Nat
  | [] => 0
  | (d, m) :: l => if nbit m t then d + openRun t l else 0

/-- How long class t stays open, in a cycle of entries c, from offset o: none for ever. -/
def openFrom (c : List (Nat × Nat)) (t o : Nat) : Option Nat :=
  if c.all fun e => nbit e.2 t then none else some (openRun t ((segFrom o 0 c).2 ++ c))

/-- The time in ns before the gate of class t on port n next closes, 0 while it is closed, none if it does not close
(R236, R237, R239). -/
def State.openLeft (s : State) (n t : Nat) : Option Nat :=
  if s.hlOff n then none
  else
    let c := s.hlCycle n (s.hlBank n)
    let o := s.hlOrigin n
    let here := if s.time < o then (openFrom c t 0).map fun x => (o - s.time) + x
                else openFrom c t ((s.time - o) % segLen c)
    match (mget s.tim.hatch n).bind (·.swapAt) with
    | none => here
    | some w =>
      let toSwap := w - s.time
      let stays := match here with | none => true | some x => decide (toSwap ≤ x)
      if stays then (openFrom (s.hlCycle n (1 - s.hlBank n)) t 0).map (toSwap + ·) else here

/-- The longest open window of class t in the active list of port n; none if it never closes (R238). -/
def State.longestOpen (s : State) (n t : Nat) : Option Nat :=
  let c := s.hlCycle n (s.hlBank n)
  if c.all fun e => nbit e.2 t then none
  else some (((List.range c.length).map fun i => openRun t ((c ++ c).drop i)).foldl max 0)

/-- Whether a window of class t opens on port n at this nanosecond. -/
def State.opensNow (s : State) (n t : Nat) : Bool :=
  let c := s.hlCycle n (s.hlBank n)
  let o := s.hlOrigin n
  decide (o ≤ s.time) &&
    (let x := (s.time - o) % segLen c
     let i := (segFrom x 0 c).1
     let here := nbit ((c.getD i (0, 0)).2) t
     let prev := nbit ((c.getD ((i + c.length - 1) % c.length) (0, 0)).2) t
     here && !prev && decide (segLen (c.take i) = x))

/-- Whether a packet of class t that takes tx ps may start on port n: none no, some true when it is longer than any window
and starts at an opening (R237, R238). -/
def State.gate (s : State) (n t tx : Nat) : Option Bool :=
  let need := tx + s.rf (Reg.timHlCtrl n) F.timHlCtrl_guard * 1000
  match s.openLeft n t with
  | none => some false
  | some x =>
    if need ≤ x * 1000 ∧ 0 < x then some false
    else match s.longestOpen n t with
      | some l => if 0 < l ∧ l * 1000 < need ∧ s.opensNow n t then some true else none
      | none => none

/-- A packet started in an opening that is too short for it (R238). -/
def State.overlong (s : State) (n t : Nat) : State :=
  (s.incF (Reg.timHlStatus n) F.timHlStatus_overlong 1).raiseMs .warning 9 3 n (inst := n) (arg0 := t)

/-- `ENTRY` shows the entry in force of port n (R236). -/
def State.hlEntry (s : State) (n : Nat) : State :=
  if s.hlOff n ∨ s.time < s.hlOrigin n then s
  else
    let c := s.hlCycle n (s.hlBank n)
    s.wf (Reg.timHlStatus n) F.timHlStatus_entry (segFrom ((s.time - s.hlOrigin n) % segLen c) 0 c).1

/-- The timebase jumps to an instant: the entries in force are recomputed (R236), and the step is reported (R227). -/
def State.jump (s : State) (t frac : Nat) (bySet : Bool) : State :=
  let d : Int := (t : Int) - s.time
  let s := { s with time := t % 2 ^ 64, frac := frac }
  let s := (List.range 12).foldl State.hlEntry s
  (s.cpfNote 0 0x08 (leBytes 8 (t % 2 ^ 64))).raise .warning 9 1 (arg0 := b2n bySet) (arg1 := wrap 64 d)

/-! ### Token buckets -/

/-- Whether a key is that of a bucket's register (R241). -/
def bucketKey (k : Nat) : Bool :=
  (decide (Reg.timShpPort 0 0 ≤ k) && decide (k < Reg.timShpPort 12 0) && decide ((k - Reg.timShpPort 0 0) % 8 = 0)) ||
  (decide (Reg.timShpFn 0 ≤ k) && decide (k < Reg.timShpFn 1025) && decide ((k - Reg.timShpFn 0) % 8 = 0))

/-- The bucket that a register's value describes, with a count. -/
def bucketOf (v : Word) (count last : Nat) : Bucket :=
  { count := count, last := last, period := max 1 (fld v 15 0), quantum := max 1 (fld v 31 16), burst := max 1 (fld v 47 32) }

/-- A token taken from the bucket of a register; a disabled bucket passes every packet (R242). -/
def State.token (s : State) (k : Nat) : Option State :=
  if s.on k F.timShpFn_en then
    match mget s.tim.buckets k with
    | some b => if 0 < b.count then some { s with tim.buckets := mput s.tim.buckets k { b with count := b.count - 1 } } else none
    | none => some s
  else some s

end Sys2Proof.Machine
end

