-- ==== Sys2Proof/Machine/CollOps.lean ====
section
/-! DEFINITION. The collective engine (16_collectives.md): checks, queues, staging, records, deliveries and failures; what the
collective commands, the rows that can break a collective and CISSUE share. -/

namespace Sys2Proof.Machine

/-- Group g. -/
def State.group (s : State) (g : Nat) : Option Group := mget s.col.groups g

/-- Group g changed. -/
def State.setGroup (s : State) (g : Nat) (x : Group) : State := { s with col.groups := mput s.col.groups g x }

/-- Group g changed by a function, where it exists. -/
def State.updGroup (s : State) (g : Nat) (f : Group → Group) : State := { s with col.groups := mupd s.col.groups g f }

/-- The running collective of group g changed. -/
def State.updRun (s : State) (g : Nat) (f : CollRun → CollRun) : State := s.updGroup g fun x => { x with run := x.run.map f }

/-! ### Checks (Table 16-5) -/

/-- Whether the types of a descriptor are allowed for its operator (Table 16-2). -/
def collTypes (ws : List Nat) : Bool :=
  let t := Elt.ofCode (cType ws)
  let listed := t.isSome && (Elt.ofCode (cWire ws)).isSome && (Elt.ofCode (cDtype ws)).isSome
  let same := decide (cType ws = cWire ws) && decide (cType ws = cDtype ws)
  match cOp ws with
  | 0 => listed && same
  | 1 | 2 | 3 => same && tyIn (cType ws) [.f64, .f32, .f16, .bf16, .i32]
  | 4 => same && tyIn (cType ws) [.f64, .f32]
  | _ => listed

/-- Whether an operator is allowed for a kind. -/
def collOp (ws : List Nat) : Bool :=
  match cOp ws with
  | 0 => decide (cKind ws = 3) || decide (cKind ws = 4) || decide (cKind ws = 6) || decide (cKind ws = 7)
  | 1 | 2 | 3 | 4 | 8 => true
  | _ => false

/-- Wire bytes of the whole vector. -/
def wireBytes (ws : List Nat) : Nat := cUnits ws * wireUnit ws

/-- Whether an enabled group binds plate p (R370). -/
def State.plateBound (s : State) (p : Nat) : Bool :=
  (mget s.col.bound p).isSome || s.col.groups.any fun e => decide (e.2.st ≠ .created) && e.2.plates.contains p

/-- The first check that a descriptor of function f fails: status and word mask (R372). -/
def State.collCheck (s : State) (f : Nat) (ws : List Nat) : Option (Nat × Nat) :=
  let g := s.group (cGroup ws)
  let m (c : Bool) (v : Nat) : Nat := if c then v else 0
  if cKind ws = 0 then
    let p := cPlate ws
    if s.plateOwner p ≠ f ∨ s.plateBound p ∨ s.runs p ∨ s.absent p ∨ s.lost p ∨ (mget s.col.launches p).isSome then some (0x62, 8)
    else none
  else
    let used := match g with | some x => (ringsUsed x ws).length | none => 6
    let bad3 := decide (7 < cKind ws) || !collOp ws
    let bad4 := !collTypes ws || decide (used < cStripes ws)
    if bad3 ∨ bad4 then some (0x60, m bad3 8 + m (!bad3 && bad4) 16)
    else match g with
      | none => some (0x61, 8)
      | some x =>
        if x.owner ≠ f ∨ x.st ≠ .ready then some (0x61, 8)
        else
          let dims := (List.range 6).any fun d => nbit (cDims ws) d && !(x.rings.any fun e => decide (e.1 = d))
          let n := members x ws
          let zero := decide ((cCount ws = 0) ≠ (cKind ws = 7))
          let mult := isBlk (elt (cWire ws)) && decide (cCount ws % (32 * n) ≠ 0)
          let root := decide (n ≤ cRoot ws)
          if dims ∨ zero ∨ mult ∨ root then
            some (0x60, Nat.lor (Nat.lor (m dims 16) (m zero 8)) (Nat.lor (m (mult && !dims) 24) (m root 64)))
          else
            let user := decide (x.pkind = 1)
            let b3 := (decide (cOp ws = 8) && !user) || (decide (cOp ws ≠ 0) && decide (x.pkind = 2))
            let b4 := !user && (decide (cWire ws ≠ cType ws) || decide (cDtype ws ≠ cType ws) || cGhook ws)
            if b3 ∨ b4 then some (0x60, m b3 8 + m b4 16)
            else
              let small := (ringsUsed x ws).foldl (fun a e => min a e.2.size) 256
              if x.carryLen * 65536 < cdiv (wireBytes ws) small then some (0x60, 24) else none

/-! ### Ends -/

/-- What a collective was for learns its end (R374, R304): a work entry completes with the status, `INFO` and the bytes
written at `DST`; a ticket ends. -/
def State.collTell (s : State) (who : CollFor) (st info bytes : Nat) : State :=
  match who with
  | .entry w slot =>
    let s := s.updEnt w slot fun e => { e with info := info, bytes := bytes, open_ := 0, allSent := true, status := st }
    if st = 0 then s.settle w slot else s.finish w slot st
  | .ticket p t =>
    match mget (s.plate p).tickets t with
    | some _ => s.setPlate p { s.plate p with tickets := mput (s.plate p).tickets t { status := some st } }
    | none => s

/-- The records of group g that are not DONE belong to no collective any more. -/
def State.orphan (s : State) (g : Nat) : State :=
  { s with col.recs := s.col.recs.map fun e => (e.1, { e.2 with open_ := e.2.open_.map fun o =>
      match o.2 with
      | some (h, _) => if h = g then (o.1, none) else o
      | none => o }) }

/-- The ring QPs of a group. -/
def Group.qps (g : Group) : List Nat := g.rings.flatMap fun e => [e.2.next, e.2.prev]

/-- The running collective of group g ends with a status other than OK and ROLLED_BACK (R387): its ring QPs move to Error,
the group breaks and its queue is flushed. -/
def State.collFail (s : State) (g st info : Nat) : State :=
  match s.group g with
  | none => s
  | some x =>
    match x.run with
    | none => s
    | some r =>
      let s := (s.setGroup g { x with run := none, queue := [], st := .broken, busy := [] }).orphan g
      let s := { s with col.notices := s.col.notices.filter fun n => ¬ x.qps.contains n.1 }
      let s := s.collTell r.job.who st info r.bytes
      let s := x.qps.foldl (fun t q => t.qpError q st) s
      x.queue.foldl (fun t j => t.collTell j.who 0x0B 0 0) s

/-- Every group's collective that depends on plate p ends with a status (Table 16-9), and the program is bound to
the plate no more. -/
def State.collPlate (s : State) (p st : Nat) : State :=
  let gs := s.col.groups.filter fun e => e.2.plates.contains p && e.2.run.isSome
  let s := gs.foldl (fun t e => t.collFail e.1 st p) s
  { s with col.bound := mdel s.col.bound p, col.recs := mdel s.col.recs p }

/-- A LAUNCH on plate p ends (R372). -/
def State.launchEnd (s : State) (p st info : Nat) : State :=
  match mget s.col.launches p with
  | some (j, _) => ({ s with col.launches := mdel s.col.launches p }).collTell j.who st info 0
  | none => s

/-- The collectives of a function's or every group end with ROLLED_BACK, and the groups are Ready again from number 0
(R389). -/
def State.collRollback (s : State) (g : Nat) : State :=
  match s.group g with
  | none => s
  | some x =>
    if x.st = .created then s
    else
      let s := (s.setGroup g { x with run := none, queue := [], st := .ready, busy := [], seq := 0 }).orphan g
      let s := { s with col.notices := s.col.notices.filter fun n => ¬ x.qps.contains n.1 }
      let s := match x.run with | some r => s.collTell r.job.who 0x0F 0 r.bytes | none => s
      x.queue.foldl (fun t j => t.collTell j.who 0x0F 0 0) s

/-- What the state of a ring QP gives a collective as the cause of a failure, if it is not Active: its last status, or that
it is in a state that sends nothing (R131). -/
def State.ringCause (s : State) (q : Nat) : Option Nat :=
  match mget s.qpe.qps q with
  | some x => if x.st = .active then none else if x.st = .error ∨ x.st = .retired then some x.lastStatus else some 0x30
  | none => some 0x30

/-- A running collective ends with a status whose INFO names ring and step: the spec does not state how the two lie in
INFO[15:0], so that is a free value (Table 16-9). -/
def State.collFailStep (s : State) (g st : Nat) : State := s.draw.collFail g st (s.freeVal.toNat % 65536)

/-- The running collectives one of whose ring QPs is not Active end (Table 16-9): with the QP's cause, or, where an ABORT has
just arrived on QP `aborted`, with `ST_COL_PEER_ABORT`. -/
def State.collSweep (s : State) (aborted : Option Nat := none) : State :=
  s.col.groups.foldl (fun t e =>
    match (t.group e.1).bind (·.run) with
    | none => t
    | some _ =>
      match e.2.rings.find? fun r => (t.ringCause r.2.next).isSome || (t.ringCause r.2.prev).isSome with
      | none => t
      | some (d, r) =>
        let q := if (t.ringCause r.next).isSome then r.next else r.prev
        if aborted = some q then t.collFail e.1 0x64 d else t.collFailStep e.1 ((t.ringCause q).getD 0x30)) s

/-- A WRITE of the collective engine on QP n fails (Table 16-9). -/
def State.collEngineFail (s : State) (n st : Nat) : State :=
  match s.col.groups.find? fun e => e.2.qps.contains n with
  | some e => s.collFailStep e.1 st
  | none => s

/-! ### The member's data -/

/-- The key under which the member holds a unit: of stage t's input, or (15) of the complete data. -/
def heldKey (stripe t u : Nat) : Nat := (stripe * 16 + t) * 2 ^ 40 + u

/-- Units put into what the member holds. -/
def CollRun.hold (r : CollRun) (stripe t u : Nat) (us : List (List Byte)) : CollRun :=
  { r with held := (us.zipIdx).foldl (fun m x => mput m (heldKey stripe t (u + x.2)) x.1) r.held }

/-- Units that the member holds. -/
def CollRun.units (r : CollRun) (stripe t u n : Nat) : List (List Byte) :=
  (List.range n).map fun i => (mget r.held (heldKey stripe t (u + i))).getD []

/-- Where a unit of stripe i lies in an array that holds only the member's own pieces, stripe after stripe. -/
def ownUnit (g : Group) (ws : List Nat) (i u : Nat) : Nat :=
  ((List.range i).foldl (fun a k => a + (finalIv (stripeIv g ws k) (stripeRings g ws k)).2) 0) +
    (u - (finalIv (stripeIv g ws i) (stripeRings g ws i)).1)

/-- Units of the member's own pieces. -/
def ownUnits (g : Group) (ws : List Nat) : Nat :=
  (List.range (stripes g ws)).foldl (fun a k => a + (finalIv (stripeIv g ws k) (stripeRings g ws k)).2) 0

/-- The place of a unit at `SRC`, and the units there. -/
def srcAt (g : Group) (ws : List Nat) (i u : Nat) : Nat × Nat :=
  if cKind ws = 3 then (ownUnit g ws i u, ownUnits g ws) else (u, cUnits ws)

/-- The place of a unit at `DST`, and the units there. -/
def dstAt (g : Group) (ws : List Nat) (i u : Nat) : Nat × Nat :=
  if cKind ws = 2 then (ownUnit g ws i u, ownUnits g ws) else (u, cUnits ws)

/-- The byte ranges of n units from u on in an array of `all` units of a type at an address (R336): codes, then scales. -/
def arrayRanges (t : Elt) (unit a all u n : Nat) : List (Nat × Nat) :=
  match blkCodes t with
  | some c => [(a + u * c, n * c), (a + all * c + u, n)]
  | none => [(a + u * eltBytes t unit, n * eltBytes t unit)]

/-- What an access to `SRC` or `DST` came to. -/
inductive Acq where
  | ok (s : State) (bs : List Byte) (ext : List Byte)
  | miss (s : State)
  | fail (s : State) (st : Nat)

/-- The bytes of ranges in a space, read for function f through group g's stream. -/
def State.collRead (s : State) (f sp g : Nat) (ext : List Byte) : List (Nat × Nat) → Acq
  | [] => .ok s [] ext
  | (a, n) :: l =>
    match s.xlRange f sp .read false 4 g (xlFuel n) a n with
    | (t, .ok ps) =>
      let bs := t.fetch ps ext
      match (t.fetchReqs f ps).collRead f sp g (ext.drop (t.extLen ps)) l with
      | .ok u r x => .ok u (bs ++ r) x
      | r => r
    | (t, .miss) => .miss t
    | (t, .fault _) => .fail t 0x04
    | (t, .down) => .fail t 0x0C

/-- Bytes written to ranges in a space for function f; link destinations are kept for the completion of WQ w (R45). -/
def State.collWrite (s : State) (f sp g : Nat) (w : Option Nat) (bs : List Byte) : List (Nat × Nat) → Acq
  | [] => .ok s [] []
  | (a, n) :: l =>
    match s.xlRange f sp .write false 4 g (xlFuel n) a n with
    | (t, .ok ps) =>
      let t := t.put f true ps (bs.take n)
      let t := match w with | some w => t.noteDests w f ps | none => t
      t.collWrite f sp g w (bs.drop n) l
    | (t, .miss) => .miss t
    | (t, .fault _) => .fail t 0x04
    | (t, .down) => .fail t 0x0C

/-- The WQ that waits for a collective. -/
def CollFor.wq : CollFor → Option Nat
  | .entry w _ => some w
  | .ticket _ _ => none

/-- The number under which the links written for the collectives of group g are kept: its WQ, or one beyond them. -/
def CollRun.dests (r : CollRun) (g : Nat) : Option Nat := some (r.job.who.wq.getD (0x60000 + g))

/-- n units of `SRC` from unit u of stripe i on, as an array of `TYPE`. -/
def State.readSrc (s : State) (g : Nat) (x : Group) (r : CollRun) (i u n : Nat) (ext : List Byte) : Acq :=
  let ws := r.job.words
  let (k, all) := srcAt x ws i u
  s.collRead r.job.fn (cSspace ws) g ext (if n = 0 then [] else arrayRanges (elt (cType ws)) (cUnit ws) (cw ws 1) all k n)

/-- An array of units of `DTYPE` written at `DST`, from unit u of stripe i on. -/
def State.writeDst (s : State) (g : Nat) (x : Group) (r : CollRun) (i u n : Nat) (bs : List Byte) : Acq :=
  let ws := r.job.words
  let (k, all) := dstAt x ws i u
  s.collWrite r.job.fn (cDspace ws) g (r.dests g) bs (if n = 0 then [] else arrayRanges (elt (cDtype ws)) (cUnit ws) (cw ws 2) all k n)

/-- Whether the member writes output at `DST` (Table 16-1). -/
def delivers (x : Group) (ws : List Nat) : Bool :=
  decide (cKind ws ≠ 7) && (decide (cKind ws ≠ 5) || decide (selfPos x ws = cRoot ws))

/-- Whether the program serves records in the first phase: there is an operator. -/
def combines (ws : List Nat) : Bool := decide (cOp ws ≠ 0) && (decide (cKind ws = 1) || decide (cKind ws = 2) || decide (cKind ws = 5))

/-- Whether gathered chunks go to the program: `GHOOK`, and the rounding of BSUM at delivery (Table 16-2). -/
def gathers (ws : List Nat) : Bool := cGhook ws || (combines ws && decide (cOp ws = 4))

/-! ### Local data and readiness -/

/-- The chunks received that the member is done with. -/
def CollRun.isOver (r : CollRun) (c : Chunk) : Bool := r.spent.contains c.key

/-- Whether the receipts given that bring any of n units from u on are over. -/
def CollRun.allOver (r : CollRun) (l : List Chunk) (u n : Nat) : Bool :=
  l.all fun c => !unitsMeet u n c.unit c.units || r.isOver c

/-- What a stripe receives on stage t of a phase. -/
def stageRecvs (x : Group) (ws : List Nat) (ph i t : Nat) : List Chunk :=
  ((ringsLive x ws).flatMap fun e => planRing x ws e.1 false).filter fun c =>
    decide (c.stripe = i) && decide (c.ph = ph) && decide (c.stage = t)

/-- Whether the member's local data for a chunk is there (R375, R377, R385). -/
def CollRun.localReady (r : CollRun) (x : Group) (c : Chunk) : Bool :=
  let ws := r.job.words
  let rn := (stripeRings x ws c.stripe).length
  match c.ph with
  | 0 => decide (c.stage = 0) || r.allOver ((stageRecvs x ws 0 c.stripe (c.stage - 1)).filter (·.final)) c.unit c.units
  | 1 =>
    (if cKind ws = 3 ∨ cKind ws = 4 then true
      else r.allOver ((stageRecvs x ws 0 c.stripe (rn - 1)).filter (·.final)) c.unit c.units) &&
    ((range' (c.stage + 1) (rn - 1 - c.stage)).all fun t => r.allOver (stageRecvs x ws 1 c.stripe t) c.unit c.units)
  | _ => decide (c.stage = 0) || (List.range c.units).all fun i => (mget r.held (heldKey c.stripe c.stage (c.unit + i))).isSome

/-- Whether a chunk that sends local data reads it from `SRC`. -/
def fromSrc (x : Group) (ws : List Nat) (c : Chunk) : Bool :=
  (decide (c.stage = 0) && decide (c.ph ≠ 1)) ||
  (decide (c.ph = 1) && decide (cKind ws = 4) && decide (selfPos x ws = cRoot ws)) ||
  (decide (c.ph = 1) && decide (cKind ws = 3) &&
    (let iv := finalIv (stripeIv x ws c.stripe) (stripeRings x ws c.stripe)
     decide (iv.1 ≤ c.unit) && decide (c.unit + c.units ≤ iv.1 + iv.2)))

/-- The place where the member holds a chunk's local data. -/
def heldStage (c : Chunk) : Nat := if c.ph = 1 then 15 else c.stage

/-- An all-to-all unit as it reaches stage t: one whose label already has this member's coordinate on the ring passes the
stage; one that has passed every stage is output. -/
def a2aPlace (x : Group) (ws : List Nat) (i u : Nat) : Nat → Nat → Nat
  | 0, t => t
  | fuel + 1, t =>
    match (stripeRings x ws i)[t]? with
    | none => t
    | some e =>
      let blk := cUnits ws / members x ws
      let cs := coords ((ringsUsed x ws).map (·.2.size)) (u / max 1 blk)
      if ((((ringsUsed x ws).zip cs).find? fun y => y.1.1 = e.1).map (·.2)).getD 0 = e.2.pos then a2aPlace x ws i u fuel (t + 1) else t

/-! ### Records and deliveries -/

/-- Plate-memory offset of a slot: set 0 IN, 1 LOCAL, 2 OUT; ring d; chunk K (R369, R378). -/
def Group.slotOff (g : Group) (set d k : Nat) : Nat :=
  g.stageOff + (set * g.dims * g.slots + d * g.slots + k / g.plates.length % g.slots) * g.slot

/-- The plate of chunk K. -/
def Group.plateOf (g : Group) (k : Nat) : Nat := g.plates.getD (k % g.plates.length) 0

/-- The record ring of plate p. -/
def State.recRing (s : State) (p : Nat) : RecRing := (mget s.col.recs p).getD {}

/-- A record's words 0-6 (Table 16-8). -/
def recWords (g : Nat) (x : Group) (r : CollRun) (c : Rec) (phase : Bool) : List Nat :=
  let ws := r.job.words
  let k := c.chunk
  let src := fromSrc x ws k && decide (c.hook ≠ 4)
  [b2n phase * 2 ^ 63 + c.hook * 2 ^ 48 + g * 2 ^ 32 + r.seq % 2 ^ 32,
   if c.hook = 2 ∨ c.hook = 4 then x.slotOff 0 k.ring k.k else 0,
   if c.hook = 4 then 0 else x.slotOff 1 k.ring k.k,
   x.slotOff 2 k.ring k.k,
   k.units * cUnit ws + (if src then cType ws else cWire ws) * 2 ^ 32 + k.stage * 2 ^ 40 + k.step * 2 ^ 44,
   k.unit * cUnit ws % 2 ^ 48, cw ws 5]

/-- The local data of a record (R384): `SRC` in `TYPE` in the first stage, what the member holds in `WIRE` after it. -/
def State.localData (s : State) (g : Nat) (x : Group) (r : CollRun) (c : Rec) (ext : List Byte) : Acq :=
  let k := c.chunk
  let ws := r.job.words
  if c.hook = 4 then .ok s [] ext
  else if (c.hook = 3 ∧ stripeRings x ws k.stripe ≠ []) then
    .ok s (ofUnits (wireBlk ws) (r.units k.stripe 15 k.unit k.units)) ext
  else if fromSrc x ws k then s.readSrc g x r k.stripe k.unit k.units ext
  else .ok s (ofUnits (wireBlk ws) (r.units k.stripe (heldStage k) k.unit k.units)) ext

/-- Whether a record can be written on its plate now: the ring has room (R383), and no open record uses its slots. -/
def State.recRoom (s : State) (x : Group) (c : Rec) : Bool :=
  let rr := s.recRing c.plate
  decide (rr.open_.all fun e => decide (rr.count < e.1 + 256)) &&
  !rr.open_.any fun e => match e.2 with
    | some (_, y) => decide (x.slotOff 2 y.chunk.ring y.chunk.k = x.slotOff 2 c.chunk.ring c.chunk.k)
    | none => false

/-- A record written into a plate's ring: words 1-7, then word 0 (R383). -/
def State.recWrite (s : State) (p off : Nat) (ws : List Nat) (who : Option (Nat × Rec)) : State :=
  let rr := s.recRing p
  let a := winBase p + off + rr.count % 256 * 64
  let m := storeBytes s.mem (a + 8) ((ws.drop 1 ++ [0]).flatMap (leBytes 8))
  { s with mem := storeBytes m a (leBytes 8 (ws.getD 0 0)),
           col.recs := mput s.col.recs p { rr with count := rr.count + 1, open_ := rr.open_ ++ [(rr.count, who)] } }

/-- The phase of the next record of a plate's ring: 1 at first, inverted at each wrap. -/
def RecRing.phase (r : RecRing) : Bool := decide (r.count / 256 % 2 = 0)

/-- A notice sent by the engine on a QP: a WRITE of bytes at an offset of the peer's region, with the notice (R378). The
transactions stand under a number beyond the WQs. -/
def State.engineSend (s : State) (n f rkey off notice : Nat) (bs : List Byte) : State :=
  match mget s.qpe.qps n with
  | none => s
  | some p =>
    if p.st ≠ .active then s
    else
      let p := s.startTimer p
      let ps := if bs = [] then [] else dataPkts (s.qpPkt n p 1 0) (s.maxPay p) rkey true 256 p.psn off bs
      let psn := (p.psn + ps.length) % 2 ^ 24
      let np := { s.qpPkt n p 2 psn with argA := notice, argB := bs.length + p.psn * 2 ^ 32 }
      let mk (k : SentKind) (x : Packet) : Sent := ⟨k, x.psn, x, 0x40000 + n, p.psn % 65536, p.psn / 65536, false, false⟩
      let t := s.setQp n { p with una := p.una ++ ps.map (mk .data) ++ [mk .notice np], txq := p.txq ++ ps ++ [np],
                                  psn := (psn + 1) % 2 ^ 24 }
      t.track ⟨f, n, 0x40000 + n, p.psn % 65536, p.psn / 65536⟩

/-- The slot of a received chunk returned to the predecessor (Table 16-3). -/
def State.slotReturn (s : State) (g : Nat) (x : Group) (seq : Nat) (c : Chunk) : State :=
  match mget x.rings c.ring with
  | some r => s.engineSend r.prev x.owner 0 0 (2 * 2 ^ 30 + seq % 1024 * 2 ^ 20 + c.k % 2 ^ 20) []
  | none => s

/-- A received chunk is over: its slot goes back. -/
def State.chunkOver (s : State) (g : Nat) (c : Chunk) : State :=
  match s.group g with
  | some x =>
    match x.run with
    | some r => (s.slotReturn g x r.seq c).updRun g fun r => { r with spent := sins r.spent c.key }
    | none => s
  | none => s

/-- The bytes of a received chunk, in its IN slot. -/
def State.inBytes (s : State) (x : Group) (ws : List Nat) (c : Chunk) : List Byte :=
  s.bytes (winBase (x.plateOf c.k) + x.slotOff 0 c.ring c.k) (c.units * wireUnit ws)

/-- A chunk becomes ready to send with the bytes given. -/
def CollRun.makeReady (r : CollRun) (c : Chunk) (bs : Option (List Byte)) (now : Nat) : CollRun :=
  { r with ready := if (mget r.ready c.key).isSome then r.ready else mput r.ready c.key now
           data := match bs with | some b => mput r.data c.key b | none => r.data }

/-- The local chunks whose data has come: their PRE records are asked for, or they are ready as they are (R378, R384). -/
def State.collAdvance (s : State) (g : Nat) : State :=
  match s.group g with
  | none => s
  | some x =>
    match x.run with
    | none => s
    | some r =>
      let ws := r.job.words
      let locals := (planAll x ws true).filter fun c => decide (c.link = 0) && !r.asked.contains c.key && r.localReady x c
      let r := locals.foldl (fun r c =>
        let r := { r with asked := sins r.asked c.key }
        if c.ph = 0 ∧ combines ws then { r with todo := r.todo ++ [⟨1, c, x.plateOf c.k⟩], live := r.live + 1 }
        else r.makeReady c none s.clk) r
      s.setGroup g { x with run := some r }

/-- The state with no change but the translation requests that another, derived from it, has made. -/
def State.onlyReqs (s t : State) : State :=
  { s with xlt := t.xlt, out := s.out ++ (t.out.drop s.out.length).filter fun o => decide (o.kind = .atsReq) }

/-- An ALLTOALL unit that the member now holds for stage t: kept for its next stage, or delivered; false where a translation
is missing or fails. -/
def State.a2aHold (s : State) (g : Nat) (x : Group) (i t u : Nat) (bs : List Byte) : State × Bool :=
  match x.run with
  | none => (s, true)
  | some r =>
    let ws := r.job.words
    let t' := a2aPlace x ws i u 6 t
    if (stripeRings x ws i).length ≤ t' then
      match s.writeDst g x r i u 1 bs with
      | .ok v _ _ => (v.updRun g fun r => { r with bytes := r.bytes + bs.length }, true)
      | .miss v => (v, false)
      | .fail v st => (v.collFail g st 0, false)
    else (s.updRun g fun r => r.hold i t' u [bs], true)

/-- The units of an ALLTOALL chunk put in their next places. -/
def State.a2aHoldAll (s : State) (g i t : Nat) : Nat → List (List Byte) → State × Bool
  | _, [] => (s, true)
  | u, b :: l =>
    match s.group g with
    | some x =>
      match s.a2aHold g x i t u b with
      | (v, true) => v.a2aHoldAll g i t (u + 1) l
      | r => r
    | none => (s, true)

/-- What the first entry of `todo` came to: done, or it must wait, or the collective failed. -/
inductive Pump where
  | next (s : State) (ext : List Byte)
  | stop (s : State)

/-- The first waiting record of group g written, or its delivery made, if it can be. -/
def State.pumpOne (s : State) (g : Nat) (x : Group) (r : CollRun) (c : Rec) (ext : List Byte) : Pump :=
  let ws := r.job.words
  let pop (t : State) : State := t.updRun g fun r => { r with todo := r.todo.drop 1 }
  let k := c.chunk
  match c.hook with
  | 5 =>
    let us := s.inBytes x ws k
    if k.ph = 2 then
      let e := (mget x.rings k.ring).getD ⟨1, 0, 0, 0, 0⟩
      -- the label's coordinate on this ring becomes the origin's
      let blk := max 1 (cUnits ws / members x ws)
      let rs := ringsUsed x ws
      let cs := (rs.zip (coords (rs.map (·.2.size)) (k.unit / blk))).map fun y =>
        (y.1.2.size, if y.1.1 = k.ring then (e.pos + 2 * e.size - k.step - 1) % e.size else y.2)
      match s.a2aHoldAll g k.stripe (k.stage + 1) (linear cs * blk + k.unit % blk) (unitsOf (wireBlk ws) (wireUnit ws) k.units us) with
      | (t, true) => .next (((pop t).updRun g fun r => { r with live := r.live - 1 }).chunkOver g k) ext
      | (t, false) => .stop (s.onlyReqs t)
    else match (if delivers x ws then s.writeDst g x r k.stripe k.unit k.units us else .ok s [] []) with
      | .ok t _ _ =>
        .next (((pop t).updRun g fun r => { r with live := r.live - 1, bytes := r.bytes + if delivers x ws then us.length else 0 }).chunkOver g k) ext
      | .miss t => .stop (s.onlyReqs t)
      | .fail t st => .stop (t.collFail g st k.ring)
  | 6 =>
    match s.readSrc g x r k.stripe k.unit k.units ext with
    | .ok t bs ext' =>
      if k.ph = 2 then
        match t.a2aHoldAll g k.stripe 0 k.unit (unitsOf (blkCodes (elt (cType ws))) (wireUnit ws) k.units bs) with
        | (t, true) => .next ((pop t).updRun g fun r => { r with live := r.live - 1 }) ext'
        | (t, false) => .stop (s.onlyReqs t)
      else match t.writeDst g x r k.stripe k.unit k.units bs with
        | .ok u _ _ => .next ((pop u).updRun g fun r => { r with live := r.live - 1, bytes := r.bytes + bs.length }) ext'
        | .miss u => .stop (s.onlyReqs u)
        | .fail u st => .stop (u.collFail g st k.ring)
    | .miss t => .stop t
    | .fail t st => .stop (t.collFail g st k.ring)
  | _ =>
    if ¬ s.recRoom x c then .stop s
    else match s.localData g x r c ext with
      | .ok t bs ext' =>
        let t := { t with mem := storeBytes t.mem (winBase c.plate + x.slotOff 1 k.ring k.k) bs }
        .next (pop (t.recWrite c.plate x.recOff (recWords g x r c (t.recRing c.plate).phase) (some (g, c)))) ext'
      | .miss t => .stop t
      | .fail t st => .stop (t.collFail g st k.ring)

/-- Records written and deliveries made while they can be, oldest first. -/
def State.collPump (s : State) (g : Nat) : Nat → List Byte → State
  | 0, _ => s
  | fuel + 1, ext =>
    match (s.collAdvance g).group g with
    | none => s
    | some x =>
      match x.run with
      | none => s
      | some r =>
        match r.todo with
        | [] => s.collAdvance g
        | c :: _ =>
          match (s.collAdvance g).pumpOne g x r c ext with
          | .next t ext' => t.collPump g fuel ext'
          | .stop t => t

/-! ### Receipts -/

/-- A chunk has arrived on a ring (R378, R384, R385): it goes to the program, or is forwarded and delivered. -/
def State.chunkArrives (s : State) (g : Nat) (x : Group) (r : CollRun) (c : Chunk) : State :=
  let ws := r.job.words
  let bs := s.inBytes x ws c
  let r := { r with arrived := mput r.arrived c.key s.clk }
  let put (r : CollRun) : State := s.setGroup g { x with run := some r }
  let ask (r : CollRun) (h : Nat) : CollRun := { r with todo := r.todo ++ [⟨h, c, x.plateOf c.k⟩], live := r.live + 1 }
  let fwd := forwardOf x ws c
  match c.ph with
  | 0 =>
    if combines ws then put (ask r 2)
    else (put (match fwd with | some f => r.makeReady f (some bs) s.clk | none => r)).chunkOver g c
  | 1 =>
    let us := unitsOf (wireBlk ws) (wireUnit ws) c.units bs
    let r := r.hold c.stripe 15 c.unit us
    let r := match fwd with | some f => r.makeReady f (some bs) s.clk | none => r
    if cKind ws = 7 then (put r).chunkOver g c
    else put (ask r (if gathers ws ∧ delivers x ws then 4 else 5))
  | _ =>
    if c.final then put (ask r 5)
    else (put (match fwd with | some f => r.makeReady f (some bs) s.clk | none => r)).chunkOver g c

/-- A record is DONE with status 0: its output goes on (R384). False: a translation is missing, and nothing has changed but
the request for it. -/
def State.recDone (s : State) (g : Nat) (x : Group) (r : CollRun) (c : Rec) : State × Bool :=
  let ws := r.job.words
  let k := c.chunk
  let out := winBase c.plate + x.slotOff 2 k.ring k.k
  let wire := s.bytes out (k.units * wireUnit ws)
  let r := { r with live := r.live - 1 }
  let put (r : CollRun) : State := s.setGroup g { x with run := some r }
  let last := decide (k.stage + 1 = (stripeRings x ws k.stripe).length)
  match c.hook with
  | 1 => (put (r.makeReady k (some wire) s.clk), true)
  | 2 =>
    match forwardOf x ws k with
    | some f => ((put (r.makeReady f (some wire) s.clk)).chunkOver g k, true)
    | none =>
      let us := unitsOf (wireBlk ws) (wireUnit ws) k.units wire
      let r := r.hold k.stripe (if last then 15 else k.stage + 1) k.unit us
      let r := if last then { r with todo := r.todo ++ [⟨3, k, c.plate⟩], live := r.live + 1 } else r
      ((put r).chunkOver g k, true)
  | _ =>
    let n := k.units * eltBytes (elt (cDtype ws)) (cUnit ws)
    let t := put r
    let fin (u : State) : State := if c.hook = 4 then u.chunkOver g k else u
    if delivers x ws then
      match t.writeDst g x r k.stripe k.unit k.units (s.bytes out n) with
      | .ok u _ _ => (fin (u.updRun g fun r => { r with bytes := r.bytes + n }), true)
      | .miss u => (s.onlyReqs u, false)
      | .fail u st => (u.collFail g st k.ring, true)
    else (fin t, true)

/-! ### Starting and ending a collective -/

/-- The chunks that the member delivers from its own data: its piece of an ALLGATHER, the root's vector of a BROADCAST, an
ALLTOALL's blocks as they lie at `SRC`; and the FINAL chunks of a reduction that has no steps. -/
def ownTodo (x : Group) (ws : List Nat) : List Rec :=
  (List.range (stripes x ws)).flatMap fun i =>
    let iv := stripeIv x ws i
    let rs := stripeRings x ws i
    let mk (h ph : Nat) (v : Nat × Nat) : List Rec :=
      (number 0 (chunksOf ws x.slot (fun u k => { ring := 0, stripe := i, ph := ph, stage := 0, step := 0, unit := u, units := k, link := 0 }) v)).map
        fun c => ⟨h, c, x.plateOf c.k⟩
    match cKind ws with
    | 3 => mk 6 1 (finalIv iv rs)
    | 4 => if selfPos x ws = cRoot ws then mk 6 1 iv else []
    | 6 =>
      let blk := cUnits ws / members x ws
      let q := blk / stripes x ws
      let len := if i + 1 = stripes x ws then blk - i * q else q
      if len = 0 then [] else (List.range (members x ws)).flatMap fun l => mk 6 2 (l * blk + i * q, len)
    | 7 => []
    | _ => if rs = [] then mk 3 0 iv else []

/-- Whether everything that the member's part of a collective needs has happened (R374). -/
def collOver (x : Group) (r : CollRun) : Bool :=
  r.todo.isEmpty && decide (r.live = 0) && (planAll x r.job.words false).all r.isOver &&
    (planAll x r.job.words true).all fun c => r.started.contains c.key

/-- SLACK and LATE (R386): over the steps of each ring, how much later the last chunk arrived than the last one to send was
ready. -/
def collSlack (x : Group) (r : CollRun) : Nat × Nat × Nat :=
  let ws := r.job.words
  let id (c : Chunk) : List Nat := [c.ring, c.stripe, c.ph, c.stage, c.step]
  let sends := planAll x ws true
  let recvs := planAll x ws false
  let steps := ((sends ++ recvs).map id).eraseDups
  steps.foldl (fun (a : Nat × Nat × Nat) st =>
    let rt := (sends.filter fun c => id c = st).foldl (fun m c => max m ((mget r.ready c.key).getD 0)) 0
    let at_ := (recvs.filter fun c => id c = st).foldl (fun m c => max m ((mget r.arrived c.key).getD 0)) 0
    (a.1 + (at_ - rt), a.2.1 + (if at_ ≤ rt then 1 else 0), a.2.2 + 1)) (0, 0, 0)

/-- A descriptor of function f handed to the engine (R371-R373): refused by a check, with its status and word mask; not
taken while its group's queue is full or a translation is missing; or queued. A LAUNCH begins its load. -/
inductive Submit where
  | refused (st info : Nat)
  | full (s : State)
  | taken (s : State)

/-- A digest written to the registers of plate p. -/
def State.setDigest (s : State) (p : Nat) (dig : List Byte) : State :=
  (List.range 6).foldl (fun t i => t.wr (Reg.pltDigest p i) (BitVec.ofNat 64 (beNat ((dig.drop (8 * i)).take 8)))) s

/-- The digest of a LAUNCH written to the plate, and its load begun (R372); a load that is refused ends it. -/
def State.launchGo (s : State) (j : CollJob) (p : Nat) (dig : List Byte) : State :=
  let s := (s.setDigest p dig).loadGo p (cw j.words 1) (cSspace j.words)
  let s := { s with col.launches := mput s.col.launches p (j, true) }
  if (s.plate p).load.isNone then s.launchEnd p 0x65 (s.rf (Reg.pltStatus p) F.pltStatus_load_result) else s

/-- A descriptor submitted (R372, R373); what a LAUNCH's digest reads from outside comes in ext. -/
def State.submit (s : State) (f : Nat) (ws : List Nat) (who : CollFor) (ext : List Byte) : Submit :=
  if collReserved ws ≠ 0 then .refused 0x01 (collReserved ws)
  else if s.pd 93 = 3 then .refused 0x61 0
  else match s.collCheck f ws with
    | some (st, info) => .refused st info
    | none =>
      let j : CollJob := ⟨ws, f, who, s.clk⟩
      if cKind ws = 0 then
        match s.collRead f (cSspace ws) (cPlate ws) ext [(cw ws 2, 48)] with
        | .ok t dig _ => .taken (t.launchGo j (cPlate ws) dig)
        | .miss t => .full (s.onlyReqs t)
        | .fail _ _ => .refused 0x65 4
      else match s.group (cGroup ws) with
        | some x => if 64 ≤ x.queue.length then .full s else .taken (s.setGroup (cGroup ws) { x with queue := x.queue ++ [j] })
        | none => .refused 0x61 8

end Sys2Proof.Machine
end

