-- ==== Sys2Proof/Machine/Collectives.lean ====
section
/-! DEFINITION. Collective groups and collectives (16_collectives.md): the rows CREATE_GROUP to COLLECTIVE_TIMEOUT. -/

namespace Sys2Proof.Machine

/-! ### Group commands (Tables 16-7, 16-11) -/

/-- A command of `COL_CMDf`: it is written with `GO` = 1 through function f's page, unless one is under way (R109). -/
def State.colCmd (s : State) (f c obj : Nat) (act : State → State) : State :=
  s.cmd f (Reg.colCmd f) fun s =>
    if s.on (Reg.colCmd f) F.colCmd_go then s
    else act (((s.wf (Reg.colCmd f) F.colCmd_cmd c).wf (Reg.colCmd f) F.colCmd_obj obj).wf (Reg.colCmd f) F.colCmd_go 1)

/-- An argument register. -/
def State.colArg (s : State) (f i : Nat) : Nat := (s.rd (Reg.colArg f i)).toNat

/-- Four words written to the argument registers. -/
def State.colRet (s : State) (f a b c d : Nat) : State :=
  (((s.wr (Reg.colArg f 0) (BitVec.ofNat 64 a)).wr (Reg.colArg f 1) (BitVec.ofNat 64 b)).wr (Reg.colArg f 2)
    (BitVec.ofNat 64 c)).wr (Reg.colArg f 3) (BitVec.ofNat 64 d)

/-- The group a command names, if the function owns it; else the command ends with `ST_COL_GROUP_STATE`. -/
def State.onGroup (s : State) (f obj : Nat) (act : State → Nat → Group → State) : State :=
  match s.group (obj % 4096) with
  | some g => if g.owner = f then act s (obj % 4096) g else s.colEnd f 0x61
  | none => s.colEnd f 0x61

/-- The plates of a mask, ascending. -/
def platesOf (m : Nat) : List Nat := (List.range 64).filter fun p => nbit m p

/-- CREATE_GROUP (R366, R369, R397): a group with the lowest free number, and its staging region. -/
def execCreateGroup (f : Nat) (s : State) : Res :=
  .next <|
    s.colCmd f 1 (s.rf (Reg.colCmd f) F.colCmd_obj) fun s =>
      let a := s.colArg f 1
      let ps := platesOf (s.colArg f 0)
      let g : Group :=
        { owner := f, plates := ps, dims := nbits a 2 0, tc := nbits a 5 3, align := nbit a 6, weight := nbits a 14 7,
          slots := nbits a 19 15, slotKib := nbits a 27 20, stageOff := nbits a 49 28, carry := s.colArg f 2 / 65536 * 65536,
          carryLen := s.colArg f 3 % 2 ^ 32, region := 0 }
      let area := 3 * g.dims * g.slots * g.slot
      let free := firstFrom (fun n => (s.group n).isNone) 0 4096
      if ps = [] ∨ g.dims = 0 ∨ 6 < g.dims ∨ g.weight = 0 ∨ g.slots = 0 ∨ 16 < g.slots ∨ g.slotKib = 0 ∨ g.stageOff % 64 ≠ 0 then
        s.colEnd f 0x01
      else if pmSize < g.stageOff + area ∨ ps.any (fun p => decide (s.plateOwner p ≠ f)) ∨
          (s.on (Reg.cpfVgeom f) F.cpfVgeom_en ∧ ps.length ≠ s.rf (Reg.cpfVgeom f) F.cpfVgeom_plates) then s.colEnd f 0x60
      else if s.quota f F.vfmFnQuota_grp 1 4096 ≤ (s.col.groups.filter fun e => e.2.owner = f).length ∨
          s.quota f F.vfmFnQuota_reg 4096 (2 ^ 24) ≤ s.regionUse f then s.colEnd f 0x66
      else match free, s.freeIndex with
        | some n, some i =>
          let gen := (((mget s.qpe.regions i).map (·.gen)).getD 0 + 1) % 256
          let r : Region := { owner := some f, lastOwner := f, gen := gen, len := ps.length * area, remoteW := true, use := .group n,
                              stage := some (ps, g.stageOff, area) }
          let s := { s with qpe.regions := mput s.qpe.regions i r, qpe.nextIdx := max s.qpe.nextIdx (i + 1),
                            qpe.freed := s.qpe.freed.filter (· ≠ i) }
          let s := s.setGroup n { g with region := i }
          ((s.wr (Reg.colArg f 0) (BitVec.ofNat 64 (i * 256 + gen))).wf (Reg.colCmd f) F.colCmd_obj n).colEnd f 0
        | _, _ => s.colEnd f 0x66

/-- SET_RING (R366, R368): the two QPs of a ring bound; each Active, of the group's function, over Amholt. -/
def execSetRing (f obj : Nat) (s : State) : Res :=
  .next <|
    s.colCmd f 2 obj fun s => s.onGroup f obj fun s n g =>
      let a := s.colArg f 0
      let d := nbits a 2 0
      let r : Ring := { size := nbits a 10 3 + 1, pos := nbits a 18 11, next := nbits (s.colArg f 1) 17 0,
                        prev := nbits (s.colArg f 1) 35 18, key := nbits (s.colArg f 2) 31 0 }
      let fit (q : Nat) : Bool := match mget s.qpe.qps q with
        | some x => decide (x.owner = f) && decide (x.st = .active) && decide (x.transport = 0)
        | none => false
      if g.st ≠ .created ∨ g.enabling.isSome then s.colEnd f 0x61
      else if g.dims ≤ d ∨ r.size ≤ r.pos then s.colEnd f 0x01
      else if ¬ fit r.next ∨ ¬ fit r.prev then s.colEnd f 0x60
      else (s.setGroup n { g with rings := mput g.rings d r }).colEnd f 0

/-- SET_PROG (R366, Table 16-7): the group's program. -/
def execSetProg (f obj : Nat) (s : State) : Res :=
  .next <|
    s.colCmd f 3 obj fun s => s.onGroup f obj fun s n g =>
      let a := s.colArg f 0
      if g.st ≠ .created ∨ g.enabling.isSome then s.colEnd f 0x61
      else if nbits a 1 0 = 3 then s.colEnd f 0x01
      else
        (s.setGroup n { g with
          pkind := nbits a 1 0, pspace := nbits a 3 2, image := s.colArg f 1 / 64 * 64, digest := s.colArg f 2 / 8 * 8,
          recOff := nbits (s.colArg f 3) 21 14 * 16384 }).colEnd f 0

/-- Plates of a group on which its program's load is still to end, once one has ended or need not begin. -/
def State.enableStep (s : State) (n : Nat) (left : List Nat) : State :=
  match s.group n with
  | some g =>
    if left = [] then (s.setGroup n { g with enabling := none, st := .ready, seq := 0 }).colEnd g.owner 0
    else s.setGroup n { g with enabling := some left }
  | none => s

/-- An ENABLE_GROUP fails: the group stays Created, and its plates are bound to it no more. -/
def State.enableFail (s : State) (n st : Nat) : State :=
  match s.group n with
  | some g =>
    let s := s.setGroup n { g with enabling := none }
    let others (p : Nat) : Bool := s.col.groups.any fun e =>
      decide (e.1 ≠ n) && (decide (e.2.st ≠ .created) || e.2.enabling.isSome) && decide (e.2.pkind ≠ 2) && e.2.plates.contains p
    let s := { s with col.bound := s.col.bound.filter fun e => !(g.plates.contains e.1) || others e.1 }
    s.colEnd g.owner st
  | none => s

/-- ENABLE_GROUP (R370, R389): the program is loaded on every plate that does not run it and started there; the command
completes, and the group is Ready, when the last has started. What the digest reads from outside comes in ext. -/
def execEnableGroup (f obj : Nat) (ext : List Byte) (s : State) : Res :=
  .next <|
    s.colCmd f 4 obj fun s => s.onGroup f obj fun s n g =>
      if g.st ≠ .created ∨ g.enabling.isSome then s.colEnd f 0x61
      else
        let go (s : State) (dig : List Byte) : State :=
          let mine := if g.pkind = 1 then beNat dig + 1 else 0
          let busy (p : Nat) : Bool := match mget s.col.bound p with
            | some b => decide (g.pkind ≠ 2) && decide (b ≠ (mine, g.recOff))
            | none => s.runs p
          if g.plates.any busy then s.colEnd f 0x62
          else if g.pkind = 2 then s.enableStep n []
          else
            let need := g.plates.filter fun p => !s.runs p
            let s := need.foldl (fun t p =>
              if (mget t.col.bound p).isSome ∧ (t.plate p).load.isSome then t
              else if g.pkind = 1 then (t.setDigest p dig).loadGo p g.image g.pspace
              else t.loadGo p 0 builtIn) s
            let s := { s with col.bound := g.plates.foldl (fun m p => mput m p (mine, g.recOff)) s.col.bound,
                              col.recs := need.foldl (fun m p => mput m p {}) s.col.recs }
            if need.any fun p => (s.plate p).load.isNone then s.enableFail n 0x65 else s.enableStep n need
        if g.pkind = 1 then
          match s.collRead f g.pspace n ext [(g.digest, 48)] with
          | .ok t dig _ => go t dig
          | .miss _ => s
          | .fail t _ => t.colEnd f 0x65
        else go s []

/-- The STOP record of plate p (HOOK 0) written once the ring has room (R383, R384). -/
def State.stopRecord (s : State) (p : Nat) : State :=
  let rr := s.recRing p
  if rr.stop ∧ rr.open_.all fun e => decide (rr.count < e.1 + 256) then
    let off := ((mget s.col.bound p).map (·.2)).getD 0
    let s := { s with col.recs := mput s.col.recs p { rr with stop := false } }
    let t := s.recWrite p off [b2n rr.phase * 2 ^ 63, 0, 0, 0, 0, 0, 0] none
    { t with col.bound := mdel t.col.bound p }
  else s

/-- A group is taken out of use: every collective ends with `ST_FLUSHED`, a running one leaves its ring QPs in Error (R387),
and the program of a plate that no enabled group binds any more is told to stop. -/
def State.groupOff (s : State) (n : Nat) : State :=
  let s := s.collFail n 0x0B 0
  match s.group n with
  | none => s
  | some g =>
    let q := g.queue
    let s := (s.setGroup n { g with st := .created, queue := [], busy := [], seq := 0 }).orphan n
    let s := { s with col.notices := s.col.notices.filter fun x => ¬ g.qps.contains x.1 }
    let s := q.foldl (fun t j => t.collTell j.who 0x0B 0 0) s
    let others (p : Nat) : Bool := s.col.groups.any fun e =>
      (decide (e.2.st ≠ .created) || e.2.enabling.isSome) && decide (e.2.pkind ≠ 2) && e.2.plates.contains p
    let last := if g.pkind = 2 then [] else g.plates.filter fun p => (mget s.col.bound p).isSome && !others p
    last.foldl (fun t p => ({ t with col.recs := mput t.col.recs p { t.recRing p with stop := true } }).stopRecord p) s

/-- DISABLE_GROUP (R366, R384). -/
def execDisableGroup (f obj : Nat) (s : State) : Res :=
  .next <|
    s.colCmd f 5 obj fun s => s.onGroup f obj fun s n g =>
      if g.st = .created then s.colEnd f 0x61 else (s.groupOff n).colEnd f 0

/-- DESTROY_GROUP (R369): the staging region of a Created group is revoked; the group is freed when its drain ends. -/
def execDestroyGroup (f obj : Nat) (s : State) : Res :=
  .next <|
    s.colCmd f 6 obj fun s => s.onGroup f obj fun s n g =>
      if g.st ≠ .created ∨ g.enabling.isSome then s.colEnd f 0x61
      else match mget s.qpe.regions g.region with
        | some r => s.revokeStart g.region r true
        | none => ({ s with col.groups := mdel s.col.groups n }).colEnd f 0

/-- The codes of QUERY_GROUP (Table 16-7). -/
def GroupSt.code : GroupSt → Nat
  | .created => 0
  | .ready => 1
  | .broken => 2

/-- QUERY_GROUP (R386, Table 16-7). -/
def execQueryGroup (f obj : Nat) (s : State) : Res :=
  .next <|
    s.colCmd f 7 obj fun s => s.onGroup f obj fun s n g =>
      let key := match mget s.qpe.regions g.region with | some r => g.region * 256 + r.gen | none => 0
      (s.colRet f (g.st.code + min 255 g.queue.length * 2 ^ 8 + g.seq % 2 ^ 32 * 2 ^ 32) (g.slack % 2 ^ 64)
        (g.late % 2 ^ 32 + g.steps % 2 ^ 32 * 2 ^ 32) key).colEnd f 0

/-! ### COLL entries (R371-R373) -/

/-- The COLL entry of one of the kinds given that WQ w is to start, checked and handed to the engine. One whose group's
queue is full, or whose digest waits for a translation, stays as it is. -/
def State.collEntry (s : State) (w : Nat) (kinds : Nat → Bool) (ext : List Byte) : State :=
  match s.nextEnt w 0x10 with
  | none => s
  | some (q, e) =>
    if e.st ≠ .fetched ∨ ¬ kinds (cKind e.words) then s
    else match s.submit q.owner e.words (.entry w e.slot) ext with
      | .refused st info => (s.updEnt w e.slot fun e => { e with info := info }).finish w e.slot st
      | .full t => t
      | .taken t => t.updEnt w e.slot fun e => { e with st := .started, start := s.clk, allSent := true, open_ := e.open_ + 1 }

/-- A kind, or one that Table 16-1 does not define: check 1 refuses it whichever command meets it. -/
def kindIs (k x : Nat) : Bool := decide (x = k) || decide (7 < x)

/-- LAUNCH (R364, R371, R372): the image's load begins on the plate; its end starts the program. -/
def execLaunch (w : Nat) (ext : List Byte) (s : State) : Res := .next (s.collEntry w (kindIs 0) ext)
/-- ALLREDUCE (R364, R371-R375). -/
def execAllreduce (w : Nat) (ext : List Byte) (s : State) : Res := .next (s.collEntry w (kindIs 1) ext)
/-- REDUCE_SCATTER (R364, R371-R375). -/
def execReduceScatter (w : Nat) (ext : List Byte) (s : State) : Res := .next (s.collEntry w (kindIs 2) ext)
/-- ALLGATHER (R364, R371-R375). -/
def execAllgather (w : Nat) (ext : List Byte) (s : State) : Res := .next (s.collEntry w (kindIs 3) ext)
/-- BROADCAST (R364, R371-R375). -/
def execBroadcast (w : Nat) (ext : List Byte) (s : State) : Res := .next (s.collEntry w (kindIs 4) ext)
/-- REDUCE (R364, R371-R375). -/
def execReduce (w : Nat) (ext : List Byte) (s : State) : Res := .next (s.collEntry w (kindIs 5) ext)
/-- ALLTOALL (R364, R371-R375). -/
def execAlltoall (w : Nat) (ext : List Byte) (s : State) : Res := .next (s.collEntry w (kindIs 6) ext)
/-- BARRIER (R364, R371-R375). -/
def execBarrier (w : Nat) (ext : List Byte) (s : State) : Res := .next (s.collEntry w (kindIs 7) ext)

/-! ### Running a collective -/

/-- Fuel of a pump: more than the records and deliveries a collective can have waiting. -/
def pumpFuel : Nat := 2 ^ 24

/-- COLLECTIVE_START (R373, R382): the oldest queued collective of group g starts when none runs; ring QPs that are not
Active fail it (R387). -/
def execCollectiveStart (g : Nat) (ext : List Byte) (s : State) : Res :=
  .next <|
    match s.group g with
    | none => s
    | some x =>
      match x.run, x.queue with
      | none, j :: q =>
        if x.st ≠ .ready then s
        else
          let todo := ownTodo x j.words
          let r : CollRun := { job := j, seq := x.seq, todo := todo, live := todo.length }
          let s := s.setGroup g { x with queue := q, run := some r, seq := (x.seq + 1) % 2 ^ 32 }
          s.collSweep.collPump g pumpFuel ext
      | _, _ => s

/-- The slot number that chunk K uses at a successor, among its ring's. -/
def slotNum (x : Group) (k : Nat) : Nat := k % (x.plates.length * x.slots)

/-- The output port of a ring: the port by which its packets leave the router, or 12 for this module itself. -/
def State.ringPort (s : State) (r : Ring) : Nat :=
  match mget s.qpe.qps r.next with
  | some q => (s.routeOf 12 { s.qpPkt r.next q 1 0 with st := s.injState }).1
  | none => 15

/-- The chunk that a group would start next on output port n: on its lowest ring there, the lowest number that is ready, not
started, and has its slot (R378). -/
def State.chunkNext (s : State) (n : Nat) (x : Group) : Option (CollRun × Chunk × Ring) :=
  match x.run with
  | none => none
  | some r =>
    (ringsLive x r.job.words).findSome? fun e =>
      if s.ringPort e.2 ≠ n then none
      else ((planRing x r.job.words e.1 true).find? fun c =>
        (mget r.ready c.key).isSome && !r.started.contains c.key && !x.busy.contains (c.ring * 65536 + slotNum x c.k)).map fun c => (r, c, e.2)

/-- Cells of the packets of a chunk: DATA packets of at most 4,096 bytes, and the NOTICE. -/
def chunkCells (n : Nat) : Nat :=
  n / 4096 * 35 + (if n % 4096 = 0 then 0 else cdiv (40 + n % 4096) 120) + 1

/-- The groups that have a chunk ready on output port n. -/
def State.readyGroups (s : State) (n : Nat) : List Nat :=
  (s.col.groups.filter fun e => (s.chunkNext n e.2).isSome).map (·.1)

/-- The group that takes the next chunk on output port n by weighted round robin (R381), and the credits then. -/
def State.chunkTurn (s : State) (n : Nat) : Option (Nat × Map Nat) :=
  let gs := s.readyGroups n
  let w (g : Nat) : Nat := ((s.group g).map (·.weight)).getD 1
  let left (m : Map Nat) (g : Nat) : Nat := (mget m (n * 4096 + g)).getD (w g)
  let fresh := mclear s.col.credit (n * 4096) (n * 4096 + 4096)
  let m := if gs.any fun g => decide (left s.col.credit g ≠ 0) then s.col.credit else fresh
  (gs.find? fun g => decide (left m g ≠ 0)).map fun g => (g, mput m (n * 4096 + g) (left m g - 1))

/-- CHUNK_START (R375, R377-R381): output port n (12 for rings inside this module) starts one chunk: one WRITE with its chunk
notice on the ring's QP, once the tracking table has room and, under `ALIGN`, the class's window does. -/
def execChunkStart (n : Nat) (ext : List Byte) (s : State) : Res :=
  .next <|
    match s.chunkTurn n with
    | none => s
    | some (g, credit) =>
      match s.group g with
      | none => s
      | some x =>
        match s.chunkNext n x, (s.chunkNext n x).bind fun y => mget s.qpe.qps y.2.2.next with
        | some (r, c, ring), some q =>
          let ws := r.job.words
          let gate := if x.align ∧ n < 12 then s.gate n x.tc (chunkCells (c.units * wireUnit ws) * 1296) else some false
          match gate with
          | none => s
          | some long =>
            if (s.ringCause ring.next).isSome then s.collFailStep g ((s.ringCause ring.next).getD 0x30)
            else if ¬ s.trkFree ring.next q then s
            else
              let data := match mget r.data c.key with
                | some b => Acq.ok s b ext
                | none => s.localData g x r ⟨6, c, 0⟩ ext
              (match data with
              | .ok t bs _ =>
                let t := if long then t.overlong n x.tc else t
                let j := c.k % x.plates.length
                let area := 3 * x.dims * x.slots * x.slot
                let off := j * area + (c.ring * x.slots + c.k / x.plates.length % x.slots) * x.slot
                let t := t.engineSend ring.next x.owner ring.key off (2 ^ 30 + r.seq % 1024 * 2 ^ 20 + c.k % 2 ^ 20) bs
                let t := { t with col.credit := credit }
                t.setGroup g { x with busy := sins x.busy (c.ring * 65536 + slotNum x c.k),
                                      run := some { r with started := sins r.started c.key, data := mdel r.data c.key } }
              | .miss t => t
              | .fail t st => t.collFailStep g st)
        | _, _ => s

/-- The ring on which QP q receives from its predecessor, or, for slot returns, sends to its successor. -/
def State.ringOf (s : State) (q : Nat) (ret : Bool) : Option (Nat × Group × Nat) :=
  s.col.groups.findSome? fun e => (e.2.rings.find? fun r => decide ((if ret then r.2.next else r.2.prev) = q)).map fun r => (e.1, e.2, r.1)

/-- The oldest notice of QP q, and the rest. -/
def State.frontNotice (s : State) (q : Nat) : Option (Nat × State) :=
  (s.col.notices.find? fun n => decide (n.1 = q)).map fun n =>
    (n.2.1, { s with col.notices := dropFirst (fun x => decide (x.1 = q)) s.col.notices })

/-- CHUNK_NOTICE_RECEIVED (R368, R373, R375-R377, R383-R385, R387): the oldest notice of ring QP q announces a chunk: its
sequence number is checked, and its record is written or the chunk forwarded and delivered. A notice of the next collective
waits until this one has had all its chunks from the ring. -/
def execChunkNoticeReceived (q : Nat) (ext : List Byte) (s : State) : Res :=
  .next <|
    match s.frontNotice q, s.ringOf q false with
    | some (v, t), some (g, x, d) =>
      if nbits v 31 30 ≠ 1 then s
      else
        let seq := nbits v 29 20
        let k := nbits v 19 0
        match x.run with
        | none => s
        | some r =>
          let plan := planRing x r.job.words d false
          if seq = r.seq % 1024 then
            match plan.find? fun c => decide (c.k % 2 ^ 20 = k) && (mget r.arrived c.key).isNone with
            | some c => (t.chunkArrives g x r c).collPump g pumpFuel ext
            | none => t
          else if seq = (r.seq + 1) % 1024 ∧ plan.all fun c => (mget r.arrived c.key).isSome then s
          else t.collFail g 0x67 d
    | _, _ => s

/-- SLOT_RETURN_RECEIVED (R368, R378): the oldest notice of ring QP q returns a slot. -/
def execSlotReturnReceived (q : Nat) (s : State) : Res :=
  .next <|
    match s.frontNotice q, s.ringOf q true with
    | some (v, t), some (g, x, d) =>
      if nbits v 31 30 ≠ 2 then s
      else t.setGroup g { x with busy := sdel x.busy (d * 65536 + slotNum x (nbits v 19 0)) }
    | _, _ => s

/-- RECORD_DONE (R378, R379, R383, R384, R387): the program of plate p has marked its n-th record DONE: its output is
forwarded or delivered, or a `STATUS` other than 0 ends the collective. -/
def execRecordDone (p n : Nat) (ext : List Byte) (s : State) : Res :=
  .next <|
    let rr := s.recRing p
    match rr.open_.find? fun e => decide (e.1 = n), mget s.col.bound p with
    | some (_, who), some (_, off) =>
      let w := s.ldN (winBase p + off + n % 256 * 64 + 56) 8
      if ¬ nbit w 63 then s
      else
        let t := { s with col.recs := mput s.col.recs p { rr with open_ := rr.open_.filter fun e => e.1 ≠ n } }
        (match who with
        | none => t.stopRecord p
        | some (g, c) =>
          match t.group g with
          | none => t
          | some x =>
            match x.run with
            | none => t
            | some r =>
              if nbits w 7 0 ≠ 0 then t.collFail g 0x65 p
              else match t.recDone g x r c with
                | (u, true) => (u.stopRecord p).collPump g pumpFuel ext
                | (u, false) => s.onlyReqs u)
    | _, _ => s

/-- COLLECTIVE_END (R374, R386): every byte of the output of group g's collective is written; after the flush reads that its
destinations behind links need it completes, and slack is reported. -/
def execCollectiveEnd (g : Nat) (s : State) : Res :=
  .next <|
    match s.group g with
    | none => s
    | some x =>
      match x.run with
      | none => s
      | some r =>
        if ¬ collOver x r ∨ s.hif.flushes.any fun f => decide (f.who = .coll g) then s
        else
          let ds := s.hif.dests.filter fun d => decide (d.wqn = 0x60000 + g)
          if ds ≠ [] then
            ds.foldl (fun t d => t.flushRead d (.coll g)) { s with hif.dests := s.hif.dests.filter fun d => d.wqn ≠ 0x60000 + g }
          else
            let (slack, late, steps) := collSlack x r
            let s := s.setGroup g { x with run := none, slack := slack, late := late, steps := steps }
            let at_ := if late = 0 then s.pm.lateAt else mput s.pm.lateAt x.owner s.clk
            let s : State := { s with pm.steps := s.pm.steps + steps, pm.late := s.pm.late + late, pm.lateAt := at_ }
            s.collTell r.job.who 0 0 r.bytes

/-- COLLECTIVE_TIMEOUT (R387, R388): the running collective of group g has passed its `TIMEOUT`. -/
def execCollectiveTimeout (g : Nat) (s : State) : Res :=
  .next <|
    match (s.group g).bind (·.run) with
    | some r =>
      let us := cTimeout r.job.words
      if us ≠ 0 ∧ r.job.at_ + us * 1000 ≤ s.clk then s.collFailStep g 0x63 else s
    | none => s

end Sys2Proof.Machine
end

