-- ==== Sys2Proof/Machine/Plates.lean ====
section
/-! DEFINITION. Plates (12_plates.md): starting, stopping, resetting and losing a plate with what awaits it, and the rows
START to LOAD_END. -/

namespace Sys2Proof.Machine

/-! ### Loss -/

/-- The bytes that the transfers a plate had issued cover are left undefined (R282). -/
def State.spoilMover (s : State) (p : Nat) : State :=
  (s.plate p).mover.foldl (fun t e =>
    match e.2.q with
    | d :: _ => if e.2.err then t else t.spoilRows p d [] (dRows d) 0
    | [] => t) s

/-- ENABLE_GROUPs that await a load or start on plate p fail with a status. -/
def State.enableLost (s : State) (p st : Nat) : State :=
  (s.col.groups.filter fun e => (e.2.enabling.getD []).contains p).foldl (fun t e => t.enableFail e.1 st) s

/-- A load under way is abandoned, with what awaits it (R279, R372). -/
def State.abandonLoad (s : State) (p : Nat) : State :=
  if (s.plate p).load = none then s
  else (((s.loadEnd p 7).launchEnd p 0x65 7).enableLost p 0x65)

/-- `RUN` clears with a value of `END`: the interrupt source of the plate sees the fall, and a LAUNCH completes (R267,
R372). -/
def State.runEnd (s : State) (p why : Nat) : State :=
  let s := s.setPlate p { s.plate p with stopping := none }
  let s := ((s.pst p F.pltStatus_run 0).pst p F.pltStatus_end why).edge p
  let s := (s.observe p 0x13 (leBytes 8 why ++ leBytes 8 (s.rd (Reg.pltExc p)).toNat ++ leBytes 8 (s.rd (Reg.pltExcAddr p)).toNat)).observe p
    0x12 (leBytes 8 p ++ leBytes 8 (s.rf (Reg.icuSrc p) F.icuSrc_vec))
  let s := s.setPoint p (s.plateFloor p) 16
  s.launchEnd p (match why with | 1 => 0x00 | 3 => 0x65 | 4 => 0x0D | _ => 0x0B) 0

/-- Plate p is lost (R282): 0 its domain is Faulted, 1 no spare is left. -/
def State.plateLoss (s : State) (p cause : Nat) : State :=
  if s.lost p then s
  else
    let s := (s.abandonLoad p).spoilMover p
    let ran := s.runs p
    let s := s.stopCores p
    let s := s.setPlate p { s.plate p with mover := [], resetting := false, stopping := none }
    let s := if ran then s.runEnd p 4 else s
    let s := (s.collPlate p 0x0D).enableLost p 0x0D
    (s.pst p F.pltStatus_lost 1).raise .alarm 18 6 (fn := s.plateFn p) (inst := p) (arg0 := cause)

/-! ### Substitution (R276, R277) -/

/-- The exposed number of a physical burin. -/
def State.exposedOf (s : State) (p r : Nat) : Option Nat := (List.range 32).find? fun b => decide (s.phys p b = r)

/-- The limits of a physical burin at all points, added up. -/
def State.kSum (s : State) (p r : Nat) : Nat := (List.range 16).foldl (fun a n => a + s.kLim p r n) 0

/-- Spares of plate p: physical burins neither in use nor used up. -/
def State.sparesOf (s : State) (p : Nat) : List Nat :=
  (List.range 34).filter fun r => (s.exposedOf p r).isNone && !(s.plate p).spent.contains r

/-- The physical burin that a substitution takes: the spare with the highest limits, the lowest of equal ones (R521). -/
def State.spareOf (s : State) (p : Nat) : Nat :=
  ((s.sparesOf p).foldl (fun (b : Option (Nat × Nat)) r =>
    match b with
    | some x => if x.2 < s.kSum p r then some (r, s.kSum p r) else b
    | none => some (r, s.kSum p r)) none).elim 33 fun b => b.1

/-- One substitution applied; the window follows the exposed number, so the copied local store is what it was. -/
def State.substOne (s : State) (p r : Nat) : State :=
  match s.exposedOf p r with
  | none => s
  | some b =>
    let n := s.rf (Reg.pltStatus p) F.pltStatus_spares
    if n = 0 then s.plateLoss p 1
    else
      let x := s.spareOf p
      let k := Reg.pltMap p (b / 8)
      let s := s.wr k (setFld (s.rd k) (6 * (b % 8) + 5) (6 * (b % 8)) x)
      let s := s.setPlate p { s.plate p with spent := sins (s.plate p).spent r }
      (s.pst p F.pltStatus_spares (n - 1)).raise .warning 18 4 (fn := s.plateFn p) (inst := p) (arg0 := r + x * 2 ^ 8 + b * 2 ^ 16)

/-- The substitutions that wait on plate p, applied while its program does not run. -/
def State.substAll (s : State) (p : Nat) : State :=
  if s.runs p ∨ s.lost p then s
  else
    let l := (s.plate p).retired
    let s := (s.setPlate p { s.plate p with retired := [] }).pst p F.pltStatus_subst_pend 0
    l.foldl (fun t r => if t.lost p then t else t.substOne p r) s

/-- A physical burin is retired: its substitution waits, or the plate is lost for want of a spare (R276, R277). -/
def State.retireBurin (s : State) (p r : Nat) : State :=
  if (s.exposedOf p r).isNone ∨ (s.plate p).retired.contains r ∨ s.lost p then s
  else if s.rf (Reg.pltStatus p) F.pltStatus_spares = 0 then s.plateLoss p 1
  else (s.setPlate p { s.plate p with retired := (s.plate p).retired ++ [r] }).pst p F.pltStatus_subst_pend 1

/-! ### Starting, stopping and resetting -/

/-- A `START`: the program begins, after the substitution that waits, or it is refused (R265, R276). -/
def State.startPlate (s : State) (p : Nat) : State :=
  if ¬ s.runs p ∧ s.on (Reg.pltStatus p) F.pltStatus_loaded ∧ ¬ (s.plate p).resetting then
    let s := if s.substPend p then s.substAll p else s
    if s.lost p then s else s.begin p
  else
    s.raise .warning 18 2 (fn := s.plateFn p) (inst := p) (arg0 := s.rf (Reg.pltStatus p) F.pltStatus_load_result)

/-- The program of plate p stops with a value of `END`, and the collectives that depend on the plate end (R267, R387). -/
def State.plateStop (s : State) (p why : Nat) : State :=
  if s.runs p ∧ (s.plate p).stopping = none then
    (s.stopPlate p why).collPlate p (if why = 3 then 0x65 else if why = 4 then 0x0D else 0x0B)
  else s

/-- A plate reset is taken (R281): the plate stops, and zeroing begins once its transfers have ended; a lost plate takes
none. -/
def State.plateReset (s : State) (p : Nat) : State :=
  if s.lost p ∨ (s.plate p).resetting then s
  else
    let s := (s.abandonLoad p).plateStop p 2
    let s := (s.collPlate p 0x0B).enableLost p 0x0B
    let s := s.setPlate p { s.plate p with resetting := true }
    if s.runs p then s
    else (s.pst p F.pltStatus_scrubbing 1).wf (Reg.vfmPlateOwner p) F.vfmPlateOwner_scrubbing 1

/-! ### Rows -/

/-- START (R265, R268, R276). -/
def execStart (m p : Nat) (s : State) : Res := .next (s.sw m (Reg.pltCtrl p) fun s => s.startPlate p)

/-- STOP (R267, R269, R279, R387). -/
def execStop (m p : Nat) (s : State) : Res :=
  .next (s.sw m (Reg.pltCtrl p) fun s => (s.abandonLoad p).plateStop p 2)

/-- STOP_DRAIN_END (R267, R281): the transfers that a stopped plate had issued have ended. -/
def execStopDrainEnd (p : Nat) (s : State) : Res :=
  .next <|
    match (s.plate p).stopping with
    | some why =>
      if s.moverIdle p then
        let s := s.runEnd p why
        if (s.plate p).resetting then (s.pst p F.pltStatus_scrubbing 1).wf (Reg.vfmPlateOwner p) F.vfmPlateOwner_scrubbing 1 else s
      else s
    | none => s

/-- PROGRAM_END (R266, R372, R389): the sequencer has halted and every descriptor has ended. -/
def execProgramEnd (p : Nat) (s : State) : Res :=
  .next <|
    if s.runs p ∧ (s.plate p).stopping = none ∧ (s.core (.seq p)).run = .halted ∧ s.moverIdle p then (s.stopCores p).runEnd p 1
    else s

/-- PLATE_RESET (R281, R387): `PLT_CTRL.RESET`. -/
def execPlateReset (m p : Nat) (s : State) : Res := .next (s.sw m (Reg.pltCtrl p) fun s => s.plateReset p)

/-- PLATE_SCRUB_END (R79, R281, R533): zeroing ends; the plate's registers take their reset values. -/
def execPlateScrubEnd (p : Nat) (s : State) : Res :=
  .next <|
    if (s.plate p).resetting ∧ s.on (Reg.pltStatus p) F.pltStatus_scrubbing ∧ ¬ s.lost p then
      let s := (s.substAll p).zero (winBase p) (winBase (p + 1))
      let s := s.setPlate p { s.plate p with resetting := false, image := {}, claims := [], bars := (s.plate p).bars.map fun e => (e.1, { e.2 with mask := 0, arrived := 0 }) }
      let s := s.wf (Reg.vfmPlateOwner p) F.vfmPlateOwner_scrubbing 0
      let keep := [F.pltStatus_lost, F.pltStatus_spares]
      let old := s.rd (Reg.pltStatus p)
      let st := keep.foldl (fun w f => setFld w f.hi f.lo (fld old f.hi f.lo)) (regReset s.grade (Reg.pltStatus p))
      let s := (s.wr (Reg.pltStatus p) st).wr (Reg.pltCtrl p) (regReset s.grade (Reg.pltCtrl p))
      (List.range 8).foldl (fun t d => t.wr (Reg.pltDisp p d) (regReset t.grade (Reg.pltDisp p d))) s
    else s

/-- BARRIER_STALL (R270): barrier b of plate p has held a waiter for `BAR_STALL_US`. -/
def execBarrierStall (p b : Nat) (s : State) : Res :=
  .next <|
    let x := s.bar p b
    let us := s.rf (Reg.pltCtrl p) F.pltCtrl_bar_stall_us
    if x.arrived ≠ 0 ∧ ¬ x.told ∧ us ≠ 0 ∧ x.since + us * 1000 ≤ s.clk then
      let absent := (s.absentees p x).foldl (fun m i => m + 2 ^ i) 0
      (s.setBar p b { x with told := true }).raise .fault 18 3 (fn := s.plateFn p) (inst := p) (arg0 := b) (arg1 := absent)
    else s

/-- DISP_LIMIT_WRITE (R271): a write of `PLT_DISP[d].LIMIT`. -/
def execDispLimitWrite (m p d : Nat) (v : Word) (s : State) : Res :=
  .next <|
    s.sw m (Reg.pltDisp p d) fun s =>
      let s := s.setPlate p { s.plate p with claims := mclear (s.plate p).claims (d * 32) (d * 32 + 32) }
      s.wr (Reg.pltDisp p d) (BitVec.ofNat 64 (fld v 31 0))

/-- DESCRIPTOR_END (R272, R273, R264, R301): the oldest descriptor of queue q of plate p's mover ends. -/
def execDescriptorEnd (p q : Nat) (e : Env) (s : State) : Res := .next (s.descEnd p q e)

/-- BURIN_SUBSTITUTION (R276, R277, R282): firmware retires a physical burin after a hardware fault, or, with the plate
stopped, the copies of the substitutions that wait have ended. -/
def execBurinSubstitution (p : Nat) (retire : Option Nat) (s : State) : Res :=
  .next <|
    match retire with
    | some r => s.retireBurin p r
    | none => s.substAll p

/-- LOAD_GO (R278, R279): a write of `PLT_LOAD` with `GO` = 1. -/
def execLoadGo (m p : Nat) (v : Word) (s : State) : Res :=
  .next <|
    s.sw m (Reg.pltLoad p) fun s =>
      let t := s.loadGo p (fld v 63 6 * 64) (fld v 5 4)
      if (s.plate p).load.isNone ∧ (t.plate p).load.isSome then t.wr (Reg.pltLoad p) (BitVec.ofNat 64 (v.toNat / 16 * 16)) else t

/-- What awaits a load that has ended learns it: a LAUNCH's program starts, an ENABLE_GROUP's too (R370, R372). -/
def State.plateLoaded (s : State) (p : Nat) : State :=
  let r := s.rf (Reg.pltStatus p) F.pltStatus_load_result
  let s : State := match mget s.col.launches p with
    | some (j, true) =>
      if r = 1 then
        let t := ({ s with col.launches := mput s.col.launches p (j, false) }).startPlate p
        if t.runs p then t else t.launchEnd p 0x65 r
      else s.launchEnd p 0x65 r
    | _ => s
  let gs := s.col.groups.filter fun e => (e.2.enabling.getD []).contains p
  if gs = [] then s
  else if r = 1 then
    let t := s.startPlate p
    if t.runs p then
      gs.foldl (fun t e => t.enableStep e.1 (((t.group e.1).bind (·.enabling)).getD [] |>.filter (· ≠ p))) t
    else t.enableLost p 0x65
  else s.enableLost p 0x65

/-- LOAD_END (R279, R370, R372): the load of plate p runs to its end; what the image reads from outside comes in ext. -/
def execLoadEnd (p : Nat) (ext : List Byte) (s : State) : Res :=
  .next <|
    let t := s.loadRun p ext
    if (s.plate p).load.isSome ∧ (t.plate p).load.isNone then t.plateLoaded p else t

end Sys2Proof.Machine
end

