-- ==== Sys2Proof/Machine/CpfOps.lean ====
section
/-! DEFINITION. The end of counterproof (17_reproducibility.md R408, R413). -/

namespace Sys2Proof.Machine

/-- A recorded trace ends: its last stripe row is padded and programmed (R457). -/
def State.traceFlush (s : State) : State :=
  match s.cpf.vol with
  | some v =>
    match mget s.ps.vols v with
    | some x =>
      if s.on Reg.cpfCtrl F.cpfCtrl_rec ∧ s.cpfRole = 1 ∧ x.buf ≠ [] then
        s.volAppend v (List.replicate ((rowBytes - x.buf.length % rowBytes) % rowBytes) 0)
      else s
    | none => s
  | none => s

/-- Every plate's program stops (R267). -/
def State.stopAll (s : State) : State := (List.range 64).foldl (fun t p => t.plateStop p 2) s

/-- Every WQ is disabled (R107). -/
def State.disableAll (s : State) (own : Wq → Bool) : State :=
  s.wqe.wqs.foldl (fun t e => if own e.2 ∧ (e.2.st = .enabled ∨ e.2.st = .stopped) then t.wqDrain e.1 false else t) s

/-- Counterproof ends with a value of `END_CAUSE` (R413); a lead closes its trace with an end record (Table 17-7). -/
def State.cpfEnd (s : State) (cause : Nat) : State :=
  let st := s.rf Reg.cpfStatus F.cpfStatus_state
  if st ≠ 1 ∧ st ≠ 2 then s
  else
    let s := if s.leads then (s.traceOut 0 0x1F []).traceFlush else s
    let s := if s.cpfRuns then s.wf Reg.cpfCycle F.cpfCycle_cycle s.cpfCycle else s
    let s := ((s.wf Reg.cpfCtrl F.cpfCtrl_go 0).wf Reg.cpfStatus F.cpfStatus_state 3).wf Reg.cpfStatus F.cpfStatus_end_cause cause
    if cause = 1 then s
    else
      let s :=
        if 2 ≤ s.cpfRole then ({ s with cpf.halted := true }).stopAll
        else if s.on Reg.cpfCtrl F.cpfCtrl_on_mismatch then (s.stopAll).disableAll fun _ => true
        else s
      if 4 ≤ cause then s.raise .fault 16 3 (arg0 := cause) else s

end Sys2Proof.Machine
end

