-- ==== Sys2Proof/Machine/ProofStore.lean ====
section
/-! DEFINITION. The proof store (19_proof_store.md): segments, wear, health, checkpoints, and the rows CREATE_VOL to
ERASE_FAILURE but POWER_FAIL. Errors that the NAND shows come with the command. -/

namespace Sys2Proof.Machine

/-! ### Segments and health -/

/-- The module set as owner and as meter set (R89, R456). -/
def moduleSet : Nat := 1025

/-- The function an event names for a volume's owner (Table 22-7). -/
def ownerFn (f : Nat) : Nat := if f = moduleSet then 0x7FF else f

/-- Dies, and spare blocks of each at manufacture: 3 % of 7,450 (R452, log 48). -/
def psDies : Nat := 128
@[inherit_doc psDies] def psSpares : Nat := 223

/-- Free segments. -/
def State.freeSegs (s : State) : Nat := s.ps.free.foldl (fun a e => a + e.2) 0

/-- Erase counts of every segment: pairs of a count and how many have it. -/
def State.eraseCounts (s : State) : List (Nat × Nat) := s.ps.free ++ s.ps.vols.flatMap fun v => v.2.segs.map fun c => (c, 1)

/-- `USED` (R469): the mean erase count as a percentage of 3,000, saturating at 255. -/
def State.psUsed (s : State) : Nat :=
  let l := s.eraseCounts
  min 255 (l.foldl (fun a e => a + e.1 * e.2) 0 * 100 / (3000 * max 1 (l.foldl (fun a e => a + e.2) 0)))

/-- Spare blocks left on a die. -/
def State.spareBlocks (s : State) (d : Nat) : Nat := (mget s.ps.spares d).getD psSpares

/-- The state the store is in (`PRF_PS_HEALTH.STATE`). -/
def State.psState (s : State) : Nat := s.rf Reg.prfPsHealth F.prfPsHealth_state

/-- EV_PS_WEAR at 90 % and at each further whole percent passed (R469). -/
def State.evWear (s : State) (old new : Nat) : State :=
  (List.range' (max 90 (old + 1)) (new + 1 - max 90 (old + 1))).foldl (fun t u => t.raise .warning 15 15 (arg0 := u)) s

/-- The health register after a change (Table 19-9), with the states entered (Table 19-6); `short` when free segments cannot
cover the volumes. -/
def State.psSync (s : State) (short : Bool := false) : State :=
  let k := Reg.prfPsHealth
  let old := s.rf k F.prfPsHealth_used
  let used := s.psUsed
  let s := (s.wf k F.prfPsHealth_free_seg (min 0xFFFF s.freeSegs)).wf k F.prfPsHealth_used used
  let s := s.wf k F.prfPsHealth_max_pe (min 0xFFFF (s.eraseCounts.foldl (fun a e => if e.2 = 0 then a else max a e.1) 0))
  let s := s.wf k F.prfPsHealth_dies_retired s.ps.dies.length
  let s := s.wf k F.prfPsHealth_spare_pct
    ((List.range psDies).foldl (fun a d => a + s.spareBlocks d) 0 * 100 / (psDies * psSpares))
  let s := (s.wf k F.prfPsHealth_holdup_low (b2n s.ps.holdupLow)).evWear old used
  if s.psState = 3 then s
  else if s.psState = 2 ∨ short ∨ 16 < s.ps.dies.length then
    (if s.psState = 2 then s else (s.wf k F.prfPsHealth_state 2).raise .alarm 15 16)
  else s.wf k F.prfPsHealth_state (if 90 ≤ used then 1 else 0)

/-- The store fails (Table 19-6). -/
def State.psFail (s : State) : State :=
  if s.psState = 3 then s else (s.wf Reg.prfPsHealth F.prfPsHealth_state 3).raise .alarm 15 17

/-- The free segment with the fewest erases taken (R466): its count. -/
def takeSeg (m : Map Nat) : Option (Nat × Map Nat) :=
  match m.find? fun e => decide (e.2 ≠ 0) with
  | some (c, n) => some (c, if n = 1 then mdel m c else mput m c (n - 1))
  | none => none

/-- n segments taken, the least erased first. -/
def takeSegs : Nat → Map Nat → List Nat × Map Nat
  | 0, m => ([], m)
  | n + 1, m =>
    match takeSeg m with
    | some (c, m') => (c :: (takeSegs n m').1, (takeSegs n m').2)
    | none => ([], m)

/-- Segments freed: erased before their reuse (R458). -/
def giveSegs (l : List Nat) (m : Map Nat) : Map Nat := l.foldl (fun m c => mput m (c + 1) ((mget m (c + 1)).getD 0 + 1)) m

/-- NAND bytes programmed in a whole segment (R453). -/
def segNand : Nat := 268435456

/-- Segment i of volume v rewritten into a new one (R454, R466, R467): no byte of the volume changes. -/
def State.rewriteSeg (s : State) (v i : Nat) : State :=
  match mget s.ps.vols v, takeSeg s.ps.free with
  | some x, some (c, m) =>
    match x.segs[i]? with
    | some old =>
      let s : State := { s with ps.vols := mput s.ps.vols v { x with segs := x.segs.set i c }, ps.free := giveSegs [old] m,
                                ps.clean := false }
      (s.incF (Reg.prfPsStat 2) F.prfPsStat_count segNand).psSync
    | none => s
  | _, _ => s

/-! ### Volumes -/

/-- Bytes of a flash proof in pages of 64 KiB, and the segments that hold them (R459). -/
def FlashProof.size (p : FlashProof) : Nat := (p.image.length + p.parity.length) * pageSize

/-- The durable length of a volume's contents (R457); the LOG volume holds n records. -/
def Vol.length (x : Vol) (n : Nat) : Nat :=
  match x.kind with
  | .log => min (x.segs.length * segBytes) (n * 32 / rowBytes * rowBytes)
  | .proof => x.proofs.foldl (fun a p => a + p.segs * segBytes) 0
  | _ => x.data.length

/-- The durable length of volume v. -/
def State.durable (s : State) (v : Nat) : Nat :=
  match mget s.ps.vols v with
  | some x => Vol.length x s.mon.logVol.length
  | none => 0

/-- The records of the LOG volume, the oldest overwritten first (Table 19-2). -/
def State.logBytes (s : State) : List Byte :=
  let l := s.mon.logVol
  (l.drop (l.length - 256 * segBytes / 32)).flatMap fun e => e.bytes 0

/-- n bytes of a volume from an offset on; the layout of flash proofs is not stated, so their bytes are free values. -/
def State.volBytes (s : State) (v o n : Nat) : List Byte :=
  match mget s.ps.vols v with
  | some x =>
    match x.kind with
    | .log => (s.logBytes.drop o).take n
    | .proof => (List.range n).map fun i => BitVec.ofNat 8 (Config.freeValue (s.free + i)).toNat
    | _ => (x.data.drop o).take n
  | none => []

/-- Whether a TRACE volume is recorded or replayed (Table 19-3). -/
def State.tracing (s : State) (v : Nat) : Bool :=
  decide (s.cpf.vol = some v) && decide (s.rf Reg.cpfStatus F.cpfStatus_state ≠ 0)

/-! ### Commands (R458) -/

/-- A command ends; with a failed hold-up test it waits for the checkpoint that covers it (R465). -/
def State.psEnd (s : State) (r : Nat) : State :=
  let s := s.wf Reg.prfPsCmd F.prfPsCmd_result r
  if s.ps.holdupLow then { s with ps.waitCkpt := true, ps.clean := false }
  else { s.wf Reg.prfPsCmd F.prfPsCmd_go 0 with ps.clean := false }

/-- A command of `PRF_PS_CMD`: written by the PF with `GO` = 1, unless one is under way; a failed store ends each with 5, and
one that loses power begins none (Table 19-6, R464). -/
def State.psCmd (s : State) (m c : Nat) (act : State → State) : State :=
  s.sw m Reg.prfPsCmd fun s =>
    if s.on Reg.prfPsCmd F.prfPsCmd_go ∨ s.ps.failed then s
    else
      let s := (s.wf Reg.prfPsCmd F.prfPsCmd_cmd c).wf Reg.prfPsCmd F.prfPsCmd_go 1
      if s.psState = 3 then s.psEnd 5 else act s

/-- Fields of the arguments (Table 19-8). -/
def State.psArg (s : State) (i hi lo : Nat) : Nat := nbits (s.rd (Reg.prfPsArg i)).toNat hi lo
/-- `VOL`. -/
def State.psVol (s : State) : Nat := s.psArg 0 5 0

/-- CREATE_VOL (R456, R458). -/
def execCreateVol (m : Nat) (s : State) : Res :=
  .next <|
    s.psCmd m 1 fun s =>
      let v := s.psVol
      let kind := s.psArg 0 7 6
      let owner := s.psArg 0 18 8
      let n := s.psArg 0 47 32
      if 2 ≤ kind ∨ n = 0 ∨ (kind = 0 ∧ 1024 < owner) then s.psEnd 1
      else if v < 4 ∨ (mget s.ps.vols v).isSome then s.psEnd 2
      else if s.freeSegs < n then s.psEnd 3
      else
        let r := takeSegs n s.ps.free
        let x : Vol := { kind := if kind = 0 then .proof else .trace, owner := if kind = 0 then owner else moduleSet, segs := r.1 }
        (({ s with ps.vols := mput s.ps.vols v x, ps.free := r.2 }).psSync).psEnd 0

/-- DELETE_VOL (R457, R458). -/
def execDeleteVol (m : Nat) (s : State) : Res :=
  .next <|
    s.psCmd m 2 fun s =>
      let v := s.psVol
      match mget s.ps.vols v with
      | none => s.psEnd 2
      | some x =>
        if v < 4 ∨ (x.kind = .proof ∧ (mget s.prf.jobs x.owner).isSome) ∨ s.tracing v then s.psEnd 2
        else (({ s with ps.vols := mdel s.ps.vols v, ps.free := giveSegs x.segs s.ps.free }).psSync).psEnd 0

/-- Codes of `KIND` (Table 19-8). -/
def VolKind.code : VolKind → Nat
  | .proof => 0
  | .trace => 1
  | .firmware => 2
  | .freqplan => 3
  | .log => 3

/-- QUERY_VOL (R458, Table 19-8). -/
def execQueryVol (m : Nat) (s : State) : Res :=
  .next <|
    s.psCmd m 3 fun s =>
      let v := s.psVol
      match mget s.ps.vols v with
      | none => s.psEnd 2
      | some x =>
        let s := s.wr (Reg.prfPsArg 0)
          (BitVec.ofNat 64 (v + x.kind.code * 2 ^ 6 + x.owner * 2 ^ 8 + min 65535 x.segs.length * 2 ^ 32))
        ((((s.wr (Reg.prfPsArg 1) (BitVec.ofNat 64 (s.durable v))).wr (Reg.prfPsArg 2) 0).wr (Reg.prfPsArg 3) 0)).psEnd 0

/-- What the NAND shows while data is read (R454): codewords read again at shifted levels, those rebuilt from stripe parity,
the segment whose data needed a rebuild. -/
def State.nandRead (s : State) (v reread rebuilt seg : Nat) : State :=
  let s := (s.incF (Reg.prfPsStat 3) F.prfPsStat_count reread).incF (Reg.prfPsStat 4) F.prfPsStat_count rebuilt
  if rebuilt = 0 then s else s.rewriteSeg v seg

/-- VOLUME_READ (R454, R456, R458): READ. `bad` is the offset of bytes that cannot be corrected, if there are any. -/
def execVolumeRead (m reread rebuilt : Nat) (bad : Option Nat) (s : State) : Res :=
  .next <|
    s.psCmd m 4 fun s =>
      let v := s.psVol
      let o := s.psArg 1 47 0
      let n := s.psArg 2 47 0
      let d := s.psArg 3 39 6 * 64
      match mget s.ps.vols v with
      | none => s.psEnd 2
      | some x =>
        if o % 4096 ≠ 0 ∨ n % 4096 ≠ 0 then s.psEnd 1
        else if s.durable v < o + n then s.psEnd 4
        else
          let t := s.nandRead v reread rebuilt (o / segBytes)
          match bad.filter fun b => decide (o ≤ b) && decide (b < o + n) with
          | some b => (t.raise .fault 15 10 (fn := ownerFn x.owner) (inst := v) (arg1 := b)).psEnd 5
          | none =>
            match (linesOf d n).findSome? fun l => t.check 0 (l * 64) with
            | some u => u.psEnd 7
            | none =>
              let t := (t.incF (Reg.prfPsStat 0) F.prfPsStat_count n).meter x.owner 9 n
              (({ t.devStore d (t.volBytes v o n) with free := t.free + (if x.kind = VolKind.proof then n else 0) }).meter 0 5 n).psEnd 0

/-- VOLUME_WRITE (R453, R457, R458, R460, R469): WRITE; the last stripe row is padded with zeros. HBM that the host holds
gives `host`. -/
def execVolumeWrite (m : Nat) (host : List Byte) (s : State) : Res :=
  .next <|
    s.psCmd m 5 fun s =>
      let v := s.psVol
      let n := s.psArg 2 47 0
      let d := s.psArg 3 39 6 * 64
      match mget s.ps.vols v with
      | none => s.psEnd 2
      | some x =>
        let pad := cdiv n rowBytes * rowBytes
        if n % 4096 ≠ 0 then s.psEnd 1
        else if x.kind ≠ .trace ∨ s.tracing v then s.psEnd 2
        else if s.psState = 2 then s.psEnd 6
        else if x.segs.length * segBytes < x.data.length + pad then
          (s.raise .warning 15 11 (fn := ownerFn x.owner) (inst := v)).psEnd 3
        else match (linesOf d n).findSome? fun l => s.check 0 (l * 64) with
          | some u => u.psEnd 7
          | none =>
            let bs := s.devBytes d n host
            let s := (s.cxlReqs 0 d n).meter 0 4 n
            let s : State := { s with ps.vols := mput s.ps.vols v { x with data := x.data ++ bs ++ List.replicate (pad - n) 0, buf := [] } }
            let s := ((s.incF (Reg.prfPsStat 1) F.prfPsStat_count n).incF (Reg.prfPsStat 2) F.prfPsStat_count (pad / 15 * 16)).meter x.owner 8 n
            s.psEnd 0

/-- TRUNCATE (R457, R458). -/
def execTruncate (m : Nat) (s : State) : Res :=
  .next <|
    s.psCmd m 6 fun s =>
      let v := s.psVol
      match mget s.ps.vols v with
      | none => s.psEnd 2
      | some x =>
        match x.kind with
        | .trace => ({ s with ps.vols := mput s.ps.vols v { x with data := [], buf := [] } }).psEnd 0
        | .log => ({ s with mon.logVol := [] }).psEnd 0
        | _ => s.psEnd 2

/-! ### Checkpoints, hold-up, background work, failures -/

/-- A checkpoint of the metadata (R463). -/
def State.checkpoint (s : State) : State :=
  let s : State := { s with ps.ckpt := s.ps.vols, ps.ckptInc := s.rf Reg.topInc F.topInc_inc, ps.clean := true }
  if s.ps.waitCkpt then { s.wf Reg.prfPsCmd F.prfPsCmd_go 0 with ps.waitCkpt := false } else s

/-- PS_CHECKPOINT (R463, R465): at a segment close, a command end, or the 1 s timer while anything has changed. -/
def execPsCheckpoint (s : State) : Res :=
  .next (if s.ps.failed ∨ s.psState = 3 ∨ s.ps.clean then s else s.checkpoint)

/-- HOLDUP_TEST (R465): the hold-up that a discharge measured, in microseconds. -/
def execHoldupTest (us : Nat) (s : State) : Res :=
  .next <|
    let s := ({ s with ps.holdupLow := decide (us < 5000) }).psSync
    if us < 5000 then s.raise .fault 15 13 (arg0 := us % 65536) else s

/-- PS_SCRUB (R462, R467): segment i of volume v read: its worst codeword needed `corr` corrections; it has reached its
retention age or not. -/
def execPsScrub (v i corr : Nat) (aged : Bool) (reread rebuilt : Nat) (s : State) : Res :=
  .next <|
    if s.ps.failed ∨ s.psState = 3 then s
    else
      let t := s.nandRead v reread rebuilt i
      if rebuilt = 0 ∧ (96 < corr ∨ aged) then t.rewriteSeg v i else t

/-- WEAR_LEVEL_MOVE (R466): segment i of volume v, unchanged for a number of days, moved when its erase count trails the
highest by more than 300. -/
def execWearLevelMove (v i days : Nat) (s : State) : Res :=
  .next <|
    match (mget s.ps.vols v).bind fun x => x.segs[i]? with
    | some c =>
      if 30 ≤ days ∧ c + 300 < s.rf Reg.prfPsHealth F.prfPsHealth_max_pe ∧ ¬ s.ps.failed ∧ s.psState ≠ 3 then s.rewriteSeg v i else s
    | none => s

/-- Free segments fewer by n; whether they cannot cover that. -/
def dropSegs (n : Nat) (m : Map Nat) : Map Nat × Bool :=
  let r := takeSegs n m
  (r.2, decide (r.1.length < n))

/-- A die retired (R468): capacity falls by 1/128. -/
def State.retireDie (s : State) (d : Nat) : State :=
  let total := s.eraseCounts.foldl (fun a e => a + e.2) 0
  let r := dropSegs (total / psDies) s.ps.free
  let s : State := { s with ps.free := r.1, ps.dies := sins s.ps.dies d, ps.spares := mput s.ps.spares d 0, ps.clean := false }
  (s.raise .warning 15 14 (inst := d)).psSync r.2

/-- A block of die d retired; a spare takes its place, or, with none left or where the die fails whole, the die is retired. -/
def State.retireBlock (s : State) (d : Nat) (whole : Bool) : State :=
  if s.ps.dies.contains d ∨ psDies ≤ d then s
  else
    let s := s.incF (Reg.prfPsStat 5) F.prfPsStat_count 1
    if whole ∨ s.spareBlocks d = 0 then s.retireDie d
    else ({ s with ps.spares := mput s.ps.spares d (s.spareBlocks d - 1), ps.clean := false }).psSync

/-- PROGRAM_FAILURE (R468): a block of die d fails a program; `moved` bytes already in it are written again. -/
def execProgramFailure (d moved : Nat) (whole : Bool) (s : State) : Res :=
  .next ((s.incF (Reg.prfPsStat 2) F.prfPsStat_count moved).retireBlock d whole)

/-- ERASE_FAILURE (R468): a block of die d fails an erase. -/
def execEraseFailure (d : Nat) (whole : Bool) (s : State) : Res := .next (s.retireBlock d whole)

end Sys2Proof.Machine
end

