-- ==== Sys2Proof/Machine/ProofOps.lean ====
section
/-! DEFINITION. Proof jobs (18_proofs.md): pages and parity, the job table and its trees, cuts, deltas, commits, rollbacks,
losses and fences. Messages between members are `Out` values of kind `msg`: virtual channel, node, 100 + kind, `JOB_ID` and
arguments, with the kinds 1 PREPARED, 2 COMMIT, 3 FAIL, 4 FLASH_DONE, 5 FLASH_FAILED, 6 FLASH_USABLE, 7 ROLLBACK, 8 ROLLED,
9 RECOVERED, 10 TAKEOVER, 11 LEAVE, 12 report of ADD_SPARES, 13 its acknowledgement, 14 question of a new coordinator, 15 its
answer, 16 end of a rebuild, 17 MOVE, 20 heartbeat, 21 SUSPECT, 22 fault report (the formats are closed; log 50). -/

namespace Sys2Proof.Machine

/-! ### Pages and GF(2^8) (R421) -/

/-- A page: its bytes that are not 0, by offset. -/
abbrev Page := Map Byte

/-- The exclusive or of two pages. -/
def pxor (a b : Page) : Page := b.foldl (fun m e => dput m 0 e.1 (dget m 0 e.1 ^^^ e.2)) a

/-- 2 times a byte, with the polynomial x^8 + x^4 + x^3 + x^2 + 1. -/
def gfDouble (b : Byte) : Byte := (b <<< 1) ^^^ (if b.msb then 0x1D else 0)

/-- g^i times a byte, with g = 2. -/
def gfPow : Nat → Byte → Byte
  | 0, b => b
  | i + 1, b => gfPow i (gfDouble b)

/-- The product of two bytes. -/
def gfMul (a b : Byte) : Byte := (List.range 8).foldl (fun r i => if a.getLsbD i then r ^^^ gfPow i b else r) 0

/-- The inverse of a byte that is not 0. -/
def gfInv (a : Byte) : Byte := (((List.range 255).map fun i => BitVec.ofNat 8 (i + 1)).find? fun b => decide (gfMul a b = 1)).getD 0

/-- A page times a byte. -/
def pmul (c : Byte) (p : Page) : Page := p.map fun e => (e.1, gfMul c e.2)

/-- The 64 KiB of a page. -/
def pageBytes (p : Page) : List Byte := (List.range pageSize).map fun i => dget p 0 i

/-- The page that bytes make. -/
def pageOf (l : List Byte) : Page := l.zipIdx.foldl (fun m e => dput m 0 e.2 e.1) []

/-! ### Members and trees -/

/-- The job of a function. -/
def State.job (s : State) (f : Nat) : Option Job := mget s.prf.jobs f

/-- The function's job changed. -/
def State.updJob (s : State) (f : Nat) (g : Job → Job) : State := { s with prf.jobs := mupd s.prf.jobs f g }

/-- The job with a `JOB_ID`: the first of them by function. -/
def State.jobOf (s : State) (id : Nat) : Option (Nat × Job) := s.prf.jobs.find? fun e => decide (e.2.id = id)

/-- `STATE` of a job: 1 Idle, 2 Running, 3 Stepping, 4 Recovering, 5 Lost, 6 Fenced. -/
def State.jobSt (s : State) (f : Nat) : Nat := s.rf (Reg.prfJob f) F.prfJob_state
@[inherit_doc State.jobSt]
def State.setJobSt (s : State) (f n : Nat) : State := s.wf (Reg.prfJob f) F.prfJob_state n

/-- The last committed proof number. -/
def State.committed (s : State) (f : Nat) : Nat := (s.rd (Reg.prfCommitted f)).toNat

/-- Members that are not spares, by rank in the commit tree (R428). -/
def Job.ranks (j : Job) : List Nat := j.members.zipIdx.filterMap fun e => if e.1.spare then none else some e.2

/-- The coordinator (R429): the lowest of them not lost. -/
def Job.coord (j : Job) : Option Nat := j.ranks.find? fun i => !j.lostSet.contains i

/-- The nearest ancestor of a rank that is not lost. -/
def Job.climb (j : Job) : Nat → Nat → Option Nat
  | 0, _ => none
  | fuel + 1, r =>
    if r = 0 then none
    else match j.ranks[(r - 1) / 16]? with
      | some i => if j.lostSet.contains i then j.climb fuel ((r - 1) / 16) else some i
      | none => none

/-- The parent of member i; where every ancestor is lost, the coordinator. -/
def Job.parent (j : Job) (i : Nat) : Option Nat :=
  if j.coord = some i then none
  else match j.ranks.findIdx? fun x => decide (x = i) with
    | none => none
    | some r => (j.climb 5 r).orElse fun _ => j.coord

/-- The children of this member. -/
def Job.kidList (j : Job) : List Nat :=
  j.ranks.filter fun i => decide (i ≠ j.self) && !j.lostSet.contains i && decide (j.parent i = some j.self)

/-- Whether this member is the coordinator. -/
def Job.leads (j : Job) : Bool := decide (j.coord = some j.self)

/-- This member's entry. -/
def Job.me (j : Job) : Member := j.members.getD j.self ⟨0, 0, 0, 0, false, false⟩

/-- The senders of member h, ranked by index (R426). -/
def Job.senders (j : Job) (h : Nat) : List Nat :=
  j.members.zipIdx.filterMap fun e =>
    let g := j.groups.getD e.1.group ⟨[], [], 0⟩
    if e.1.data ∧ (g.p.contains h ∨ g.q.contains h) then some e.2 else none

/-- The rank of sender i at holder h. -/
def Job.slotRank (j : Job) (h i : Nat) : Nat := ((j.senders h).findIdx? fun x => decide (x = i)).getD 0

/-- The holders of image page k of this member: P, then Q. -/
def Job.holdersOf (j : Job) (k : Nat) : List Nat :=
  if j.me.data then
    let g := j.groups.getD j.me.group ⟨[], [], 0⟩
    [g.p.getD (k % 8) 0, g.q.getD (k % 8) 0]
  else []

/-- Every member that holds parity of this member's pages. -/
def Job.holders (j : Job) : NSet := ((List.range 8).flatMap j.holdersOf).foldl sins []

/-- The key of a parity page: group, stripe, 0 for P or 1 for Q, page of the stripe. -/
def parityKey (g st q t : Nat) : Nat := ((g * 8 + st) * 2 + q) * 2 ^ 32 + t

/-- A message to member i of a job. -/
def State.say (s : State) (j : Job) (i kind : Nat) (args : List Nat) : State :=
  match j.members[i]? with
  | some m => s.emit .msg ([7, m.node, 100 + kind, j.id] ++ args)
  | none => s

/-- A message down the tree. -/
def State.sayKids (s : State) (j : Job) (kind : Nat) (args : List Nat) : State := j.kidList.foldl (fun t i => t.say j i kind args) s

/-! ### Cuts and deltas (R423-R428) -/

/-- The contents of image page k, where HBM holds it. -/
def State.pageNow (s : State) (j : Job) (k : Nat) : Option Page :=
  j.regions.findSome? fun e =>
    if e.2.page ≤ k then (e.2.hbm[k - e.2.page]?).map fun g => s.pageAt (g * pageSize) else none

/-- The contents of image page k at the last cut, when cut n is taken: those of a region that was removed; none in a region
added since; else those the interval's undo generation kept. -/
def State.pageOld (s : State) (j : Job) (n k : Nat) : Page :=
  match mget j.gone k with
  | some p => p
  | none =>
    if j.regions.any fun e => e.2.fresh && decide (e.2.page ≤ k) && decide (k < e.2.page + e.2.len / pageSize) then []
    else ((mget ((mget j.gens n).getD []) k).orElse fun _ => s.pageNow j k).getD []

/-- Whether log 1 of function f, in the buffer that has been active, marks HBM page g. -/
def State.loggedIn (s : State) (f g : Nat) : Bool :=
  let i := g - (s.part f).1 / pageSize
  (s.byte (s.dlogBuf f 1 + i / 8)).getLsbD (i % 8)

/-- The active buffer of log 1 zeroed and the other made active, as the harvest at a cut leaves them (R86, R427). -/
def State.switchLog1 (s : State) (f : Nat) : State :=
  let b := s.dlogBuf f 1
  (s.zero b (b + s.dlogLen f)).wf (Reg.vfmDlogCmd f) F.vfmDlogCmd_active1 (1 - s.rf (Reg.vfmDlogCmd f) F.vfmDlogCmd_active1)

/-- Deltas noted for sending to the holders of their pages. -/
def Job.owe (j : Job) (ds : List (Nat × Page)) : Job :=
  { j with deltas := ds.foldl (fun m e => mput m e.1 e.2) j.deltas
           todo := j.todo ++ ds.flatMap fun e => (j.holdersOf e.1).map fun h => (h, e.1) }

/-- A delta sent to holder h in the sender's next slot, where that slot is free (R425, R426). -/
def State.sendDelta (s : State) (f h k : Nat) : Option State :=
  match s.job f with
  | none => none
  | some j =>
    match mget j.qps h with
    | none => none
    | some (q, key) =>
      let i := (mget j.slotNext h).getD 0
      let used := (mget j.slots h).getD []
      if used.contains i ∨ (mget s.qpe.qps q).map (·.st) ≠ some .active then none
      else
        let s := s.engineSend q f key ((16 * j.slotRank h j.self + i) * pageSize) (2 ^ 28 + k % 2 ^ 28)
          (pageBytes ((mget j.deltas k).getD []))
        some (s.updJob f fun j => { j with slotNext := mput j.slotNext h ((i + 1) % 16), slots := mput j.slots h (sins used i),
                                           sent := mmod j.sent h 0 (· + 1) })

/-- The end notice to holder h, with the count of deltas (R425). -/
def State.sendEnd (s : State) (f h : Nat) : State :=
  match s.job f with
  | none => s
  | some j =>
    match mget j.qps h with
    | none => s
    | some (q, key) =>
      if j.told.contains h ∨ (j.todo.any fun e => decide (e.1 = h)) ∨ j.peersLeft ≠ [] ∨
          (mget s.qpe.qps q).map (·.st) ≠ some .active then s
      else (s.engineSend q f key 0 (2 * 2 ^ 28 + (mget j.sent h).getD 0 % 2 ^ 28) []).updJob f fun j => { j with told := sins j.told h }

/-- What can be sent of a step's deltas and end notices is sent. -/
def State.jobPump (s : State) (f : Nat) : State :=
  match s.job f with
  | none => s
  | some j =>
    if ¬ j.stepping then s
    else
      let r := j.todo.foldl (fun (a : State × List (Nat × Nat)) e =>
        match a.1.sendDelta f e.1 e.2 with
        | some t => (t, a.2)
        | none => (a.1, a.2 ++ [e])) (s, [])
      j.holders.foldl (fun t h => t.sendEnd f h) (r.1.updJob f fun j => { j with todo := r.2 })

/-- Cut n is taken (R427): log 1 is harvested, generation n + 1 opens, the pages changed give their deltas, and the copies
of peer regions start. -/
def State.takeCut (s : State) (f n : Nat) : State :=
  match s.job f with
  | none => s
  | some j =>
    let logged := j.regions.flatMap fun e => (e.2.hbm.zipIdx.filter fun x => s.loggedIn f x.1).map fun x => e.2.page + x.2
    let fresh := j.regions.flatMap fun e => if e.2.fresh then range' e.2.page e.2.hbm.length else []
    let ks := (logged ++ fresh ++ ((mget j.gens n).getD []).map (·.1) ++ j.gone.map (·.1)).foldl sins []
    let ds := ks.map fun k => (k, pxor ((s.pageNow j k).getD []) (s.pageOld j n k))
    let j1 : Job := { j with cut := n, stepping := true, waiting := none, deltas := [], todo := [], sent := [], told := [],
                             ready := false, forwarded := false, failSent := false,
                             peersLeft := (j.regions.filter fun e => decide (e.2.space = 2)).map (·.1) }
    let s := ((s.updJob f fun _ => j1.owe ds).switchLog1 f).meter f 4 (2 * ds.length * pageSize)
    (s.setJobSt f 3).jobPump f

/-- Whether every delta announced by every sender has been folded (R428). -/
def Job.folded (j : Job) : Bool :=
  (j.senders j.self).all fun p =>
    match mget j.announced p with
    | some n => decide ((mget j.got p).getD 0 = n)
    | none => false

/-- Whether this member is prepared (R428). -/
def State.isPrepared (s : State) (j : Job) : Bool :=
  j.stepping && !j.ready && j.todo.isEmpty && j.peersLeft.isEmpty && j.holders.all (fun h => j.told.contains h) &&
    s.qpe.trk.all (fun t => !j.qps.any fun q => decide (q.2.1 = t.qp) && decide (0x40000 ≤ t.wqn)) && j.folded

/-! ### Commit and flash proofs (R429, R432, R433, R459) -/

/-- The proof volume of a function: the lowest-numbered. -/
def State.proofVol (s : State) (f : Nat) : Option (Nat × Vol) :=
  s.ps.vols.find? fun e => decide (e.2.kind = VolKind.proof) && decide (e.2.owner = f)

/-- The state digests of R414: each protected region's SHA-384, after the proof number and the region number. -/
def State.stateDigests (s : State) (f n : Nat) : State :=
  if s.on Reg.cpfCtrl F.cpfCtrl_state_cmp then
    match s.job f with
    | some j => j.regions.foldl (fun t e =>
        let bs := e.2.hbm.flatMap fun g => t.bytes (g * pageSize) pageSize
        t.observe 0 0x14 (leBytes 8 n ++ leBytes 2 f ++ leBytes 2 e.1 ++ leBytes 48 (sha384 (nats bs)))) s
    | none => s
  else s

/-- The commit WQ counts a commit (R431). -/
def State.commitWqUp (s : State) (j : Job) : State :=
  match j.commitWq with
  | some w => { s with wqe.wqs := mupd s.wqe.wqs w fun q => { q with completed := q.completed + 1 } }
  | none => s

/-- The image and the parity stripes as they stood at commit n: a page changed since comes from generation n + 1 (R432). -/
def State.proofImage (s : State) (f n : Nat) : Option FlashProof :=
  match s.job f with
  | none => none
  | some j =>
    let g := (mget j.gens (n + 1)).getD []
    let image := j.regions.flatMap fun e =>
      (List.range (e.2.len / pageSize)).map fun i =>
        let k := e.2.page + i
        (k, (((mget g k).orElse fun _ => s.pageNow j k).orElse fun _ => mget j.peerNew k).getD [])
    let pg := (mget j.parityGens (n + 1)).getD []
    some { n := n, regions := j.regions.map (fun e => (e.2.base, e.2.len, e.2.space)), image := image,
           parity := j.parityMem.map fun e => (e.1, (mget pg e.1).getD e.2) }

/-- A report of flash proof n goes up the tree once the subtree has it (R433, R459). -/
def State.flashUp (s : State) (f : Nat) : State :=
  match s.job f with
  | none => s
  | some j =>
    if j.flashFailed ∨ ¬ j.flashSelf ∨ ¬ j.kidList.all fun i => j.flashKids.contains i then s
    else match j.parent j.self with
      | some p => s.say j p 4 [j.flashN, j.self]
      | none => s

/-- The failure of flash proof n reported up the tree (R459). -/
def State.flashFails (s : State) (f n : Nat) : State :=
  match s.job f with
  | none => s
  | some j =>
    let s := s.updJob f fun j => { j with flashN := n, flashFailed := true }
    match j.parent j.self with
    | some p => s.say j p 5 [n, j.self]
    | none => s

/-- FLASH_USABLE(n) takes effect (R433): only the two latest proofs are kept. -/
def State.flashUsable (s : State) (f n : Nat) : State :=
  match s.job f with
  | none => s
  | some j =>
    let s := (s.sayKids j 6 [n]).wr (Reg.prfFlash f) (BitVec.ofNat 64 n)
    match s.proofVol f with
    | some (v, x) =>
      let l := x.proofs.map fun p => if p.n = n then { p with usable := true } else p
      { s with ps.vols := mput s.ps.vols v { x with proofs := l.drop (l.length - 2) }, ps.clean := false }
    | none => s

/-- The coordinator makes flash proof n usable once every member has it. -/
def State.flashCheck (s : State) (f : Nat) : State :=
  match s.job f with
  | some j =>
    if j.leads ∧ j.flashSelf ∧ ¬ j.flashFailed ∧ j.kidList.all fun i => j.flashKids.contains i then s.flashUsable f j.flashN
    else s.flashUp f
  | none => s

/-- A flash proof starts (R432), or fails at once for want of room (R459). -/
def State.flashStart (s : State) (f n : Nat) : State :=
  match s.proofImage f n with
  | none => s
  | some p =>
    let segs := cdiv p.size segBytes
    let room : Bool := match s.proofVol f with
      | some (_, x) => decide (x.proofs.foldl (fun a q => a + q.segs) 0 + segs ≤ x.segs.length)
      | none => false
    if room ∧ s.psState < 2 ∧ ¬ s.ps.failed then
      (s.wf (Reg.prfJob f) F.prfJob_flash_busy 1).updJob f fun j =>
        { j with snap := some { p with segs := segs }, flashN := n, flashSelf := false, flashKids := [], flashFailed := false }
    else
      ((s.updJob f fun j => { j with flashN := n, flashSelf := false, flashKids := [] }).raise .warning 15 11 (fn := f)
        (inst := ((s.proofVol f).map (·.1)).getD 0)).flashFails f n

/-- A STEP that waits is taken once nothing holds it (R430). -/
def State.stepWaiting (s : State) (f : Nat) : State :=
  match s.job f with
  | some j =>
    (match j.waiting with
      | some n => if j.stepping ∨ s.on (Reg.prfJob f) F.prfJob_flash_busy then s else s.takeCut f n
      | none => s)
  | none => s

/-- Proof n commits on this member (R429): forwarded first, then acted on. -/
def State.commitJob (s : State) (f n : Nat) : State :=
  match s.job f with
  | none => s
  | some j =>
    let s := (s.sayKids j 2 [n]).wr (Reg.prfCommitted f) (BitVec.ofNat 64 n)
    let s := s.updJob f fun j => { j with
      gens := mdel j.gens n, parityGens := mdel j.parityGens n, peerOld := j.peerNew, gone := []
      regions := j.regions.map fun e => (e.1, { e.2 with fresh := false })
      stepping := false, ready := false, kids := [], forwarded := false, deltas := [], got := [], announced := [] }
    let s := (s.commitWqUp j).raise .trace 15 4 (fn := f) (arg1 := n)
    let s := (s.setJobSt f 2).stateDigests f n
    let s := if j.flashEvery ≠ 0 ∧ n % j.flashEvery = 0 then s.flashStart f n else s
    s.stepWaiting f

/-- A PREPARED sent up, or the commit taken, once this member and its children are prepared (R428, R429). -/
def State.prepUp (s : State) (f : Nat) : State :=
  match s.job f with
  | none => s
  | some j =>
    if ¬ j.ready ∨ j.forwarded ∨ ¬ j.kidList.all fun i => j.kids.contains i then s
    else if j.leads then s.commitJob f j.cut
    else match j.parent j.self with
      | some p => (s.say j p 1 [j.cut, j.self]).updJob f fun j => { j with forwarded := true }
      | none => s

/-! ### Rollback (R442, R443, R450) -/

/-- What a rollback does to a job's function at once (Table 18-4, elements 1 to 4, 7 and 8): groups and plates, WQs, QPs, the
commit WQ, the event. -/
def State.rollbackFn (s : State) (f c : Nat) (lost : NSet) : State :=
  match s.job f with
  | none => s
  | some j =>
    let plates := (List.range 64).filter fun p => decide (s.plateOwner p = f)
    let s := (s.col.groups.filter fun e => decide (e.2.owner = f)).foldl (fun t e => t.collRollback e.1) s
    let s := plates.foldl (fun t p => (t.launchEnd p 0x0F 0).plateStop p 2) s
    let s := (s.wqe.wqs.filter fun e => decide (e.2.owner = f)).foldl (fun t e =>
      if e.2.st = .disabled then t
      else
        let t := t.setWq e.1 { ((mget t.wqe.wqs e.1).getD e.2) with st := .draining, polling := false, granted := 0 }
        let t := t.finishAll 0x0F ((e.2.ents.filter fun x => decide (x.st ≠ .done)).map fun x => (e.1, x.slot))
        ({ t with wqe.due := t.wqe.due.filter (· ≠ e.1) }).retire e.1 128) s
    let s := (s.qpe.qps.filter fun e => decide (e.2.owner = f) && !s.engineQp e.1).foldl (fun t e => t.qpError e.1 0x0F 0x0F) s
    let s := match j.commitWq with
      | some w => { s with wqe.wqs := mupd s.wqe.wqs w fun q => { q with firstFail := some q.completed } }
      | none => s
    s.raise .fault 15 5 (fn := f) (arg0 := lost.length % 2 ^ 16 + (lost.head?.getD 0xFFFF) * 2 ^ 16) (arg1 := c)

/-- A pending STEP or ADD_SPARES of a job ends. -/
def State.endPending (s : State) (f c st : Nat) : State :=
  if s.on (Reg.prfCmd f) F.prfCmd_go ∧ s.rf (Reg.prfCmd f) F.prfCmd_cmd = c then s.prfEnd f st else s

/-- ROLLBACK(c, lost set) acts on this member (R443): forwarded; the job is Recovering, or Lost, until its pages are
restored; without a committed proof a Lost job restores nothing (R450). -/
def State.rollback (s : State) (f c : Nat) (lost : NSet) (unrec : Bool) : State :=
  match s.job f with
  | none => s
  | some j =>
    let newly := lost.filter fun i => !j.lostSet.contains i
    let j1 : Job := { j with lostSet := newly.foldl sins j.lostSet }
    let k := Reg.prfJob f
    let s := (s.incF k F.prfJob_lost_count newly.length).wf k F.prfJob_coord (j1.coord.getD 0)
    let s := (s.updJob f fun _ => j1).sayKids j1 7 ([c, b2n unrec] ++ lost)
    let s := if s.committed f < c then s.commitJob f c else s
    let s := s.updJob f fun j => { j with
      stepping := false, waiting := none, deltas := [], todo := [], peersLeft := [], slots := [], slotNext := [], slotIn := []
      got := [], announced := [], ready := false, kids := [], forwarded := false, failSent := false, snap := none
      target := c, restoring := !(unrec && decide (c = 0)), rolledSelf := false, rolled := [], rolledSent := false
      recovered := false, asking := false, answers := [] }
    let s := { s with col.notices := s.col.notices.filter fun n => !j1.qps.any fun q => decide (q.2.1 = n.1) }
    let s := (s.endPending f 6 0x0F).wf k F.prfJob_flash_busy 0
    let s := s.setJobSt f (if unrec ∨ s.jobSt f = 5 then 5 else 4)
    if unrec ∧ c = 0 then s else (s.rollbackFn f c lost).cpfEnd 10

/-- Stripes with more than two of their modules lost: group and stripe of the first (R448, R450). -/
def Job.broken (j : Job) : Option (Nat × Nat) :=
  j.groups.zipIdx.findSome? fun g =>
    (List.range 8).findSome? fun st =>
      let data := j.members.zipIdx.filterMap fun e => if e.1.data ∧ e.1.group = g.2 then some e.2 else none
      let lost := (data ++ [g.1.p.getD st 0, g.1.q.getD st 0]).filter fun i => j.lostSet.contains i
      if 2 < lost.length then some (g.2, st) else none

/-- The coordinator picks spares for the lost members that have none (R444). -/
def State.pickSpares (s : State) (f : Nat) : State :=
  match s.job f with
  | none => s
  | some j =>
    j.lostSet.foldl (fun t x =>
      match t.job f with
      | none => t
      | some j =>
        if j.picked.any fun e => decide (e.2 = x) then t
        else match (j.members.zipIdx.find? fun e => e.1.spare && decide (e.2 < j.pickable) && (mget j.picked e.2).isNone &&
            !t.nodeLostAt e.1.node && !t.fab.moves.any fun v => decide (v.2 = e.1.node)) with
          | some (_, i) =>
            (t.say j i 10 [(j.members.getD x ⟨0, 0, 0, 0, false, false⟩).node]).updJob f fun j =>
              { j with picked := mput j.picked i x, noSpare := sdel j.noSpare x }
          | none =>
            if j.noSpare.contains x then t
            else (t.updJob f fun j => { j with noSpare := sins j.noSpare x }).raise .fault 15 7 (fn := f) (arg0 := x)) s

/-- The coordinator rolls the job back to its last committed proof (R442, R450). -/
def State.rollAll (s : State) (f : Nat) : State :=
  match s.job f with
  | none => s
  | some j =>
    let c := s.committed f
    let was := s.jobSt f = 5
    match j.broken with
    | some (g, st) =>
      let s := if was then s else s.raise .alarm 15 9 (fn := f) (arg0 := g + st * 2 ^ 12)
      s.rollback f c j.lostSet true
    | none =>
      if c = 0 ∧ j.lostSet ≠ [] then
        let s := if was then s else (s.draw).raise .alarm 15 9 (fn := f) (arg0 := s.freeVal.toNat % 2 ^ 15)
        s.rollback f 0 j.lostSet true
      else (s.rollback f c j.lostSet was).pickSpares f

/-- Member i of a job is lost or has left (R429, R437, R442): the coordinator rolls back; a new one asks the others for their
committed proofs first, and each of them answers it. -/
def State.memberLost (s : State) (f i : Nat) : State :=
  match s.job f with
  | none => s
  | some j =>
    if j.lostSet.contains i ∨ ¬ j.ranks.contains i ∨ i = j.self ∨ s.jobSt f = 6 then s
    else
      let j1 : Job := { j with lostSet := sins j.lostSet i, rebuilt := sdel j.rebuilt i,
                               picked := j.picked.map fun e => if e.2 = i then (e.1, 0x10000) else e }
      let k := Reg.prfJob f
      let s := (s.updJob f fun _ => j1).incF k F.prfJob_lost_count 1
      let s := s.wf k F.prfJob_coord (j1.coord.getD 0)
      if ¬ j1.leads then
        (match j1.coord with
          | some c => if j.coord = some c then s else s.say j1 c 15 [s.committed f, j.self]
          | none => s)
      else if j.leads ∨ s.committed f = 0 then s.rollAll f
      else
        let others := j1.ranks.filter fun x => decide (x ≠ j.self) && !j1.lostSet.contains x
        if others = [] then s.rollAll f
        else others.foldl (fun t x => t.say j1 x 14 [j.self]) (s.updJob f fun j => { j with asking := true, answers := [] })

/-- A member that cannot prepare says FAIL (R429). -/
def State.sendFail (s : State) (f : Nat) : State :=
  match s.job f with
  | none => s
  | some j =>
    if ¬ j.stepping ∨ j.ready ∨ j.failSent then s
    else if j.leads then s.rollAll f
    else match j.coord with
      | some c => (s.say j c 3 [j.cut]).updJob f fun j => { j with failSent := true }
      | none => s

/-- A WRITE of an engine on QP n fails: a collective of its ring ends, or a step of its job fails. -/
def State.engineFail (s : State) (n st : Nat) : State :=
  match s.prf.jobs.find? fun e => e.2.qps.any fun q => decide (q.2.1 = n) with
  | some e => s.sendFail e.1
  | none => s.collEngineFail n st

/-- Collectives and steps that depend on a QP that is not Active fail. -/
def State.sweepQps (s : State) (aborted : Option Nat := none) : State :=
  (s.prf.jobs.map (·.1)).foldl (fun t f =>
    match t.job f with
    | some j =>
      if j.stepping ∧ ¬ j.ready ∧ j.qps.any fun q => decide ((mget t.qpe.qps q.2.1).map (·.st) ≠ some .active) then t.sendFail f else t
    | none => t) (s.collSweep aborted)

/-! ### Recovery (R446, R447) -/

/-- RECOVERED(c) reaches this member: forwarded; the job waits for RESUME. -/
def State.recover (s : State) (f c : Nat) : State :=
  match s.job f with
  | none => s
  | some j =>
    let j1 : Job := { j with lostSet := [], noSpare := [], rebuilt := [], rolled := [], rolledSent := false, recovered := true,
                             rebuild := false, cut := c, pickable := j.pickable }
    let s := ((s.updJob f fun _ => j1).sayKids j1 9 [c]).wr (Reg.prfCommitted f) (BitVec.ofNat 64 c)
    (s.wf (Reg.prfJob f) F.prfJob_coord (j1.coord.getD 0)).setJobSt f 4

/-- A ROLLED sent up, or RECOVERED, once this member, its children and every rebuild are done (R443, R447). -/
def State.rolledUp (s : State) (f : Nat) : State :=
  match s.job f with
  | none => s
  | some j =>
    if ¬ j.rolledSelf ∨ ¬ j.kidList.all fun i => j.rolled.contains i then s
    else if j.leads then
      (if s.jobSt f = 4 ∧ ¬ j.recovered ∧ j.lostSet.all fun i => j.rebuilt.contains i then s.recover f (s.committed f) else s)
    else if j.rolledSent then s
    else match j.parent j.self with
      | some p => (s.say j p 8 [s.committed f, j.self]).updJob f fun j => { j with rolledSent := true }
      | none => s

/-! ### Fences and losses (R436, R438, R439) -/

/-- This module is fenced: what it does for each job (R438). -/
def State.fence (s : State) : State :=
  (s.prf.jobs.map (·.1)).foldl (fun t f =>
    if t.jobSt f = 6 then t
    else
      let plates := (List.range 64).filter fun p => decide (t.plateOwner p = f)
      let t := plates.foldl (fun u p => u.plateStop p 2) t
      let t := t.disableAll fun q => decide (q.owner = f)
      let t := (t.qpe.qps.filter fun e => decide (e.2.owner = f)).foldl (fun u e => u.qpError e.1 0x0E) t
      let t := (t.setJobSt f 6).wf (Reg.prfJob f) F.prfJob_flash_busy 0
      let t := t.updJob f fun j => { j with stepping := false, waiting := none, todo := [], snap := none }
      let t := [6, 8, 10].foldl (fun u c => u.endPending f c 0x0E) t
      t.raise .alarm 15 6 (fn := f) (arg0 := ((t.job f).map (·.id)).getD 0 % 2 ^ 32)) s

/-- Node x is lost: this module's QPs to it fail and its jobs lose the member (R438, R442; the transport chapter's words on a
peer declared lost); this module itself is fenced. -/
def State.nodeIsLost (s : State) (x : Nat) : State :=
  if x = s.node then s.fence
  else
    let s := ((s.qpe.qps.filter fun e => decide (e.2.rnode = x) && decide (e.2.transport ≠ 0 ∨ e.2.rnode ≠ s.node)).foldl
      (fun t e => t.qpError e.1 0x0E) s).sweepQps
    s.prf.jobs.foldl (fun t e =>
      (e.2.members.zipIdx.filter fun m => decide (m.1.node = x) && !m.1.spare).foldl (fun (u : State) (m : Member × Nat) => u.memberLost e.1 m.2) t) s

end Sys2Proof.Machine
end

