-- ==== Sys2Proof/Machine/Hooks.lean ====
section
/-! DEFINITION. What the loss of a link or a node means to the other units. -/

namespace Sys2Proof.Machine

/-- The Amholt link of quad n, which was Active, has gone down: counterproof over a trace link ends
(17_reproducibility.md R405). -/
def State.onLinkDown (s : State) (n : Nat) : State :=
  if s.rf Reg.cpfStatus F.cpfStatus_state ≠ 0 ∧ nbit (s.rf Reg.cpfCtrl F.cpfCtrl_tlinks) n then s.cpfEnd 9 else s

/-- A node is recorded lost. -/
def State.onNodeLost (s : State) (x : Nat) : State := s.nodeIsLost x

end Sys2Proof.Machine
end

