-- ==== Sys2Proof/Machine/Fabric.lean ====
section
/-! DEFINITION. Links, the router and rerouting (08_amholt_fabric.md): the rows FAB_PORT_EN_WRITE to AUTO_ROUTE_WRITE. -/

namespace Sys2Proof.Machine

/-! ### Sending -/

/-- An output port's arbitration. -/
def State.fout (s : State) (n : Nat) : FabOut := (mget s.fab.outs n).getD {}

@[inherit_doc State.fout]
def State.setFout (s : State) (n : Nat) (o : FabOut) : State := { s with fab.outs := mput s.fab.outs n o }

/-- Cells of the packet that output n is sending leave while they are there and the retry buffer has room (R181, R186). -/
def State.forward_ (s : State) (n : Nat) : Nat → State
  | 0 => s
  | fuel + 1 =>
    match (s.fout n).cur with
    | none => s
    | some (i, vc) =>
      let key := i * 8 + vc
      match s.fifo key with
      | [] => s
      | p :: ps =>
        if p.total ≤ p.sent then
          (((s.setFifo key ps true).setFout n { s.fout n with cur := none }).fifoAdvance key 64)
        else match p.data[p.sent]? with
          | none => s
          | some d =>
            if ¬ s.fabActive n ∨ 2048 ≤ (s.link n).retry.length then s
            else
              let s := (s.sendCell n p.vc p.poison d).freeCells key 1 p.credit
              (s.setFifo key ({ p with sent := p.sent + 1 } :: ps) false).forward_ n fuel

/-- The output that is sending the packet at the head of a FIFO, if one is. -/
def State.sender (s : State) (key : Nat) : Option Nat :=
  (List.range 12).find? fun n => decide ((s.fout n).cur = some (key / 8, key % 8))

/-! ### Fault map -/

/-- Whether two entries name the same thing. -/
def FaultEnt_same (a b : FaultEnt) : Bool :=
  decide (a.lost = b.lost) && decide (a.node = b.node) && (a.lost || (decide (a.dim = b.dim) && decide (a.dir = b.dir)))

/-- An entry sent on VC7 to the control core of each link partner but one (R202). -/
def State.flood (s : State) (e : FaultEnt) (except_ : Nat) : State :=
  (List.range 12).foldl (fun t n =>
    if t.fabActive n ∧ n ≠ except_ then
      t.emit .msg [7, (t.link n).peerNode, b2n e.lost, e.node, e.dim, e.dir, e.stamp, e.inc, b2n e.removal]
    else t) s

/-- An entry added to the map or removed from it, and sent on, if that changes the map (R202, R543); the loss of the root
moves `EFF_ROOT` (R230). -/
def State.faultEntry (s : State) (e : FaultEnt) (except_ : Nat) : State :=
  let known := s.fab.faults.any (FaultEnt_same e)
  if e.removal then
    if known then ({ s with fab.faults := s.fab.faults.filter fun x => ! FaultEnt_same e x, fab.routeDue := true }).flood e except_ else s
  else if known then s
  else
    let s := ({ s with fab.faults := s.fab.faults ++ [e], fab.routeDue := true }).flood e except_
    if e.lost then
      let s := if e.node = s.effRoot then { s with tim.rootLost := true } else s
      s.onNodeLost e.node
    else s

/-! ### Link stages -/

/-- A stage entered; a change raises the port's source (Table 20-2). -/
def State.setStage (s : State) (n st : Nat) : State :=
  if s.lstate n = st then s
  else ((s.wf (Reg.fabPortStatus n) F.fabPortStatus_lstate st).edge (0x80 + n)).cpfNote n 0x07 [BitVec.ofNat 8 st]

/-- The link of quad n goes back to Down without having been Active. -/
def State.trainFail (s : State) (n : Nat) (waiting : Bool) : State :=
  (s.setStage n 0).setLink n { s.link n with since := s.clk, waiting := waiting, good := 0, peerSeen := false }

/-- The packets of input n when its link fails (R201): a part of a packet is discarded, or, if it is being forwarded, made
whole with void cells; nothing here counts as credit any more. -/
def State.inputFails (s : State) (n : Nat) : State :=
  (List.range 8).foldl (fun t vc =>
    let key := n * 8 + vc
    let l := (t.fifo key).filterMap fun p =>
      if p.whole then some { p with credit := false }
      else if p.started then some { p with credit := false, poison := true, data := p.data ++ List.replicate (p.total - p.data.length) [] }
      else none
    let t := t.setFifo key l ((l.head?).map (·.started) = some false)
    match t.sender key with
    | some o => t.forward_ o 64
    | none => t) s

/-- The packets routed to output n dropped under reason 2 (R201). -/
def State.outputFails (s : State) (n : Nat) : State :=
  let s := (s.fab.bufs).foldl (fun t e =>
    let hit (p : FPkt) : Bool := p.routed && !p.drop && decide (p.out = n)
    let t := (e.2.filter hit).foldl (fun u p => u.fabDrop 2 n p.hdr) t
    t.setFifo e.1 ((t.fifo e.1).map fun p => if hit p then { p with drop := true, started := false, total := p.total - p.sent, data := p.data.drop p.sent, sent := 0 } else p) false) s
  let s := s.setFout n {}
  (s.fab.bufs.map (·.1)).foldl (fun t k => t.fifoAdvance k 64) s

/-- The link of quad n goes down for a reason of R182; one that was Active latches its sequence numbers, reports it, and
leaves its place in the fault map (R182, R201, R202). -/
def State.linkFails (s : State) (n r : Nat) : State :=
  if s.lstate n ≠ 4 then s.trainFail n (decide (r ≠ 4))
  else
    let l := s.link n
    let k := Reg.fabPortStatus n
    let good := (l.exp + 4095) % 4096
    let s := ((s.wf k F.fabPortStatus_last_good_seq good).wf k F.fabPortStatus_last_ack_seq l.acked).wf k F.fabPortStatus_down_reason r
    let s := s.incF (Reg.fabPortErr n) F.fabPortErr_down_count 1
    let s := s.raise .fault 7 1 (inst := n) (arg0 := r) (arg1 := l.peerNode + good * 2 ^ 16 + l.acked * 2 ^ 28)
    let s := (s.setStage n 0).setLink n { dim := l.dim, dir := l.dir, dateline := l.dateline, peerNode := l.peerNode,
                                                peerPort := l.peerPort, peerInc := l.peerInc, since := s.clk, waiting := decide (r ≠ 4), refusedAt := l.refusedAt, sampleAt := l.sampleAt }
    let s := (s.inputFails n).outputFails n
    let s := s.faultEntry { lost := false, node := s.node, dim := min 5 l.dim, dir := l.dir, stamp := s.time, inc := s.inc } 12
    s.onLinkDown n

/-- The link of quad n starts training when it is enabled and its quad is an Amholt one. -/
def State.linkStart (s : State) (n : Nat) : State :=
  if s.on (Reg.fabPort n) F.fabPort_en ∧ s.rf (Reg.macQuad n) F.macQuad_mode = 2 ∧ s.lstate n = 0 ∧ ¬ (s.link n).waiting ∧ s.pd (68 + n) = 2 then
    (s.setStage n 1).setLink n { s.link n with since := s.clk }
  else s

/-- FAB_PORT_EN_WRITE (R173, R177): a write of `FAB_PORTn`. -/
def execFabPortEnWrite (m n : Nat) (v : Word) (s : State) : Res :=
  .next <|
    if 12 ≤ n then s
    else s.sw m (Reg.fabPort n) fun s =>
      let k := Reg.fabPort n
      let old := s.rd k
      let was := s.on k F.fabPort_en
      let t := s.softW k v
      let t := if was then t.wr k (setFld (t.rd k) 7 3 (fld old 7 3)) else t
      let now := t.on k F.fabPort_en
      if was = now then t
      else if now then
        (t.setLink n { t.link n with dim := t.rf k F.fabPort_dim, dir := t.rf k F.fabPort_dir, dateline := t.on k F.fabPort_dateline }).linkStart n
      else if t.lstate n = 0 then t else t.linkFails n 4

/-- PHY_LOCK (R177): the link enters ID. -/
def execPhyLock (n : Nat) (s : State) : Res :=
  .next <|
    if n < 12 ∧ s.lstate n = 1 then
      ((s.setStage n 2).setLink n { s.link n with since := s.clk, good := 0, peerSeen := false, echo := 0, echoRx := 0 }).sendTrain n 1
    else s

/-- PHY_LOCK_TIMEOUT (R177). -/
def execPhyLockTimeout (n : Nat) (s : State) : Res :=
  .next (if n < 12 ∧ s.lstate n = 1 ∧ (s.link n).since + 500000000 ≤ s.clk then s.trainFail n true else s)

/-- TRAINING_TIMEOUT (R177). -/
def execTrainingTimeout (n : Nat) (s : State) : Res :=
  .next (if n < 12 ∧ (s.lstate n = 2 ∨ s.lstate n = 3) ∧ (s.link n).since + 1000000 ≤ s.clk then s.trainFail n true else s)

/-- DOWN_WAIT_EXPIRY (R177). -/
def execDownWaitExpiry (n : Nat) (s : State) : Res :=
  .next <|
    if n < 12 ∧ s.lstate n = 0 ∧ (s.link n).waiting ∧ (s.link n).since + 10000000 ≤ s.clk then
      (s.setLink n { s.link n with waiting := false }).linkStart n
    else s

/-- A partner refused (R178): the link goes down, with the fault at most once per second. -/
def State.refuseLink (s : State) (n r node : Nat) : State :=
  let l := s.link n
  let due := match l.refusedAt with | some t => decide (t + 1000000000 ≤ s.clk) | none => true
  let s := if due then (s.setLink n { l with refusedAt := some s.clk }).raise .fault 7 2 (inst := n) (arg0 := r) (arg1 := node) else s
  s.trainFail n true

/-- The reason to refuse the partner that a training cell shows, its round trip apart (R178). -/
def State.partnerBad (s : State) (n : Nat) (c : List Byte) : Option Nat :=
  let node := cfld c 4 2
  if node = s.node then some 1
  else if s.on (Reg.fabPort n) F.fabPort_exp_en ∧ node ≠ s.rf (Reg.fabPort n) F.fabPort_exp_node then some 2
  else if cfld c 16 1 < 35 ∨ cfld c 17 1 < 18 ∨ cfld c 14 2 < 6 * cfld c 16 1 + 2 * cfld c 17 1 then some 4
  else if nbits (cfld c 0 4) 27 24 ≠ 1 then some 5
  else none

/-- The time fields of a cell, from its `T_TX` at byte a: round trip and partner offset in 2^-16 ns (R200). -/
def State.exchange (s : State) (c : List Byte) (a : Nat) : Int × Int :=
  let t3 : Int := cfld c a 10
  let t1 : Int := cfld c (a + 10) 10
  let t2 : Int := cfld c (a + 20) 10
  let t4 : Int := s.now80
  ((t4 - t1) - (t3 - t2), ((t3 - t4) + (t2 - t1)) / 2)

/-- The asymmetry of quad n in 2^-16 ns. -/
def State.asym (s : State) (n : Nat) : Int := sgn 16 (s.rf (Reg.fabPort n) F.fabPort_asym) * 65536 / 1000

/-- A cell's time exchange taken (R199, R200): the round trip is shown and the offset passed on. -/
def State.timeExchange (s : State) (n : Nat) (c : List Byte) (a : Nat) (lock : Bool) : State :=
  let s :=
    if cfld c (a + 10) 10 = 0 then s
    else
      let (rtt, off) := s.exchange c a
      (s.wf (Reg.fabPortStatus n) F.fabPortStatus_rtt (satU 14 (rtt / 65536).toNat)).linkSample n (off + s.asym n) lock
  s.setLink n { s.link n with echo := cfld c a 10, echoRx := s.now80 }

/-- The link enters Active (R179, R196); a link of the fault map that is up again is removed from it, and so is a partner
recorded lost that comes back with another incarnation (R543). -/
def State.linkActive (s : State) (n : Nat) : State :=
  let l := s.link n
  let k := Reg.fabPortStatus n
  let s := ((s.setStage n 4).wf k F.fabPortStatus_peer_node l.peerNode).wf k F.fabPortStatus_peer_port l.peerPort
  let s := s.setLink n { l with
    seq := 0, exp := 0, acked := 0, ackedAt := s.clk, retry := [], nak := false, resends := 0, cur := 0, left := 0,
    sent := List.replicate 8 0, credit := List.replicate 8 0, freed := List.replicate 8 0, held := List.replicate 8 0 }
  let s := s.setFout n {}
  let s := if s.on Reg.topReset F.topReset_node_ovr_en then
      s.emit .msg [7, l.peerNode, 117, s.node, (mget s.fab.moves s.node).getD s.node] else s
  let s := s.faultEntry { lost := false, node := s.node, dim := min 5 l.dim, dir := l.dir, stamp := s.time, inc := s.inc, removal := true } 12
  let s := s.faultEntry { lost := false, node := l.peerNode, dim := min 5 l.dim, dir := 1 - l.dir, stamp := s.time, inc := l.peerInc, removal := true } 12
  match s.fab.faults.find? fun e => e.lost && decide (e.node = l.peerNode) with
  | some e => if e.inc ≠ l.peerInc then s.faultEntry { e with removal := true, stamp := s.time } 12 else s
  | none => s

/-- A bad cell (R175, R180): counted, and answered with one NAK. -/
def State.badCell (s : State) (n : Nat) : State :=
  let s := s.incF (Reg.fabPortErr n) F.fabPortErr_bad_cells 1
  if s.lstate n = 4 then (if (s.link n).nak then s else (s.setLink n { s.link n with nak := true }).sendCtl n true)
  else s.setLink n { s.link n with good := 0 }

/-- TRAINING_CELL_RECEIVED (R177-R179, R199, R200, R543). -/
def execTrainingCellReceived (n : Nat) (c : List Byte) (s : State) : Res :=
  .next <|
    if 12 ≤ n ∨ ¬ (s.lstate n = 2 ∨ s.lstate n = 3) then s
    else if ¬ cellGood c then s.badCell n
    else if nbits (cfld c 0 4) 31 30 ≠ 3 then s
    else match s.partnerBad n c with
      | some r => s.refuseLink n r (cfld c 4 2)
      | none =>
        let s := s.setLink n { s.link n with
          good := (s.link n).good + 1, peerSeen := true, peerNode := cfld c 4 2, peerInc := cfld c 6 2, peerPort := cfld c 8 1 % 16
          rxCells := cfld c 14 2, resData := cfld c 16 1, resMgmt := cfld c 17 1 }
        let rtt := (s.exchange c 20).1
        let s := s.timeExchange n c 20 false
        if s.lstate n = 2 then (if 8 ≤ (s.link n).good then (s.setStage n 3).sendTrain n 2 else s.sendTrain n 1)
        else if nbit (cfld c 0 4) 23 ∧ cfld c 10 2 = s.node ∧ cfld c 12 1 % 16 = n then
          if 10000 * 65536 < rtt then s.refuseLink n 3 (cfld c 4 2) else s.linkActive n
        else s.sendTrain n 2

/-! ### Cells -/

/-- An acknowledgement of the partner (R181). -/
def State.ackTo (s : State) (n a : Nat) : State :=
  let l := s.link n
  let k := (a + 4096 - l.acked) % 4096
  if 1 ≤ k ∧ k ≤ l.retry.length then
    s.setLink n { l with acked := a, ackedAt := s.clk, retry := l.retry.drop k, resends := 0 }
  else s

/-- The retry buffer sent again (R181); the sixteenth time in a row without progress the link fails (R182). -/
def State.resendCells (s : State) (n : Nat) : State :=
  let l := s.link n
  if l.retry = [] then s
  else
    let s := s.incF (Reg.fabPortErr n) F.fabPortErr_resends 1
    if 15 ≤ l.resends then s.linkFails n 3
    else
      let s := s.setLink n { l with resends := l.resends + 1, ackedAt := s.clk }
      l.retry.foldl (fun t c => t.emit .cell [n] c) s

/-- The cells that one more on a VC would put beyond what was advertised (R182, R183). -/
def FabLink.overrun (l : FabLink) (vc : Nat) : Bool :=
  let h := bump l.held vc 1
  if 6 ≤ vc then decide (20 < h.getD vc 0)
  else decide (1792 < (List.range 6).foldl (fun a v => a + (h.getD v 0 - 36)) 0)

/-- DATA_CELL_RECEIVED (R175, R176, R180, R182, R183, R186). -/
def execDataCellReceived (n : Nat) (c : List Byte) (s : State) : Res :=
  .next <|
    if 12 ≤ n ∨ s.lstate n ≠ 4 then s
    else if ¬ cellGood c then s.badCell n
    else
      let w := cfld c 0 4
      let l := s.link n
      let seq := nbits w 29 18
      if nbits w 31 30 ≠ 1 then s
      else if seq ≠ l.exp then
        if (l.exp + 4096 - seq) % 4096 ≤ 2048 ∨ l.nak then s
        else (s.setLink n { l with nak := true }).sendCtl n true
      else
        let s := (s.setLink n { l with exp := (l.exp + 1) % 4096, nak := false }).ackTo n (nbits w 17 6)
        let d := (c.drop 4).take 120
        let void := nbit w 0
        if l.left = 0 then
          let h := pktOfHdr (d.take 32)
          if 4096 < h.plen ∨ l.overrun h.vc then s.linkFails n 5
          else
            let k := pktCells h
            let key := n * 8 + h.vc
            let s := s.setLink n { s.link n with cur := h.vc, left := k - 1, held := bump (s.link n).held h.vc 1 }
            let f : FPkt := { hdr := h, data := [d], total := k, poison := void }
            s.setFifo key (s.fifo key ++ [f]) (s.fifo key).isEmpty
        else if l.overrun l.cur then s.linkFails n 5
        else
          let key := n * 8 + l.cur
          let s := s.setLink n { s.link n with left := l.left - 1, held := bump (s.link n).held l.cur 1 }
          let q := s.fifo key
          let s := s.setFifo key (q.mapIdx fun i p => if i + 1 = q.length then { p with data := p.data ++ [d], poison := p.poison || void } else p) false
          match s.sender key with
          | some o => s.forward_ o 64
          | none => s.fifoAdvance key 64

/-- CONTROL_CELL_RECEIVED (R180, R181, R183, R199, R200). -/
def execControlCellReceived (n : Nat) (c : List Byte) (s : State) : Res :=
  .next <|
    if 12 ≤ n ∨ s.lstate n ≠ 4 then s
    else if ¬ cellGood c then s.badCell n
    else
      let w := cfld c 0 4
      if nbits w 31 30 ≠ 2 then s
      else
        let s := s.ackTo n (nbits w 29 18)
        let s := s.setLink n { s.link n with credit := (List.range 8).map (fun v => cfld c (4 + 2 * v) 2), peerInc := cfld c 52 2 }
        let s := s.timeExchange n c 20 (nbit (cfld c 54 1) 7)
        let s := if nbit w 17 then s.resendCells n else s
        if s.fabActive n then s.forward_ n 64 else s

/-- ACK_SEQ_TIMEOUT (R181): 4 µs without an advance while cells are not acknowledged. -/
def execAckSeqTimeout (n : Nat) (s : State) : Res :=
  .next (if s.fabActive n ∧ (s.link n).retry ≠ [] ∧ (s.link n).ackedAt + 4000 ≤ s.clk then s.resendCells n else s)

/-- CONTROL_CELL_DUE (R181). -/
def execControlCellDue (n : Nat) (s : State) : Res := .next (if s.fabActive n then s.sendCtl n false else s)

/-- LINK_FAIL (R182, R201, R202, R405, R439). -/
def execLinkFail (n reason : Nat) (s : State) : Res :=
  .next (if n < 12 ∧ 1 ≤ reason ∧ reason ≤ 5 ∧ s.lstate n ≠ 0 then s.linkFails n reason else s)

/-! ### Forwarding -/

/-- PACKET_HEAD_ARRIVAL (R185, R186, R188, R192): the oldest packet of input n that has not been routed is. -/
def execPacketHeadArrival (n : Nat) (s : State) : Res :=
  .next <|
    if 12 ≤ n then s
    else match (range' (n * 8) 8).find? fun k => (s.fifo k).any fun p => !p.routed with
      | none => s
      | some key =>
        match (s.fifo key).find? fun p => !p.routed with
        | none => s
        | some p =>
          let (out, vc, why) := s.routeOf n p.hdr
          let p' := { p with routed := true, out := out, vc := vc, drop := why.isSome }
          let i := (s.fifo key).findIdx fun p => !p.routed
          let s := s.setFifo key ((s.fifo key).set i p') false
          let s := match why with | some r => s.fabDrop r n p.hdr | none => s
          s.fifoAdvance key 64

/-- The smaller of two tags modulo 2^32 (R196). -/
def tagLess (a b : Nat) : Bool := decide (1 ≤ (b + 2 ^ 32 - a) % 2 ^ 32) && decide ((b + 2 ^ 32 - a) % 2 ^ 32 < 2 ^ 31)

/-- Cells in use on VC v of the partner of quad n (R183). -/
def FabLink.used (l : FabLink) (v : Nat) : Nat := (l.sent.getD v 0 + 2 ^ 16 - l.credit.getD v 0 % 2 ^ 16) % 2 ^ 16

/-- Whether the partner's buffer holds k more cells on a data VC (R183). -/
def FabLink.dataCredit (l : FabLink) (v k : Nat) : Bool :=
  decide (l.used v + k ≤ l.resData) ||
    decide ((List.range 6).foldl (fun a x => a + ((l.used x + if x = v then k else 0) - l.resData)) 0 ≤
      l.rxCells - 6 * l.resData - 2 * l.resMgmt)

/-- Whether the reserve of VC6 or VC7 admits a packet from input i: two maximum packets' room to enter a ring (R190). -/
def State.bubble (s : State) (i n v k : Nat) : Bool :=
  let l := s.link n
  let enters := decide (i = 12) || decide (min 5 (s.link i).dim ≠ min 5 l.dim)
  decide (l.used v + (if enters then 18 else k) ≤ l.resMgmt)

/-- The packet at the head of a FIFO that waits for output n. -/
def State.waiting_ (s : State) (n key : Nat) : Option FPkt :=
  match s.fifo key with
  | p :: _ => if p.routed && !p.started && !p.drop && decide (p.out = n) then some p else none
  | [] => none

/-- The FIFOs whose head, on VC v, may start on output n (R190, R196). -/
def State.mgmtReady (s : State) (n v : Nat) : Option Nat :=
  (List.range 13).find? fun i =>
    match s.waiting_ n (i * 8 + v) with
    | some p => s.bubble i n v p.total
    | none => false

/-- The VCs of input i whose head data packet may start on output n, and whether its opening is too short (R196, R237). -/
def State.dataReady (s : State) (n i : Nat) : List (Nat × Bool) :=
  (List.range 6).filterMap fun v =>
    match s.waiting_ n (i * 8 + v) with
    | some p =>
      if (s.link n).dataCredit p.vc p.total then (s.gate n (p.hdr.tc % 8) (p.total * 1296)).map fun o => (v, o) else none
    | none => none

/-- A packet started on an output: its first cell carries HOPS and VC as this router sets them (R184, R188). -/
def State.startPkt (s : State) (n i v : Nat) : State :=
  match s.fifo (i * 8 + v) with
  | [] => s
  | p :: ps =>
    let h := { p.hdr with hops := if i = 12 then 0 else p.hdr.hops + 1, vc := p.vc }
    let d := match p.data with | c :: cs => (pktHdr h ++ c.drop 32) :: cs | [] => []
    let s := s.setFifo (i * 8 + v) ({ p with started := true, data := d } :: ps) false
    let s := if i = 12 then s.cpfNote 12 0x05 [BitVec.ofNat 8 n] else s.meter 1025 0 p.hdr.plen
    (s.setFout n { s.fout n with cur := some (i, v) }).forward_ n 64

/-- The weight of an input at an output (R196). -/
def State.weight (s : State) (n i hops : Nat) : Nat :=
  if i = 12 then 1
  else 1 + ((s.fout n).hist.filter fun h => decide (h.2.1 = i) && decide (s.clk < h.1 + 6554)).foldl (fun a h => max a h.2.2) hops

/-- OUTPUT_GRANT (R25, R190, R196, R237, R238): output n, when it is free, starts a packet: VC7, then VC6 within its cap, then
data by hop-weighted tags. -/
def execOutputGrant (n : Nat) (s : State) : Res :=
  .next <|
    if ¬ s.fabActive n ∨ (s.fout n).cur ≠ none then s
    else match s.mgmtReady n 7 with
      | some i => s.startPkt n i 7
      | none =>
        let o := s.fout n
        let o := if o.vc6Window + 820 ≤ s.clk then { o with vc6Window := s.clk, vc6Cells := 0 } else o
        let six := match s.mgmtReady n 6 with
          | some i => (match s.waiting_ n (i * 8 + 6) with
            | some p => if o.vc6Cells + p.total ≤ 20 then some (i, p.total) else none
            | none => none)
          | none => none
        match six with
        | some (i, k) => (s.setFout n { o with vc6Cells := o.vc6Cells + k }).startPkt n i 6
        | none =>
          let ready := (List.range 13).filterMap fun i => match s.dataReady n i with | [] => none | l => some (i, l)
          let tags := (List.range 13).map fun i =>
            let t := o.tags.getD i 0
            if ready.any (fun r => decide (r.1 = i)) && !o.had.contains i && tagLess t o.v then o.v else t
          let o := { o with tags := tags, had := ready.map (·.1) }
          let best := ready.foldl (fun (b : Option (Nat × List (Nat × Bool))) r => match b with
            | none => some r
            | some x => if tagLess (tags.getD r.1 0) (tags.getD x.1 0) then some r else some x) none
          match best with
          | none => s.setFout n o
          | some (i, l) =>
            let pick := ((l.find? fun x => decide (o.rr.getD i 0 < x.1)).orElse fun _ => l.head?).getD (0, false)
            match s.waiting_ n (i * 8 + pick.1) with
            | none => s
            | some p =>
              let w := s.weight n i p.hdr.hops
              let t := tags.getD i 0
              let o := { o with v := t, tags := tags.set i ((t + p.total * 4096 / w) % 2 ^ 32), rr := o.rr.set i pick.1
                                hist := (o.hist.filter fun h => s.clk < h.1 + 6554) ++ [(s.clk, i, p.hdr.hops)] }
              let s := s.setFout n o
              (if pick.2 then s.overlong n (p.hdr.tc % 8) else s).startPkt n i pick.1

/-- VC_HEAD_TIMEOUT (R190): a VC6 or VC7 packet has waited 20 µs at the head of a FIFO of input i. -/
def execVcHeadTimeout (i vc : Nat) (s : State) : Res :=
  .next <|
    let key := i * 8 + vc
    match s.fifo key with
    | p :: ps =>
      if (vc = 6 ∨ vc = 7) ∧ i < 13 ∧ ¬ p.started ∧ ¬ p.drop ∧ (mget s.fab.headAt key).getD 0 + 20000 ≤ s.clk then
        ((s.fabDrop 8 i p.hdr).setFifo key ({ p with drop := true } :: ps) false).fifoAdvance key 64
      else s
    | [] => s

/-- VC_STALL_TIMEOUT (R198): reported once per stall. -/
def execVcStallTimeout (i vc : Nat) (s : State) : Res :=
  .next <|
    let key := i * 8 + vc
    let ms := s.rf Reg.fabCtrl F.fabCtrl_stall_ms
    match s.fifo key with
    | p :: _ =>
      if vc < 6 ∧ i < 13 ∧ ms ≠ 0 ∧ ¬ p.drop ∧ ¬ s.fab.stalled.contains key ∧ (mget s.fab.headAt key).getD 0 + ms * 1000000 ≤ s.clk then
        ({ s with fab.stalled := sins s.fab.stalled key }).raise .fault 7 3 (inst := i) (arg0 := vc)
      else s
    | [] => s

/-! ### Flips -/

/-- Whether an armed flip is due. -/
def State.flipDue (s : State) : Bool := s.on Reg.fabFlip F.fabFlip_arm && decide ((s.rd Reg.fabFlipTime).toNat ≤ s.time)

/-- The flip (R194); a fault-map entry not yet in the table makes it late (R203). -/
def State.flip (s : State) : State :=
  let side := s.rf Reg.fabFlip F.fabFlip_to
  let t := (s.rd Reg.fabFlipTime).toNat
  let s := (s.wf Reg.fabCtrl F.fabCtrl_inj_state side).wf Reg.fabFlip F.fabFlip_arm 0
  let s := { s with fab.flipAt := some t, fab.drained := false }
  if s.fab.routeDue ∧ s.on Reg.fabCtrl F.fabCtrl_auto_route then s.raise .alarm 7 7 (arg0 := side) (arg1 := t) else s

/-- FLIP_ARM (R194): a write of `FAB_FLIP`; `ARM` while armed sets `ERR`; a time already past flips at once. -/
def execFlipArm (m : Nat) (v : Word) (s : State) : Res :=
  .next <|
    s.sw m Reg.fabFlip fun s =>
      let armed := s.on Reg.fabFlip F.fabFlip_arm
      let s := s.softW Reg.fabFlip v
      if fld v 63 63 = 0 then s
      else if armed then s.wf Reg.fabFlip F.fabFlip_err 1
      else
        let s := s.wf Reg.fabFlip F.fabFlip_arm 1
        if s.flipDue then s.flip else s

/-- ROUTE_FLIP (R194). -/
def execRouteFlip (s : State) : Res := .next (if s.flipDue then s.flip else s)

/-- FLIP_DRAIN_DEADLINE (R194): from now on packets of the old state are dropped as they reach a head. -/
def execFlipDrainDeadline (s : State) : Res :=
  .next <|
    match s.fab.flipAt with
    | some t =>
      if t + max 1 (s.rf Reg.fabCtrl F.fabCtrl_drain_us) * 1000 ≤ s.time ∧ ¬ s.fab.drained then
        let s := { s with fab.drained := true }
        (s.fab.bufs.map (·.1)).foldl (fun t k => t.fifoAdvance k 64) s
      else s
    | none => s

/-! ### Rerouting -/

/-- FAULT_MAP_ENTRY_RECEIVED (R202, R230, R543): an entry that came on VC7 over quad frm. -/
def execFaultMapEntryReceived (frm : Nat) (e : FaultEnt) (s : State) : Res := .next (s.faultEntry e frm)

/-- Whether the link from coordinates c along (k, dir) is up, and both its ends' nodes. -/
def State.linkOk (s : State) (c : List Nat) (k dir : Nat) : Bool :=
  let a := s.nodeAt (s.posOf 0 c)
  let b := s.nodeAt (s.posOf 0 (s.neighbour c k dir))
  !s.nodeLostAt a && !s.nodeLostAt b &&
    !s.fab.faults.any fun e => !e.lost && ((decide (e.node = a) && decide (e.dim = k) && decide (e.dir = dir)) ||
      (decide (e.node = b) && decide (e.dim = k) && decide (e.dir = 1 - dir)))

/-- Whether every link and node from coordinates c along (k, dir) is up until coordinate x of dimension k. -/
def State.wayOk (s : State) (x k dir : Nat) : Nat → List Nat → Bool
  | 0, _ => false
  | n + 1, c => if c.getD k 0 = x then true else s.linkOk c k dir && s.wayOk x k dir n (s.neighbour c k dir)

/-- The quad of this module's link along (k, dir), if one is enabled. -/
def State.portOf (s : State) (k dir : Nat) : Option Nat :=
  (List.range 12).find? fun n =>
    s.on (Reg.fabPort n) F.fabPort_en && decide (min 5 (s.link n).dim = k) && decide ((s.link n).dir = dir)

/-- The first dimension in which two positions differ. -/
def diffDim : Nat → List Nat → List Nat → Option Nat
  | k, a :: l, b :: m => if a = b then diffDim (k + 1) l m else some k
  | _, _, _ => none

/-- The route entry for destination d (R203). -/
def State.autoRoute (s : State) (d : Nat) : Nat :=
  if d = s.node then 12
  else
    let own := s.torusCoords (s.position s.node) s.dims 0
    let p := s.torusCoords (s.position d) s.dims 0
    match diffDim 0 own p with
    | none => 15
    | some k =>
      let z := s.ringSize k
      let up := (p.getD k 0 + z - own.getD k 0) % z
      let first := if up ≤ z - up then 0 else 1
      let way (dir : Nat) : Option Nat := if s.wayOk (p.getD k 0) k dir (z + 1) own then s.portOf k dir else none
      let j := (k + 1) % s.dims
      let side (dir : Nat) : Option Nat := if s.linkOk own j dir then s.portOf j dir else none
      ((way first).orElse fun _ => (way (1 - first)).orElse fun _ => (side 0).orElse fun _ => side 1).getD 15

/-- AUTO_ROUTE_WRITE (R203): firmware writes the inactive state from the fault map and arms the flip of the newest entry's
stamp + `LEAD`; faults within one `LEAD` share the flip of the first. -/
def execAutoRouteWrite (s : State) : Res :=
  .next <|
    if ¬ s.fab.routeDue ∨ ¬ s.on Reg.fabCtrl F.fabCtrl_auto_route then s
    else
      let side := 1 - s.injState
      let size := min 65536 s.fabSize
      let s := (List.range (cdiv size 4)).foldl (fun t i =>
        let ent (j : Nat) : Nat := if 4 * i + j < size then s.autoRoute (4 * i + j) else 15
        t.wr (Reg.fabRt side i) (BitVec.ofNat 64 (ent 0 + ent 1 * 2 ^ 16 + ent 2 * 2 ^ 32 + ent 3 * 2 ^ 48))) s
      let s := { s with fab.routeDue := false }
      if s.on Reg.fabFlip F.fabFlip_arm then s
      else
        let stamp := ((s.fab.faults.getLast?).map (·.stamp)).getD s.time
        let at_ := stamp + max 1 (s.rf Reg.fabCtrl F.fabCtrl_lead) * 100000
        let s := ((s.wr Reg.fabFlipTime (BitVec.ofNat 64 at_)).wf Reg.fabFlip F.fabFlip_to side).wf Reg.fabFlip F.fabFlip_arm 1
        let s := s.raise .warning 7 6 (arg0 := side) (arg1 := at_)
        if s.flipDue then (s.raise .alarm 7 7 (arg0 := side) (arg1 := at_)).flip else s

end Sys2Proof.Machine
end

