-- ==== Sys2Proof/Machine/Attach.lean ====
section
/-! DEFINITION. Attach ports (02_attach_ports.md): links, bias pages, peers, flush reads, host snoops. -/

namespace Sys2Proof.Machine

/-- Whether the boot has set `READY` (23_boot_reset.md R536). -/
def State.ready (s : State) : Bool := s.on Reg.topBootStatus F.topBootStatus_ready

/-- Whether port n runs as two halves (R29). -/
def State.bifurcated (s : State) (n : Nat) : Bool := s.on (Reg.hifPortCfg n) F.hifPortCfg_bifurcate

/-- A value for a field of each half. -/
def halfFld (h : Nat) (f0 f1 : Fld) : Fld := if h = 0 then f0 else f1

/-- The host-memory answer of the block to a request on a link. -/
def State.cpl (s : State) (n h st : Nat) (data : List Byte) : State := s.emit .tlpCpl [n, h, st] data

/-! ### Flush reads -/

/-- A flush read ends; where it fails, the peer is unreachable and so is what waited for it (R45, R47, R51). -/
def State.flushEnd (s : State) (id : Nat) (ok : Bool) (cid : Nat) : State :=
  match s.hif.flushes.find? fun f => decide (f.id = id) with
  | none => s
  | some f =>
    let s : State := { s with hif.flushes := s.hif.flushes.filter fun x => x.id ≠ id }
    let s := if ok then s else s.peerLost f.port f.half cid
    let mend (w slot : Nat) : State :=
      match mget s.wqe.wqs w with
      | some q => s.setWq w { q with ents := q.ents.map fun e =>
          if e.slot = slot then { e with flush := sdel e.flush id, status := if ok then e.status else 0x0C } else e }
      | none => s
    match f.who with
    | .entry w slot => (mend w slot).retire w 128
    | .fence w slot =>
      let s := mend w slot
      (match s.ent? w slot with
        | some e => if e.flush = [] ∧ e.st ≠ .done then s.finish w slot e.status else s
        | none => s)
    | .notice q psn =>
      if ok then s
      else
        (match mget s.qpe.qps q with
        | none => s
        | some x =>
          s.setQp q { x with rx := x.rx.map fun r =>
            if r.kind = .data ∧ ¬ r.visible ∧ r.refused = 0 ∧ (r.psn = psn ∨ psnBefore r.psn psn) then { r with refused := 0x0C } else r })
    | .coll g => if ok then s else s.collFailStep g 0x0C

/-- FLUSH_READ_COMPLETION (R45-R47, R51): flush read id completes, with a completer ID where it fails. -/
def execFlushReadCompletion (id : Nat) (ok : Bool) (cid : Nat) (s : State) : Res := .next (s.flushEnd id ok cid)

/-! ### Links (R53-R55) -/

/-- The link half behind which an address of function f lies. -/
def State.behind (s : State) (f sp a : Nat) : Option (Nat × Nat) :=
  if sp = 1 then some (0, 0)
  else if sp = 2 then (s.peerRegion f a).map fun r => (r.port, r.half)
  else none

/-- CXL ends: host lines are given up and every page is in device bias; a flip under way is abandoned (R54, Table 2-11). -/
def State.cxlEnd (s : State) : State :=
  if s.cxlUp then
    let s : State := { s with hif.shared := [], hif.hostBias := [], hif.flip := none }
    let s := s.wf (Reg.hifPortStatus 0) F.hifPortStatus_cxl 0
    let s := if s.on Reg.hifBiasStatus F.hifBiasStatus_busy then
        ((s.wf Reg.hifBiasStatus F.hifBiasStatus_busy 0).wf Reg.hifBiasStatus F.hifBiasStatus_err 1).wf Reg.hifBiasCmd F.hifBiasCmd_go 0
      else s
    s.raise .warning 1 2
  else s

/-- Half h of port n, having been up, goes down (R53, R54). -/
def State.halfDown (s : State) (n h : Nat) : State :=
  if ¬ s.linkUp n h then s
  else
    let k := Reg.hifPortStatus n
    let s := (s.wf k (halfFld h F.hifPortStatus_up0 F.hifPortStatus_up1) 0).wf k (halfFld h F.hifPortStatus_width0 F.hifPortStatus_width1) 0
    let s := (s.wf k (halfFld h F.hifPortStatus_down0 F.hifPortStatus_down1) 1).incF k F.hifPortStatus_down_count 1
    let s := (s.raise .fault 1 1 (inst := n) (arg0 := h)).level (0x50 + 2 * n + h) true
    let s := if n = 0 ∧ h = 0 then s.cxlEnd else s
    let s := (s.hif.peers.filter fun p => decide (p.port = n) && decide (p.half = h)).foldl (fun t p => t.peerLost n h p.cid) s
    let s := (s.hif.flushes.filter fun f => decide (f.port = n) && decide (f.half = h)).foldl (fun t f => t.flushEnd f.id false 0) s
    let s := (s.hif.probes.filter fun p => decide (p.links.head? = some (n, h))).foldl (fun t p =>
      match execPeerProbeComplete p.f false 0 t with | .next u => u | _ => t) s
    let s : State := { s with xlt.ats := s.xlt.ats.filter fun e => ¬ (e.2.fn = portFn n h ∨ (e.2.fn ≤ 1024 ∧ n = 0 ∧ h = 0)) }
    let s := (s.wqe.wqs.filter fun e => decide (e.2.st = .enabled) && decide (s.behind e.2.owner e.2.space e.2.base = some (n, h))).foldl
      (fun t e => t.wqStop e.1 2) s
    (s.wqe.cqs.filter fun e => decide (e.2.st ≠ .error) && (decide (s.behind e.2.owner e.2.space e.2.base = some (n, h)) ||
      decide (s.behind e.2.owner e.2.headSpace e.2.headAddr = some (n, h)))).foldl (fun t e => t.cqError e.1 e.2 2) s

/-- Both halves of port n go down. -/
def State.portDown (s : State) (n : Nat) : State := (s.halfDown n 0).halfDown n 1

/-- LINK_HALF_DOWN (R53, R54). -/
def execLinkHalfDown (port half : Nat) (s : State) : Res := .next (s.halfDown port half)

/-- The rate a port runs at, at most (Table 2-7). -/
def State.rateMax (s : State) (n : Nat) : Nat := min (if n = 0 then 5 else 6) (s.rf (Reg.hifPortCfg n) F.hifPortCfg_max_rate)

/-- LINK_HALF_UP (R26, R29, R30, R55, R536): a half trains to a width and a rate; on port 0, with CXL where it is offered and
the partner takes it. -/
def execLinkHalfUp (port half width rate : Nat) (cxl : Bool) (s : State) : Res :=
  .next <|
    if 4 ≤ port ∨ 2 ≤ half ∨ (half = 1 ∧ ¬ s.bifurcated port) ∨ s.linkUp port half ∨ s.top.perst.contains port ∨ s.top.stopped ∨
        ¬ s.on (Reg.hifPortCfg port) F.hifPortCfg_link_en ∨ s.pd (80 + port) ≠ 2 ∨ width = 0 ∨
        s.rf Reg.topBootStatus F.topBootStatus_stage = 0 ∨ s.rf Reg.topBootStatus F.topBootStatus_stage = 0xFF then s
    else
      let k := Reg.hifPortStatus port
      let w := min width (if s.bifurcated port then 8 else 16)
      let s := s.wf k (halfFld half F.hifPortStatus_up0 F.hifPortStatus_up1) 1
      let s := s.wf k (halfFld half F.hifPortStatus_width0 F.hifPortStatus_width1) w
      let s := s.wf k (halfFld half F.hifPortStatus_rate0 F.hifPortStatus_rate1) (min rate (s.rateMax port))
      if port = 0 ∧ half = 0 then
        s.wf k F.hifPortStatus_cxl (b2n (cxl && s.on (Reg.hifPortCfg 0) F.hifPortCfg_cxl_en && !s.bifurcated 0))
      else s

/-- LINK_EN_WRITE (R30, R53): a write of `HIF_PORT_CFGn`; clearing `LINK_EN` takes the port's links down. -/
def execLinkEnWrite (m port : Nat) (v : Word) (s : State) : Res :=
  .next <|
    if 4 ≤ port then s
    else s.sw m (Reg.hifPortCfg port) fun s =>
      let s := s.softW (Reg.hifPortCfg port) v
      let s := if port = 0 then s else s.wf (Reg.hifPortCfg port) F.hifPortCfg_cxl_en 0
      if s.on (Reg.hifPortCfg port) F.hifPortCfg_link_en then s else s.portDown port

/-! ### Port functions, bias pages, host lines -/

/-- PORT_FUNCTION_BAR0_READ (R34, R536, R559). -/
def execPortFunctionBar0Read (port half off n : Nat) (s : State) : Res :=
  .next <|
    if 4 ≤ port ∨ ¬ s.linkUp port half ∨ (port = 0 ∧ half = 0) then s
    else if ¬ s.ready ∨ (s.pci (portFn port half)).d3hot then s.cpl port half 2 []
    else
      let page := leBytes 8 port ++ leBytes 8 half ++ leBytes 8 s.top.serial
      s.cpl port half 0 (((page ++ List.replicate (off + n) 0).drop off).take n)

/-- The pages a bias command names: first, and how many. -/
def State.biasRange (s : State) : Nat × Nat :=
  (s.rf Reg.hifBiasCmd F.hifBiasCmd_page, s.rf Reg.hifBiasCmd F.hifBiasCmd_count + 1)

/-- Whether a flip of page g is under way (R41). -/
def State.flipping (s : State) (g : Nat) : Bool :=
  match s.hif.flip with
  | some (lo, n, _) => decide (lo ≤ g) && decide (g < lo + n)
  | none => false

/-- CXL_MEM_ACCESS (R39, R41): the host reads or writes a line of HBM; a page in device bias goes to host bias first. The
access waits while a flip of its page is under way. -/
def execCxlMemAccess (wr : Bool) (a : Nat) (data : List Byte) (s : State) : Res :=
  .next <|
    let a := a / 64 * 64
    let g := a / pageSize
    if ¬ s.cxlUp ∨ ¬ s.ready ∨ hbmEnd ≤ a ∨ ¬ s.hbmOn ∨ s.flipping g then s
    else s.letIn 0 2 (Config.tlpBytes (16 + b2n wr) [a] data) fun s =>
      let s := if s.hif.hostBias.contains g then s
        else ({ s with hif.hostBias := sins s.hif.hostBias g }).incF Reg.hifBiasStatus F.hifBiasStatus_auto_flips 1
      if wr then (s.store a ((data ++ List.replicate 64 0).take 64)).cpl 0 0 0 [] else s.cpl 0 0 0 (s.bytes a 64)

/-- BIAS_CMD_GO (R40, R41): a write of `HIF_BIAS_CMD` with `GO` = 1; a flip to device bias asks for ownership of every line. -/
def execBiasCmdGo (m : Nat) (v : Word) (s : State) : Res :=
  .next <|
    s.sw m Reg.hifBiasCmd fun s =>
      if s.on Reg.hifBiasStatus F.hifBiasStatus_busy then s.wf Reg.hifBiasStatus F.hifBiasStatus_err 1
      else
        let s := s.wr Reg.hifBiasCmd (softWrite false (s.rd Reg.hifBiasCmd) v [F.hifBiasCmd_to, F.hifBiasCmd_count, F.hifBiasCmd_page])
        let r := s.biasRange
        if hbmEnd / pageSize < r.1 + r.2 then s.wf Reg.hifBiasStatus F.hifBiasStatus_err 1
        else
          let dev := s.on Reg.hifBiasCmd F.hifBiasCmd_to
          let s := (s.wf Reg.hifBiasCmd F.hifBiasCmd_go 1).wf Reg.hifBiasStatus F.hifBiasStatus_busy 1
          let s : State := { s with hif.flip := some (r.1, r.2, dev) }
          if dev ∧ s.cxlUp then (range' (r.1 * 1024) (r.2 * 1024)).foldl (fun t l => t.emit .cxl [1, l * 64]) s else s

/-- BIAS_FLIP_END (R40, R41): device writes have drained, or the host has given up every line: the pages have their new bias. -/
def execBiasFlipEnd (s : State) : Res :=
  .next <|
    match s.hif.flip with
    | none => s
    | some (lo, n, dev) =>
      let b : NSet := if dev then s.hif.hostBias.filter fun g => ¬ (lo ≤ g ∧ g < lo + n) else (range' lo n).foldl sins s.hif.hostBias
      let s : State := { s with hif.hostBias := b, hif.flip := none }
      (s.wf Reg.hifBiasStatus F.hifBiasStatus_busy 0).wf Reg.hifBiasCmd F.hifBiasCmd_go 0

/-- PEER_READ_FAILURE (R51): a read to a peer completes with UR or CA, or times out. -/
def execPeerReadFailure (port half cid wqn slot : Nat) (s : State) : Res :=
  .next ((s.peerLost port half cid).failEnt wqn slot 0x0C)

/-- HOST_SNOOP (R42): a host store takes a line out of the copies that the UV9 holds. -/
def execHostSnoop (line : Nat) (s : State) : Res := .next { s with hif.shared := sdel s.hif.shared line }

end Sys2Proof.Machine
end

