-- ==== Sys2Proof/Machine/Cipher.lean ====
section
/-! DEFINITION. The cipher engine (11_cipher.md): protection of packets, check 1 of Table 6-2, and the rows INSTALL to
SET_KEK. -/

namespace Sys2Proof.Machine

/-! ### Cores -/

/-- The fault check of a pool, 3 taken as 1 (R256). -/
def State.cipMode (s : State) (tx : Bool) : Nat :=
  let m := s.rf Reg.cipCtrl (if tx then F.cipCtrl_check_tx else F.cipCtrl_check_rx)
  if m = 3 then 1 else m

/-- Serviceable cores of a pool: cores 0-31 transmit, 32-63 receive (R254). -/
def State.cipServing (s : State) (tx : Bool) : Nat :=
  ((range' (if tx then 0 else 32) 32).filter fun c => !nbit (s.rd Reg.cipCoreStatus).toNat c).length

/-- A core quarantined; the alarm when its pool falls below 30 (R257). -/
def State.quarantine (s : State) (c : Nat) : State :=
  let tx := decide (c < 32)
  let n := s.cipServing tx
  let s := s.wr Reg.cipCoreStatus (s.rd Reg.cipCoreStatus ||| BitVec.ofNat 64 (2 ^ c))
  if 30 ≤ n ∧ s.cipServing tx < 30 then s.raise .alarm 10 4 (inst := b2n (!tx)) (arg0 := s.cipServing tx) else s

/-- What the cores' check does to a packet (R256, R257): the state, and whether the packet is released. -/
def State.cipCores (s : State) (tx : Bool) (k : CipChk) : State × Bool :=
  let m := s.cipMode tx
  if m = 0 ∨ ¬ k.bad then (s, true)
  else
    let f (i : Nat) : Nat := (k.cores.getD i 0x7F) % 128
    let s := (s.incF (Reg.cipStat 3) F.cipStat_count 1).raise .fault 10 3 (arg0 := f 0 + f 1 * 2 ^ 8 + f 2 * 2 ^ 16)
    if m = 1 then
      match k.dissent with
      | some c => (s.quarantine (c % 64), true)
      | none => (s, false)
    else
      let s := (k.cores.take 2).foldl (fun (t : State) (c : Nat) =>
        let l : List Nat := (((mget t.cip.inverse c).getD []).filter fun x => t.clk < x + 1000000000) ++ [t.clk]
        let t := { t with cip.inverse := mput t.cip.inverse c l }
        if 3 ≤ l.length then t.quarantine (c % 64) else t) s
      (s, k.pass)

/-! ### Protection -/

/-- An SA that takes part in sending or receiving: one that is not being deleted. -/
def State.liveSa (s : State) (n : Nat) : Option Sa :=
  match mget s.cip.sas n with
  | some a => if a.ending.isNone then some a else none
  | none => none

/-- The SA under which a QP of function f that names SA n sends (R250, R171): its number, or the status of a packet that
cannot be sent. -/
def State.sendSa (s : State) (f n : Nat) : Nat → Nat ⊕ Nat
  | 0 => .inr 0x80
  | k + 1 =>
    match s.liveSa n with
    | none => .inr 0x80
    | some a =>
      if a.owner ≠ f then .inr 0x80
      else match a.st with
        | .active => .inl n
        | .exhausted => .inr 0x09
        | .retiring => (match a.succ with | some m => s.sendSa f m k | none => .inr 0x80)
        | _ => .inr 0x80

/-- The IV of a packet: the direction's salt and the counter (Table 11-1). -/
def gcmIv (salt ctr : Nat) : Nat := salt % 2 ^ 48 * 2 ^ 48 + ctr % 2 ^ 48

/-- The additional data of a packet (Table 11-1). -/
def pktAad (p : Packet) : List Nat := nats (pktHdr (pktNeutral p) ++ pktCip p)

/-- A packet protected under SA n: the next counter value is taken, with the warning near the end and the move to
Exhausted at it (R246, R248). -/
def State.seal (s : State) (n : Nat) (p : Packet) : State × Packet :=
  match mget s.cip.sas n with
  | none => (s, p)
  | some a =>
    let p := { p with enc := true, keyId := a.remoteSa, ctr := a.ctr }
    let rks := roundKeys (toBe 32 a.txKey)
    let ct := xorB (nats p.payload) (gcmStream rks (gcmIv a.txSalt a.ctr) p.payload.length)
    let tag := gcmTag rks (gcmIv a.txSalt a.ctr) (pktAad p) ct
    let near := decide (2 ^ 48 - (a.ctr + 1) < 2 ^ 40) && !a.warned
    let a := { a with ctr := a.ctr + 1, warned := a.warned || near, st := if a.ctr + 1 = 2 ^ 48 then .exhausted else a.st }
    let s := { s with cip.sas := mput s.cip.sas n a }
    (if near then s.raise .warning 10 1 (fn := a.owner) (arg0 := n) else s,
      { p with payload := ofNats ct, tail := ofBe (tag.take 8) })

/-- A packet without protection: its tail is its CRC (R149). -/
def pktClear (p : Packet) : Packet := { p with enc := false, tail := pktCrc { p with enc := false } }

/-- What check 1 of Table 6-2 answers. -/
inductive CipIn where
  | ok (p : Packet)
  | refuse (st : Nat)
  | drop
  deriving DecidableEq, Repr

/-- An SA's failure counted: it is Blocked at `AUTH_MAX`, and the event is aggregated (R253). -/
def State.authFail (s : State) (n : Nat) (a : Sa) (src : Nat) : State :=
  let s := s.incF (Reg.cipStat 0) F.cipStat_count 1
  let lim := s.rf Reg.cipCtrl F.cipCtrl_auth_max
  let a := { a with fails := a.fails + 1 }
  let a := if lim ≠ 0 ∧ lim ≤ a.fails then { a with st := .blocked } else a
  ({ s with cip.sas := mput s.cip.sas n a }).aggregate .authFail a.owner 0 n src 0

/-- Check 1 of Table 6-2 on an arriving packet (Table 11-4, R252, R256): its target QP, if there is one, as owner and
SA_EN. -/
def State.cipherIn (s : State) (tq : Option (Nat × Bool)) (p : Packet) (k : CipChk) : State × CipIn :=
  let mismatch := match tq with | some (_, en) => p.enc != en | none => false
  if mismatch then (s.incF (Reg.cipStat 1) F.cipStat_count 1, .refuse 0x10)
  else if ¬ p.enc then (s, .ok p)
  else match s.liveSa p.keyId with
    | none => (s.incF (Reg.cipStat 1) F.cipStat_count 1, .refuse 0x10)
    | some a =>
      if a.st = .blocked ∨ (match tq with | some (f, _) => decide (a.owner ≠ f) | none => false) = true then
        (s.incF (Reg.cipStat 1) F.cipStat_count 1, .refuse 0x10)
      else
        match s.cipCores false k with
        | (s, false) => (s, .drop)
        | (s, true) =>
          let rks := roundKeys (toBe 32 a.rxKey)
          let iv := gcmIv a.rxSalt p.ctr
          if ofBe ((gcmTag rks iv (pktAad p) (nats p.payload)).take 8) ≠ p.tail then (s.authFail p.keyId a p.srcNode, .refuse 0x11)
          else if p.ctr + 1024 < a.top ∨ p.ctr < a.floor ∨ a.seen.contains p.ctr then
            (s.incF (Reg.cipStat 2) F.cipStat_count 1, .drop)
          else
            let top := max a.top (p.ctr + 1)
            let a := { a with top := top, seen := (sins a.seen p.ctr).filter fun c => decide (top ≤ c + 1024) }
            ({ s with cip.sas := mput s.cip.sas p.keyId a },
              .ok { p with payload := ofNats (xorB (nats p.payload) (gcmStream rks iv p.payload.length)) })

/-! ### Commands -/

/-- A field of an argument register. -/
def State.cipArg (s : State) (i hi lo : Nat) : Nat := fld (s.rd (Reg.cipArg i)) hi lo

/-- A command of the CIP block ends: `GO` clears, `STATUS` shows, and the key stage is zeroed (R261). -/
def State.cipEnd (s : State) (st : Nat) : State :=
  (List.range 8).foldl (fun t i => t.wr (Reg.cipKeyStage i) 0)
    ((s.wf Reg.cipCmd F.cipCmd_go 0).wf Reg.cipCmd F.cipCmd_status st)

/-- A command of the CIP block, written by the PF with `GO` = 1, unless one is under way (R249, R261). -/
def State.cipCmd (s : State) (c : Nat) (act : State → State) : State :=
  s.sw 0 Reg.cipCmd fun s =>
    if s.on Reg.cipCmd F.cipCmd_go then s
    else act ((s.wf Reg.cipCmd F.cipCmd_cmd c).wf Reg.cipCmd F.cipCmd_go 1)

/-- Four words of the key stage as a 256-bit key, key byte 0 most significant. -/
def State.stagedKey (s : State) (i : Nat) : Nat :=
  (List.range 4).foldl (fun a j => a * 2 ^ 64 + (s.rd (Reg.cipKeyStage (i + j))).toNat) 0

/-- Whether function f holds its quota of SAs (R249). -/
def State.saFull (s : State) (f : Nat) : Bool :=
  decide (s.quota f F.vfmFnQuota_sa 16 65536 ≤ (s.cip.sas.filter fun e => e.2.owner = f).length)

/-- INSTALL (R249, Table 11-10). -/
def execInstall (s : State) : Res :=
  .next <|
    s.cipCmd 1 fun s =>
      let n := s.cipArg 0 15 0
      let f := s.cipArg 0 26 16
      if (mget s.cip.sas n).isSome then s.cipEnd 0x81
      else if 1024 < f then s.cipEnd 0x01
      else if s.saFull f then s.cipEnd 0x82
      else
        let a : Sa :=
          { owner := f, st := .active, remoteSa := s.cipArg 0 42 27, txKey := s.stagedKey 0, rxKey := s.stagedKey 4,
            txSalt := s.cipArg 2 47 0, rxSalt := s.cipArg 3 47 0, ctr := s.cipArg 1 47 0 }
        ({ s with cip.sas := mput s.cip.sas n a }).cipEnd 0

/-- REPLACE (R250): an Active SA retires in favour of its successor. -/
def execReplace (s : State) : Res :=
  .next <|
    s.cipCmd 2 fun s =>
      let n := s.cipArg 0 15 0
      match s.liveSa n with
      | some a =>
        if a.st = .active then
          ({ s with cip.sas := mput s.cip.sas n { a with st := .retiring, succ := some (s.cipArg 0 59 44) } }).cipEnd 0
        else s.cipEnd 0x81
      | none => s.cipEnd 0x81

/-- DELETE (R251): no new packet of the SA from now on; it is freed once none remains in the engine. -/
def execDelete (s : State) : Res :=
  .next <|
    s.cipCmd 3 fun s =>
      let n := s.cipArg 0 15 0
      match s.liveSa n with
      | some a => { s with cip.sas := mput s.cip.sas n { a with ending := some false } }
      | none => s.cipEnd 0x81

/-- SA_DELETE_DRAIN_END (R251): the last packet of an SA under DELETE or SAVE has left the engine: keys and salts are
erased and the number is free. -/
def execSaDeleteDrainEnd (sa : Nat) (s : State) : Res :=
  .next <|
    match mget s.cip.sas sa with
    | some a =>
      if a.ending.isSome then
        let s : State := { s with cip.sas := mdel s.cip.sas sa }
        if s.on Reg.cipCmd F.cipCmd_go ∧ s.cipArg 0 15 0 = sa then s.cipEnd 0 else s
      else s
    | none => s

/-- The codes of Table 11-10. -/
def SaSt.code : SaSt → Nat
  | .free => 0
  | .active => 1
  | .retiring => 2
  | .exhausted => 3
  | .blocked => 4

/-- QUERY (Table 11-10). -/
def execQuery (s : State) : Res :=
  .next <|
    s.cipCmd 4 fun s =>
      match mget s.cip.sas (s.cipArg 0 15 0) with
      | some a =>
        ((s.wr (Reg.cipArg 1) (BitVec.ofNat 64 (a.ctr % 2 ^ 48))).wr (Reg.cipArg 5)
          (BitVec.ofNat 64 (a.st.code + satU 32 a.fails * 2 ^ 32))).cipEnd 0
      | none => ((s.wr (Reg.cipArg 1) 0).wr (Reg.cipArg 5) 0).cipEnd 0

/-- The 64-bit words of a 256-bit key, key byte 0 first. -/
def keyWordsOf (k : Nat) : List Nat := [nbits k 255 192, nbits k 191 128, nbits k 127 64, nbits k 63 0]

/-- The context record of an SA (Table 11-6). -/
def Sa.record (a : Sa) : List Nat :=
  keyWordsOf a.txKey ++ keyWordsOf a.rxKey ++
    [a.txSalt % 2 ^ 48, a.rxSalt % 2 ^ 48, a.ctr % 2 ^ 48, (a.top - 1) % 2 ^ 48, a.remoteSa % 2 ^ 16 + a.st.code * 2 ^ 16, 0, 0, 0]

/-- The DPA of the record, where n bytes from it lie in HBM outside every VF partition (Table 11-10). -/
def State.recordAt (s : State) (n : Nat) : Option Nat :=
  let a := s.cipArg 4 39 6 * 64
  if a + n ≤ hbmEnd ∧ s.vfOf a = 0 ∧ s.vfOf (a + n - 1) = 0 then some a else none

/-- SAVE (R259, R260): the record of an SA is written, wrapped or in the clear, and the SA is then deleted. -/
def execSave (s : State) : Res :=
  .next <|
    s.cipCmd 5 fun s =>
      let n := s.cipArg 0 15 0
      let wrap := s.cipArg 0 43 43 = 1
      match s.liveSa n with
      | none => s.cipEnd 0x81
      | some a =>
        if a.st = .blocked then s.cipEnd 0x81
        else if (if wrap then s.cip.kek.isNone else ! s.on Reg.cipCtrl F.cipCtrl_clear_ok) then s.cipEnd 0x84
        else match s.recordAt (if wrap then 136 else 128) with
          | none => s.cipEnd 0x01
          | some d =>
            let ws := if wrap then keyWrap (roundKeys (toBe 32 (s.cip.kek.getD 0))) a.record else a.record
            let s := s.devStore d (ws.flatMap (leBytes 8))
            { s with cip.sas := mput s.cip.sas n { a with ending := some true } }

/-- RESTORE (R259, R260): a record is read, checked and installed as an Active SA; an Exhausted one stays so. -/
def execRestore (s : State) : Res :=
  .next <|
    s.cipCmd 6 fun s =>
      let n := s.cipArg 0 15 0
      let f := s.cipArg 0 26 16
      let wrap := s.cipArg 0 43 43 = 1
      let len := if wrap then 136 else 128
      if (mget s.cip.sas n).isSome then s.cipEnd 0x81
      else if 1024 < f then s.cipEnd 0x01
      else if (if wrap then s.cip.kek.isNone else ! s.on Reg.cipCtrl F.cipCtrl_clear_ok) then s.cipEnd 0x84
      else if s.saFull f then s.cipEnd 0x82
      else match s.recordAt len with
        | none => s.cipEnd 0x01
        | some d =>
          let raw := wordsOf (len / 8) (s.bytes d len)
          let (iv, ws) := if wrap then keyUnwrap (roundKeys (toBe 32 (s.cip.kek.getD 0))) raw else (0xA6A6A6A6A6A6A6A6, raw)
          let w (i : Nat) : Nat := ws.getD i 0
          let st := nbits (w 12) 18 16
          if iv ≠ 0xA6A6A6A6A6A6A6A6 ∨ 2 ^ 48 ≤ w 8 ∨ 2 ^ 48 ≤ w 9 ∨ 2 ^ 48 ≤ w 10 ∨ 2 ^ 48 ≤ w 11 ∨ 2 ^ 19 ≤ w 12 ∨
              w 13 ≠ 0 ∨ w 14 ≠ 0 ∨ w 15 ≠ 0 ∨ st = 0 ∨ 3 < st then s.cipEnd 0x83
          else
            let key (i : Nat) : Nat := (List.range 4).foldl (fun a j => a * 2 ^ 64 + w (i + j)) 0
            let a : Sa :=
              { owner := f, st := if st = 3 then .exhausted else .active, remoteSa := nbits (w 12) 15 0, txKey := key 0,
                rxKey := key 4, txSalt := w 8, rxSalt := w 9, ctr := if st = 3 then 2 ^ 48 else w 10, top := w 11 + 1,
                floor := w 11 + 1 }
            ({ s with cip.sas := mput s.cip.sas n a }).cipEnd 0

/-- SET_KEK (R260): refused after the CIP lock. -/
def execSetKek (s : State) : Res :=
  .next <|
    s.cipCmd 7 fun s =>
      if s.on Reg.cipCtrl F.cipCtrl_lock then s.cipEnd 0x84
      else (({ s with cip.kek := some (s.stagedKey 0) }).wf Reg.cipCtrl F.cipCtrl_kek_set 1).cipEnd 0

end Sys2Proof.Machine
end

