-- ==== Sys2Proof/Machine/Transport.lean ====
section
/-! DEFINITION. The transport engine (07_transport.md): the rows DATA_RECEIVED to CC_SWAP. -/

namespace Sys2Proof.Machine

/-! ### Answers outside a QP -/

/-- The Ethernet port of number n. -/
def State.macPort (s : State) (n : Nat) : MacPort := (mget s.mac.ports n).getD {}

/-- A frame's addressing (R150, R153), with the ACK's shim fields: destination and source MAC, IP version, source and
destination address, source and destination UDP port, DSCP, `CE_COUNT`, `ECHO_TX`, OWD. -/
def State.umtAddr (s : State) (n : Nat) (v4 : Bool) (dstIp : Nat) (p : Packet) (ce echo owd : Nat) : List Nat :=
  [s.rf (Reg.umtPort n) F.umtPort_gw_mac, s.rf (Reg.macAddr n 0) F.macAddr_addr, if v4 then 4 else 6,
   if v4 then s.rf (Reg.umtIp4 n) F.umtIp4_addr else (s.rd (Reg.umtIp6nHi n)).toNat * 2 ^ 64 + (s.rd (Reg.umtIp6nLo n)).toNat,
   dstIp, 0xC000 + (Config.udpHash p.srcQpn p.dstQpn p.srcNode p.dstNode).toNat, s.rf Reg.umtCfg F.umtCfg_udp_port,
   nbits (s.rd Reg.umtDscp).toNat (6 * p.tc + 5) (6 * p.tc), ce, echo, owd]

/-- A frame handed to the MAC of port n. -/
def State.toMac (s : State) (n : Nat) (p : Packet) (addr : List Nat) : State :=
  let m := s.macPort n
  { s with mac.ports := mput s.mac.ports n { m with umtQ := m.umtQ ++ [(p, addr)] } }

/-- An answer made from an arriving header alone (R160, R253): to its sender, protected under the arriving SA when it
answers a packet that was found authentic. -/
def State.reply (s : State) (req : Packet) (rx : RxMeta) (enc : Bool) (type psn argA : Nat) : State :=
  let p : Packet :=
    { dstNode := req.srcNode, dstQpn := req.srcQpn, srcNode := s.node, srcQpn := req.dstQpn, tc := req.tc, type := type,
      psn := psn, srcInc := s.inc, dstInc := req.srcInc, argA := argA }
  let send (t : State) (p : Packet) : State :=
    match rx.eth with
    | none => t.inject p
    | some n => t.toMac n p (t.umtAddr n rx.v4 rx.srcIp p 0 0 0)
  if enc then
    match s.liveSa req.keyId with
    | some a => (match s.sendSa a.owner req.keyId 3 with
      | .inl m => send (s.seal m { p with enc := true }).1 (s.seal m { p with enc := true }).2
      | .inr _ => s)
    | none => s
  else send s (pktClear p)

/-- A refusal answered from the header: an ACK whose `CUM_PSN` and `STATUS_PSN` are the refused PSN. -/
def State.replyRefused (s : State) (req : Packet) (rx : RxMeta) (enc : Bool) (st : Nat) : State :=
  s.reply req rx enc 5 req.psn (st * 2 ^ 24 + req.psn)

/-- One more in `UMT_DROP[r]`. -/
def State.umtDrop (s : State) (r : Nat) : State := s.incF (Reg.umtDrop r) F.umtDrop_count 1

/-! ### Checks 1 to 3 of Table 6-2 -/

/-- What the first checks of an arriving packet come to. -/
inductive Arr where
  | stop (s : State)
  | go (s : State) (q : Qp) (p : Packet)

/-- The target QP of a packet, as check 1 takes it. -/
def State.targetOf (s : State) (p : Packet) : Option (Nat × Bool) :=
  (mget s.qpe.qps p.dstQpn).map fun q => (q.owner, q.saEn)

/-- Whether a packet's frame is sound: its type and PIECE, its length, and the CRC of one in the clear (R147, R149). -/
def State.packetDrop (s : State) (p : Packet) : Option Nat :=
  if ¬ [1, 2, 3, 4, 5, 8, 9, 10, 11].contains p.type ∨ p.piece = 3 ∨ 4096 < p.plen ∨ p.payload.length ≠ p.plen then some 1
  else if ¬ p.enc ∧ p.tail % 2 ^ 32 ≠ pktCrc p then some 3
  else none

/-- Check 1, with its answer (R252, R253): the packet decrypted, or the state where it ends. An ACK that fails is dropped. -/
def State.check1 (s : State) (p : Packet) (rx : RxMeta) : State × Option Packet :=
  match s.cipherIn (s.targetOf p) p rx.chk with
  | (t, .ok d) =>
    let t := if p.enc then (match t.targetOf p with | some (f, _) => t.meter f 11 p.plen | none => t) else t
    (t, some d)
  | (t, .refuse st) => (if p.type = 5 then t else t.replyRefused p rx false st, none)
  | (t, .drop) => (t, none)

/-- Check 2 of Table 6-2 (R130): the state with its answer where an incarnation differs, or none. -/
def State.check2 (s : State) (p : Packet) (rx : RxMeta) : Option State :=
  let q := mget s.qpe.qps p.dstQpn
  let rec_ := match q with
    | some q => if q.st = .active ∨ q.st = .error ∨ q.st = .retired then some q.peerInc else none
    | none => none
  let badDst := decide (p.dstInc ≠ s.inc)
  let badSrc : Bool := match rec_ with | some i => decide (p.srcInc ≠ i) | none => false
  if badDst ∨ badSrc then
    let s := s.raise .warning 5 3 (fn := match q with | some q => q.owner | none => 0x7FF) (arg0 := p.srcInc + p.dstInc * 2 ^ 16)
      (arg1 := p.srcNode + s.inc * 2 ^ 16 + rec_.getD 0 * 2 ^ 32 + b2n badDst * 2 ^ 48 + b2n badSrc * 2 ^ 49)
    let s := s.replyRefused p rx p.enc 0x08
    some (if badSrc then (s.qpError p.dstQpn 0x08).sweepQps else s)
  else none

/-- Whether a QP is paired with the sender of a packet. -/
def Qp.pairs (q : Qp) (p : Packet) : Bool := decide (q.rnode = p.srcNode) && decide (q.rqpn = p.srcQpn)

/-- Checks 1 to 3 of Table 6-2 on a packet of one of the types given (R141). -/
def State.arrive (s : State) (p : Packet) (rx : RxMeta) (type : Nat) : Arr :=
  match s.packetDrop p with
  | some r => .stop (s.umtDrop r)
  | none =>
    if p.type ≠ type then .stop s
    else match s.check1 p rx with
      | (t, none) => .stop t
      | (t, some d) =>
        match t.check2 d rx with
        | some u => .stop u
        | none =>
          match mget t.qpe.qps d.dstQpn with
          | some q =>
            if q.st = .active ∧ q.pairs d then .go t q d
            else .stop ((t.incF Reg.qpeTrkStatus F.qpeTrkStatus_refused 1).replyRefused d rx d.enc 0x33)
          | none => .stop ((t.incF Reg.qpeTrkStatus F.qpeTrkStatus_refused 1).replyRefused d rx d.enc 0x33)

/-! ### The receiver -/

/-- EPSN past every recorded PSN (R156). -/
def passRecorded (l : List RxRec) : Nat → Nat → Nat
  | 0, e => e
  | n + 1, e => if l.any fun r => decide (r.psn = e) then passRecorded l n ((e + 1) % 2 ^ 24) else e

/-- Whether a record ends a WRITE or stands for no DATA. -/
def RxRec.boundary (r : RxRec) : Bool := decide (r.kind ≠ .data) || r.last

/-- The records that something may still ask for: those not acknowledged, not final, or of the last WRITEs that have
been. -/
def Qp.pruneRx (q : Qp) : Qp :=
  { q with rx := q.rx.filter fun r =>
      !psnBefore r.psn q.lastCum || (r.refused = 0 && !r.visible) || !r.delivered ||
        decide ((q.rx.filter fun x => x.boundary && psnBefore r.psn x.psn && psnBefore x.psn q.lastCum).length < 2) }

/-- A packet recorded (R156), with what its ACK will report of it (R152, R158). -/
def State.recordRx (s : State) (n : Nat) (q : Qp) (rx : RxMeta) (r : RxRec) : State :=
  let rxl := q.rx ++ [r]
  s.setQp n { q with rx := rxl, epsn := passRecorded rxl 128 q.epsn, ackDue := q.ackDue + 1, ackSince := some (q.ackSince.getD s.clk) }

/-- What the ACK of a QP will report of an arriving packet: its mark, `TX_TIME` and OWD (R152). -/
def State.noteArrival (s : State) (n : Nat) (q : Qp) (rx : RxMeta) : Qp :=
  if rx.eth.isNone then q
  else
    let d := (s.time + 2 ^ 32 - rx.txTime % 2 ^ 32) % 2 ^ 32
    { q with ce := q.ce + b2n rx.ce, echoTx := rx.txTime
             owd := if ¬ (rx.tsync ∧ s.tlock) then 0xFFFFFFFF else if 2 ^ 31 ≤ d then 0 else d }

/-- An ACK sent if one is due (R158). -/
def State.ackMaybe (s : State) (n : Nat) (force : Bool) : State :=
  match mget s.qpe.qps n with
  | some q =>
    let coal := max 1 (s.rf Reg.umtCfg F.umtCfg_ack_coal)
    let cum := q.ackPoint
    let sack := (List.range 64).any fun i => q.sackShows ((cum + 1 + i) % 2 ^ 24)
    if force ∨ coal ≤ q.ackDue ∨ sack then
      match mget (s.ackNow n q).qpe.qps n with
      | some q' => (s.ackNow n q).setQp n q'.pruneRx
      | none => s
    else s
  | none => s

/-- The in-flight counter of a region lowered. -/
def State.regionDone (s : State) (r : Option Nat) : State :=
  match r with
  | some i => { s with qpe.regions := mupd s.qpe.regions i fun g => { g with inflight := g.inflight - 1 } }
  | none => s

/-- A record of QP n changed. -/
def State.updRx (s : State) (n psn : Nat) (f : RxRec → RxRec) : State :=
  { s with qpe.qps := mupd s.qpe.qps n fun q => { q with rx := q.rx.map fun r => if r.psn = psn then f r else r } }

/-- Whether every DATA recorded before a PSN is refused or visible. -/
def Qp.quiet (q : Qp) (psn : Nat) : Bool :=
  !q.rx.any fun r => decide (r.kind = .data) && psnBefore r.psn psn && decide (r.refused = 0) && !r.visible

/-- The notices of QP n that can be delivered, in PSN order (R133, R159). -/
def State.deliver (s : State) (n : Nat) : Nat → State
  | 0 => s
  | fuel + 1 =>
    match mget s.qpe.qps n with
    | none => s
    | some q =>
      let wait := q.rx.filter fun r => decide (r.kind = .notice) && !r.delivered && decide (r.refused = 0)
      let first := wait.foldl (fun (b : Option RxRec) r => match b with
        | none => some r
        | some x => if psnBefore r.psn x.psn then some r else some x) none
      match first with
      | none => s
      | some r =>
        if psnBefore r.psn q.epsn && q.quiet r.psn then
          let lo := nbits r.pkt.argB 55 32
          let bad := q.rx.any fun x => decide (x.kind = .data) && decide (x.refused ≠ 0) && psnBefore x.psn r.psn && !psnBefore x.psn lo
          let s := s.updRx n r.psn fun x => { x with delivered := true }
          if bad then s.deliver n fuel
          else if s.engineQp n then
            ({ s with col.notices := s.col.notices ++ [(n, r.pkt.argA, nbits r.pkt.argB 31 0)] }).deliver n fuel
          else
            let (t, st) := s.cqNotice q.ncqn { info := r.pkt.argA, bytes := nbits r.pkt.argB 31 0, qpn := n, notice := true, srcNode := r.pkt.srcNode }
            (if st ≠ 0 then t.updRx n r.psn fun x => { x with refused := st } else t).deliver n fuel
        else s

/-- The pieces of a READ's answer (R154, Table 7-3). -/
def respPkts (proto : Packet) (piece : Nat) : Nat → Nat → List Byte → List Packet
  | 0, _, _ => []
  | n + 1, i, bs =>
    if bs = [] then []
    else { proto with argA := i, plen := (bs.take piece).length, payload := bs.take piece } :: respPkts proto piece n (i + 1) (bs.drop piece)

/-- Bytes of a range that come from outside the module's memory. -/
def State.outside (s : State) (l : List (Tgt × Nat)) : Nat :=
  (l.filter fun x => match x.1 with | .dpa a => s.biased a x.2 | .bus _ _ _ => true).foldl (fun a x => a + x.2) 0

/-- A READ_REQ served from pieces of memory: its answers wait for release (R134, R154). -/
def State.serveRead (s : State) (n : Nat) (q : Qp) (p : Packet) (l : List (Tgt × Nat)) (ext : List Byte) : State :=
  let bs := s.fetch l ext
  let s := s.fetchReqs q.owner l
  let piece := if p.piece = 0 then 4096 else if p.piece = 1 then 2048 else 1024
  let proto := { s.qpPkt n q 4 p.psn with tc := p.tc }
  { s with qpe.qps := mupd s.qpe.qps n fun q => { q with ctl := q.ctl ++ respPkts proto piece 64 0 bs } }

/-- The segment a READ_REQ asks for. -/
def readLen (p : Packet) : Nat := nbits p.argB 63 48 + 1

/-- The READ_REQs of QP n that wait for earlier WRITEs and need not any more, served in PSN order (R134). -/
def State.serveReads (s : State) (n : Nat) (ext : List Byte) : Nat → State
  | 0 => s
  | fuel + 1 =>
    match mget s.qpe.qps n with
    | none => s
    | some q =>
      let wait := q.rx.filter fun r => decide (r.kind = .readReq) && !r.delivered && decide (r.refused = 0)
      let first := wait.foldl (fun (b : Option RxRec) r => match b with
        | none => some r
        | some x => if psnBefore r.psn x.psn then some r else some x) none
      match first with
      | none => s
      | some r =>
        if psnBefore r.psn q.epsn && q.quiet r.psn then
          match s.region r.pkt.argA with
          | none => s
          | some g =>
            let off := nbits r.pkt.argB 47 0
            match s.xlRange q.owner g.space .read false 2 n (xlFuel (readLen r.pkt)) (g.base + off) (readLen r.pkt) with
            | (t, .ok l) =>
              let t := (t.serveRead n q r.pkt l ext).regionDone r.reg
              (t.updRx n r.psn fun x => { x with delivered := true, reg := none }).serveReads n (ext.drop (s.outside l)) fuel
            | (t, .miss) => t
            | (t, .fault _) =>
              ((t.regionDone r.reg).updRx n r.psn fun x => { x with delivered := true, reg := none, refused := 0x04 }).serveReads n ext fuel
            | (t, .down) =>
              ((t.regionDone r.reg).updRx n r.psn fun x => { x with delivered := true, reg := none, refused := 0x0C }).serveReads n ext fuel
        else s

/-- What follows when something of QP n has been recorded or become visible: notices, reads, then the ACK. -/
def State.rxSettle (s : State) (n : Nat) (ext : List Byte) (force : Bool) : State :=
  ((s.deliver n 256).serveReads n ext 256).ackMaybe n force

/-- A token of the target function's policer (R244): none left means a refusal. -/
def State.police (s : State) (q : Qp) (p : Packet) : State × Bool :=
  match s.token (Reg.timPolFn q.owner) with
  | some t => (t, true)
  | none => (s.aggregate .policed q.owner 0 0 (p.srcNode + p.srcQpn * 2 ^ 16) 0, false)

/-- Where a PSN lies (R156, R157): 0 to handle and record, 1 beyond the bitmap, 2 a duplicate. -/
def Qp.psnClass (q : Qp) (psn : Nat) : Nat :=
  let d := psnDist q.epsn psn
  if d ≤ 64 then (if q.rx.any fun r => decide (r.psn = psn) then 2 else 0)
  else if d < 2 ^ 23 then 1
  else 2

/-- A link destination of a remote write is kept under a number of its own, beyond the WQ numbers. -/
def rxDest (n : Nat) : Nat := 0x20000 + n

/-- DATA_RECEIVED (R132, R135, R141, R156-R158). -/
def execDataReceived (p : Packet) (rx : RxMeta) (ext : List Byte) (s : State) : Res :=
  .next <|
    match s.arrive p rx 1 with
    | .stop t => t
    | .go t q d =>
      let n := d.dstQpn
      let q := t.noteArrival n q rx
      let t := t.setQp n q
      let c := q.psnClass d.psn
      let (t, pol) := t.police q d
      if c = 2 then t.rxSettle n ext true
      else if ¬ pol then
        if c = 1 then t.umtDrop 4
        else (t.recordRx n q rx ⟨d.psn, .data, d.last, 0x12, true, { d with payload := [] }, true, none⟩).rxSettle n ext true
      else match t.remoteCheck n q d d.argA (nbits d.argB 47 0) d.plen true with
        | (_, .wait) => (s.remoteCheck n q d d.argA (nbits d.argB 47 0) d.plen true).1
        | (u, .refuse st) =>
          if c = 1 then u.umtDrop 4
          else (u.recordRx n q rx ⟨d.psn, .data, d.last, st, true, { d with payload := [] }, true, none⟩).rxSettle n ext true
        | (u, .ok l) =>
          let u := ((u.put q.owner true l d.payload).noteDests (rxDest n) q.owner l).meter q.owner 2 d.plen
          if c = 1 then (u.umtDrop 4).ackMaybe n false
          else
            let i := d.argA / 256
            let u := { u with qpe.regions := mupd u.qpe.regions i fun g => { g with inflight := g.inflight + 1 } }
            (u.recordRx n q rx ⟨d.psn, .data, d.last, 0, false, { d with payload := [] }, true, some i⟩).rxSettle n ext d.areq

/-- Recorded DATA of QP n up to a PSN made visible: its regions' counters fall; a LAST only once its WRITE has wholly
arrived (R123, R159). -/
def State.visible (s : State) (n psn : Nat) (ext : List Byte) : State :=
  match mget s.qpe.qps n with
  | none => s
  | some q =>
    let hit (r : RxRec) : Bool := decide (r.kind = .data) && !r.visible && decide (r.refused = 0) &&
      (decide (r.psn = psn) || psnBefore r.psn psn) && (!r.last || psnBefore r.psn q.epsn)
    let s := (q.rx.filter hit).foldl (fun t r => t.regionDone r.reg) s
    let last := q.rx.any fun r => hit r && r.last
    (s.setQp n { q with rx := q.rx.map fun r => if hit r then { r with visible := true, reg := none } else r }).rxSettle n ext last

/-- WRITE_VISIBLE (R45, R123, R159, R133, R134): the data recorded for QP q up to a PSN has been accepted at its
destinations; what was written behind a link needs a flush read first. What a READ that is served now reads outside the
module's memory comes in ext. -/
def execWriteVisible (q psn : Nat) (ext : List Byte) (s : State) : Res :=
  .next <|
    match s.hif.dests.filter fun d => decide (d.wqn = rxDest q) with
    | [] => if s.hif.flushes.any fun x => decide (x.who = .notice q psn) then s else s.visible q psn ext
    | ds =>
      ds.foldl (fun t d => t.flushRead d (.notice q psn)) { s with hif.dests := s.hif.dests.filter fun d => d.wqn ≠ rxDest q }

/-- NOTICE_RECEIVED (R133, R156, R157, R159). -/
def execNoticeReceived (p : Packet) (rx : RxMeta) (ext : List Byte) (s : State) : Res :=
  .next <|
    match s.arrive p rx 2 with
    | .stop t => t
    | .go t q d =>
      let n := d.dstQpn
      let q := t.noteArrival n q rx
      let t := t.setQp n q
      let c := q.psnClass d.psn
      let (t, pol) := t.police q d
      if c = 2 then t.rxSettle n ext true
      else if c = 1 then t.umtDrop 4
      else (t.recordRx n q rx ⟨d.psn, .notice, false, if pol then 0 else 0x12, true, d, !pol, none⟩).rxSettle n ext (d.areq || !pol)

/-- READ_REQ_RECEIVED (R134, R156, R157): checked, and served once earlier WRITEs are visible; a duplicate is checked and
served again. What it reads outside the module's memory comes in ext. -/
def execReadReqReceived (p : Packet) (rx : RxMeta) (ext : List Byte) (s : State) : Res :=
  .next <|
    match s.arrive p rx 3 with
    | .stop t => t
    | .go t q d =>
      let n := d.dstQpn
      let q := t.noteArrival n q rx
      let t := t.setQp n q
      let c := q.psnClass d.psn
      let (t, pol) := t.police q d
      let off := nbits d.argB 47 0
      if c = 1 then t.umtDrop 4
      else if ¬ pol then
        if c = 2 then t.replyRefused d rx d.enc 0x12
        else (t.recordRx n q rx ⟨d.psn, .readReq, false, 0x12, true, d, true, none⟩).rxSettle n ext true
      else match t.remoteCheck n q d d.argA off (readLen d) false with
        | (_, .wait) => (s.remoteCheck n q d d.argA off (readLen d) false).1
        | (u, .refuse st) =>
          if c = 2 then u.replyRefused d rx d.enc st
          else (u.recordRx n q rx ⟨d.psn, .readReq, false, st, true, d, true, none⟩).rxSettle n ext true
        | (u, .ok l) =>
          if c = 2 then
            if q.rx.any fun r => decide (r.psn = d.psn) && !r.delivered then u.rxSettle n ext true
            else (u.serveRead n q d l ext).ackMaybe n true
          else
            let i := d.argA / 256
            let u := { u with qpe.regions := mupd u.qpe.regions i fun g => { g with inflight := g.inflight + 1 } }
            (u.recordRx n q rx ⟨d.psn, .readReq, false, 0, true, d, false, some i⟩).rxSettle n ext d.areq

/-- ACK_DELAY_EXPIRY (R158). -/
def execAckDelayExpiry (q : Nat) (s : State) : Res :=
  .next <|
    match mget s.qpe.qps q with
    | some p =>
      (match p.ackSince with
        | some t => if t + max 1 (s.rf Reg.umtCfg F.umtCfg_ack_delay) * 16 ≤ s.clk then s.ackMaybe q true else s
        | none => s)
    | none => s

/-! ### Congestion-control events (R166-R168) -/

/-- The queue of a transport core. -/
def State.ccQueue (s : State) (c : Nat) : List CcEvent := (mget s.qpe.ccq c).getD []

/-- Two ACK events of a QP made one (R168). -/
def CcEvent.merge (a b : CcEvent) : CcEvent := { a with owd := b.owd, ce := a.ce + b.ce, acked := a.acked + b.acked }

/-- One more merge counted. -/
def State.ccMerged (s : State) : State := s.incF Reg.umtCcStatus F.umtCcStatus_merged 1

/-- An event deferred: an ACK event merges with its QP's deferred one; a START or TIMEOUT takes its QP's slot of its
kind. -/
def State.ccDeferEv (s : State) (e : CcEvent) : State :=
  let same (x : CcEvent) : Bool := decide (x.qp = e.qp) && decide (x.kind = e.kind)
  if s.qpe.ccDefer.any same then
    if e.kind = 1 then ({ s with qpe.ccDefer := s.qpe.ccDefer.map fun x => if same x then x.merge e else x }).ccMerged else s
  else { s with qpe.ccDefer := s.qpe.ccDefer ++ [e] }

/-- An event raised for its core (R168). -/
def State.ccRaise (s : State) (e : CcEvent) : State :=
  let c := e.qp % 16
  let l := s.ccQueue c
  let put (t : State) (l : List CcEvent) : State := { t with qpe.ccq := mput t.qpe.ccq c l }
  let waits := s.qpe.ccDefer.any fun x => decide (x.qp % 16 = c)
  if l.length < 1024 ∧ ¬ waits then put s (l ++ [e])
  else if e.kind = 1 then
    let same (x : CcEvent) : Bool := decide (x.kind = 1) && decide (x.qp = e.qp)
    if l.any same then (put s (l.map fun x => if same x then x.merge e else x)).ccMerged else s.ccDeferEv e
  else match l.find? fun x => decide (x.kind = 1) && decide (x.qp ≠ e.qp) with
    | some x => (put s (dropFirst (fun y => decide (y = x)) l ++ [e])).ccDeferEv x
    | none => s.ccDeferEv e

/-- Deferred events enter a core's queue while it has room, START and TIMEOUT first (R168). -/
def State.ccFill (s : State) (c : Nat) : Nat → State
  | 0 => s
  | fuel + 1 =>
    let l := s.ccQueue c
    let mine := s.qpe.ccDefer.filter fun x => decide (x.qp % 16 = c)
    let next := (mine.find? fun x => decide (x.kind ≠ 1)).orElse fun _ => mine.head?
    match next with
    | some e =>
      if l.length < 1024 then
        ({ s with qpe.ccq := mput s.qpe.ccq c (l ++ [e]), qpe.ccDefer := dropFirst (fun x => decide (x = e)) s.qpe.ccDefer }).ccFill c fuel
      else s
    | none => s

/-- The line rate of port n in MB/s (Table 9-1). -/
def State.lineRate (s : State) (n : Nat) : Nat :=
  match s.rf (Reg.macQuad n) F.macQuad_speed with
  | 1 => 50000
  | 2 => 25000
  | _ => 100000

/-- A parameter of the program (Table 7-7). -/
def State.ccParam (s : State) (i : Nat) : Nat := (s.rd (Reg.umtCcParam i)).toNat

/-- The default program on an event (R169): its state afterwards. -/
def State.ccDefault (s : State) (e : CcEvent) (line : Nat) (c : QpCc) : QpCc :=
  let p := s.ccParam
  match e.kind with
  | 0 => { c with r := line, base := none, lastDec := 0, w := line * p 6 / 1000 }
  | 1 =>
    let valid := decide (e.owd ≠ 0xFFFFFFFF)
    let fresh := valid && (match c.base with | none => true | some b => decide (e.owd < b) || decide (p 4 < s.time - c.baseSet))
    let c := if fresh then { c with base := some e.owd, baseSet := s.time } else c
    let base := c.base.getD 0
    let q := if valid then e.owd - base else 0
    let c :=
      if e.ce = 0 ∧ q ≤ p 0 then { c with r := min line (c.r + p 2 * e.acked / 65536) }
      else if 2 * base + p 0 ≤ s.time - c.lastDec then
        -- f = a / b
        let b := 2 * max 1 (p 0)
        let a := min b (2 * (q - p 0))
        let a := if e.ce > 0 then max a (b / 2) else a
        { c with r := max (p 3) (c.r * (256 * b - p 1 * a) / (256 * b)), lastDec := s.time }
      else c
    { c with w := max (2 * 4226) (c.r * (2 * base + p 0) / 1000) }
  | _ => { c with r := max (p 3) (c.r / max 1 (p 5)) }

/-- The oldest event of a transport core is over: it leaves the queue, deferred events enter, and the core is idle. -/
def State.ccOver (s : State) (core : Nat) : State :=
  ({ s with qpe.ccq := mput s.qpe.ccq core ((s.ccQueue core).drop 1), plt.cores := mdel s.plt.cores (Core.key (.tport core)),
            plt.scratch := mclear s.plt.scratch (core * 4096) (core * 4096 + 4096), plt.ccState := mdel s.plt.ccState core }).ccFill core 1

/-- Limits that a handler's outputs give QP n; an output of 0 leaves one unchanged (R167). -/
def State.ccLimits (s : State) (n : Nat) (c : QpCc) (r w : Nat) : State :=
  match mget s.qpe.qps n with
  | some q => s.setQp n { q with cc := { c with rate := if r = 0 then c.rate else r, window := if w = 0 then c.window else w } }
  | none => s

/-- CC_EVENT_RUN (R167, R169): the handler of core's oldest event ends. The default program runs as a whole here; one loaded in
its place runs by the instruction rows, and its outputs are taken from s10 and s11 once it has halted. -/
def execCcEventRun (core : Nat) (s : State) : Res :=
  .next <|
    match s.ccQueue core with
    | [] => s
    | e :: _ =>
      let q := mget s.qpe.qps e.qp
      let cc := ((q.map (·.cc)).getD {})
      if (mget s.qpe.ccBank (s.rf Reg.umtCcCtrl F.umtCcCtrl_active)).isSome then
        match mget s.plt.cores (Core.key (.tport core)) with
        | some x => if x.run = .halted then (s.ccOver core).ccLimits e.qp cc (x.sr 10).toNat (x.sr 11).toNat else s
        | none => s
      else
        let c := s.ccDefault e (s.lineRate ((q.bind (·.port)).getD 0)) cc
        (s.ccOver core).ccLimits e.qp c c.r c.w

/-- The handler of a core's oldest event abandoned (R168): the QP keeps its limits and its state, and the event is counted and
reported. -/
def State.ccAbandon (s : State) (core : Nat) : State :=
  match s.ccQueue core with
  | [] => s
  | e :: _ =>
    let s := match mget s.plt.ccState core with | some (a, bs) => s.store a bs | none => s
    let s := (s.ccOver core).incF Reg.umtCcStatus F.umtCcStatus_overrun 1
    s.raiseMs .warning 6 1 0 (fn := match mget s.qpe.qps e.qp with | some q => q.owner | none => 0x7FF) (inst := core) (arg0 := e.qp)

/-- CC_HANDLER_ABANDON (R168): the handler of the core's oldest event has run too long. -/
def execCcHandlerAbandon (core : Nat) (s : State) : Res := .next (s.ccAbandon core)

/-- The 64 KiB of a program bank. -/
def bankBytes (m : Map Byte) : List Nat := (List.range 65536).map fun i => (dget m 0 i).toNat

/-- Whether the digest registers name the image of bank b; the digest of the default image is not stated, so it is a
free value (R169). -/
def State.ccDigestOk (s : State) (b : Nat) : Bool :=
  let h := (List.range 6).map fun i => (s.rd (Reg.umtCcHash i)).toNat
  match mget s.qpe.ccBank b with
  | some m => decide (h.foldl (fun a x => a * 2 ^ 64 + x) 0 = sha384 (bankBytes m))
  | none => (List.range 6).all fun i => decide (h.getD i 0 = (Config.freeValue (s.free + i)).toNat)

/-- CC_SWAP (R169): a write of `SWAP`: the inactive bank is verified and every core, at an event boundary here, takes it. -/
def execCcSwap (m : Nat) (s : State) : Res :=
  .next <|
    s.sw m Reg.umtCcCtrl fun s =>
      let a := s.rf Reg.umtCcCtrl F.umtCcCtrl_active
      if s.ccDigestOk (1 - a) then { s.wf Reg.umtCcCtrl F.umtCcCtrl_active (1 - a) with free := s.free + 6 }
      else { s.wf Reg.umtCcCtrl F.umtCcCtrl_load_err 1 with free := s.free + 6 }

/-! ### The initiator -/

/-- The timer and retry count of a QP that moved forward (R162). -/
def State.forward (s : State) (q : Qp) : Qp := { q with timerAt := s.clk, expE := s.rtoE q, retry := 0 }

/-- The transactions of removed packets end where nothing of them is outstanding any more (R139). -/
def State.transDone (s : State) (n : Nat) (l : List (Nat × Nat × Nat)) : State :=
  l.foldl (fun t x =>
    match mget t.qpe.qps n with
    | some q =>
      let (w, slot, step) := x
      let busy := q.una.any (fun y => decide (y.kind ≠ .readReq) && decide (y.wqn = w) && decide (y.slot = slot) && decide (y.step = step)) ||
        q.reads.any fun y => decide (y.wqn = w) && decide (y.slot = slot) && decide (y.step = step)
      if busy then t else t.transEnd w slot step
    | none => t) s

/-- A packet sent again (R162, R163): queued with `RETX` unless it waits for release already. -/
def Qp.resend (q : Qp) (p : Packet) : Qp :=
  if q.txq.any fun x => decide (x.psn = p.psn) && decide (x.type = p.type) then q else { q with txq := q.txq ++ [{ p with retx := true }] }

/-- ACK_RECEIVED (R148, R158-R163, R253, R131, R132, R387). -/
def execAckReceived (p : Packet) (rx : RxMeta) (s : State) : Res :=
  .next <|
    match s.packetDrop p with
    | some r => s.umtDrop r
    | none =>
      if p.type ≠ 5 then s
      else
        let st0 := nbits p.argA 31 24
        match mget s.qpe.qps p.dstQpn with
        | none => s
        | some q0 =>
          let clearOk := q0.saEn && !p.enc
          if clearOk ∧ st0 ≠ 0x10 ∧ st0 ≠ 0x11 then s.incF (Reg.cipStat 1) F.cipStat_count 1
          else
            match (if clearOk then (s, some p) else s.check1 p rx) with
            | (t, none) => t
            | (t, some d) =>
              if d.dstInc ≠ t.inc then t.umtDrop 5
              else if ¬ q0.pairs d ∨ q0.st ≠ .active then t
              else if d.srcInc ≠ q0.peerInc ∧ st0 ≠ 0x08 then t.umtDrop 5
              else
                let n := d.dstQpn
                let cum := d.psn
                let sp := nbits d.argA 23 0
                if psnBefore q0.psn cum then t
                else
                  let gone := q0.una.filter fun x => decide (x.kind ≠ .mark) && psnBefore x.psn cum
                  let shown (x : Sent) : Bool :=
                    decide (x.kind ≠ .mark) && !psnBefore x.psn cum && decide (1 ≤ psnDist cum x.psn) && decide (psnDist cum x.psn ≤ 64) &&
                      nbit d.argB (psnDist cum x.psn - 1)
                  let counted := (gone.filter fun x => decide (st0 = 0) || psnBefore x.psn sp) ++
                    (if st0 = 0 then [] else q0.una.filter fun x => shown x && psnBefore x.psn sp)
                  let owner := (q0.una.find? fun x => decide (x.kind ≠ .mark) && decide (x.psn = sp) && decide (x.wqn < 0x10000)).map fun x => (x.wqn, x.slot)
                  let owner := owner.orElse fun _ => (q0.reads.find? fun x => decide (x.psn = sp) && decide (x.wqn < 0x10000)).map fun x => (x.wqn, x.slot)
                  let q := { q0 with una := (q0.una.filter fun x => decide (x.kind = .mark) || !psnBefore x.psn cum).map fun x => { x with sacked := shown x },
                                     txq := q0.txq.filter fun x => !(gone.any fun y => decide (y.psn = x.psn)) }
                  let q := if gone = [] then q else t.forward q
                  let far := (q.una.filter fun x => x.sacked).length
                  let q := match q.una.find? fun x => decide (x.kind ≠ .mark) && decide (x.psn = cum) && x.released with
                    | some x => if 3 ≤ far ∧ q.fast ≠ some cum ∧ ¬ x.sacked then { q.resend x.pkt with fast := some cum } else q
                    | none => q
                  let t := t.setQp n q
                  let t := counted.foldl (fun u x => if x.kind = .data then u.updEnt x.wqn x.slot fun e => { e with bytes := e.bytes + x.pkt.plen } else u) t
                  let acked := (gone.filter fun x => x.kind = .data).foldl (fun a x => a + x.pkt.plen) 0
                  let t := if q.transport ≠ 0 ∧ gone ≠ [] then t.ccRaise ⟨1, n, rx.owd, rx.ceCount, acked⟩ else t
                  let t := match (if st0 = 0 then none else owner) with
                    | some (w, slot) =>
                      let t := t.finish w slot st0
                      if qpErrorStatus st0 then t.qpError n st0
                      else
                        let t := { t with qpe.trk := t.qpe.trk.filter fun x => ¬ (x.wqn = w ∧ x.slot = slot) }
                        (match mget t.qpe.qps n with | some q => t.setQp n (q.detach w slot) | none => t)
                    | none =>
                      if st0 ≠ 0 ∧ q0.una.any fun (x : Sent) => decide (x.kind ≠ SentKind.mark) && decide (x.psn = sp) && decide (0x40000 ≤ x.wqn) then
                        (if qpErrorStatus st0 then t.qpError n st0 else t.engineFail n st0)
                      else t
                  ((t.transDone n (gone.map fun (x : Sent) => (x.wqn, x.slot, x.step))).sweepMarks n).sweepQps

/-- A READ's entry ended by its own side (R161, R121). -/
def State.readFails (s : State) (n w slot st : Nat) : State :=
  let s := s.finish w slot st
  let s := { s with qpe.trk := s.qpe.trk.filter fun x => ¬ (x.wqn = w ∧ x.slot = slot) }
  match mget s.qpe.qps n with
  | some q => s.setQp n (q.detach w slot)
  | none => s

/-- READ_RESP_RECEIVED (R134, R161). -/
def execReadRespReceived (p : Packet) (rx : RxMeta) (s : State) : Res :=
  .next <|
    match s.packetDrop p with
    | some r => s.umtDrop r
    | none =>
      if p.type ≠ 4 then s
      else match s.check1 p rx with
        | (t, none) => t
        | (t, some d) =>
          match t.check2 d rx with
          | some u => u
          | none =>
            let n := d.dstQpn
            match (mget t.qpe.qps n).bind fun q =>
                if q.st = .active && q.pairs d then (q.reads.find? fun r => decide (r.psn = d.psn)).map fun r => (q, r) else none with
            | none => t.umtDrop 6
            | some (q, r) =>
              let i := nbits d.argA 5 0
              if cdiv r.len r.piece ≤ i ∨ d.plen ≠ min r.piece (r.len - i * r.piece) then t.readFails n r.wqn r.slot 0x41
              else if r.got.contains i then t
              else match t.ent? r.wqn r.slot with
                | none => t.umtDrop 6
                | some e =>
                  match t.xlRange q.owner e.lspace .write false 0 r.wqn (xlFuel d.plen) (e.w 1 + r.off + i * r.piece) d.plen with
                  | (_, .miss) => (s.xlRange q.owner e.lspace .write false 0 r.wqn (xlFuel d.plen) (e.w 1 + r.off + i * r.piece) d.plen).1
                  | (u, .fault _) => u.readFails n r.wqn r.slot 0x04
                  | (u, .down) => u.readFails n r.wqn r.slot 0x0C
                  | (u, .ok l) =>
                    let u := ((u.put q.owner true l d.payload).noteDests r.wqn q.owner l).meter q.owner 2 d.plen
                    let u := u.updEnt r.wqn r.slot fun e => { e with bytes := e.bytes + d.plen }
                    let r' := { r with got := sins r.got i }
                    let done := decide (r'.got.length = cdiv r.len r.piece)
                    let q := u.forward { q with reads := if done then q.reads.filter fun x => x.psn ≠ r.psn else q.reads.map fun x => if x.psn = r.psn then r' else x }
                    let u := u.setQp n q
                    if done then u.transDone n [(r.wqn, r.slot, r.step)] else u

/-! ### Connecting -/

/-- A QP becomes Active with its peer's incarnation and initial PSN (R128, R155). -/
def State.qpActive (s : State) (n : Nat) (q : Qp) (inc psn : Nat) : State :=
  let s := s.setQp n { q with
    st := .active, cmd := none, peerInc := inc, epsn := psn, lastCum := psn, una := [], rx := [], retry := 0
    ctl := q.ctl.filter fun x => x.type ≠ 8 }
  let s := if q.cmd = some .arm then s.qpeEnd q.owner 0 else s
  if q.transport ≠ 0 then s.ccRaise ⟨0, n, 0, 0, 0⟩ else s

/-- CONNECT_RECEIVED (R128, R148, R155, R164). -/
def execConnectReceived (p : Packet) (rx : RxMeta) (s : State) : Res :=
  .next <|
    match s.packetDrop p with
    | some r => s.umtDrop r
    | none =>
      if p.type ≠ 8 then s
      else match s.check1 p rx with
        | (t, none) => t
        | (t, some d) =>
          let n := d.dstQpn
          let ok : Bool := match mget t.qpe.qps n with
            | some q => q.pairs d && (decide (q.st = .armed) || (decide (q.st = .active) && decide (q.peerInc = d.srcInc)))
            | none => false
          match (if ok then mget t.qpe.qps n else none) with
          | none => t.reply d rx d.enc 0xA 0 0x33
          | some q =>
            let t := if q.st = .armed then t.qpActive n q d.srcInc (nbits d.argA 23 0) else t
            match mget t.qpe.qps n with
            | some q => t.setQp n { q with ctl := q.ctl ++ [{ t.qpPkt n q 9 0 with argA := q.ipsn }] }
            | none => t

/-- ACCEPT_RECEIVED (R128, R130, R155). -/
def execAcceptReceived (p : Packet) (rx : RxMeta) (s : State) : Res :=
  .next <|
    match s.packetDrop p with
    | some r => s.umtDrop r
    | none =>
      if p.type ≠ 9 then s
      else match s.check1 p rx with
        | (t, none) => t
        | (t, some d) =>
          match t.check2 d rx with
          | some u => u
          | none =>
            match mget t.qpe.qps d.dstQpn with
            | some q => if q.st = .armed ∧ q.pairs d then t.qpActive d.dstQpn q d.srcInc (nbits d.argA 23 0) else t
            | none => t

/-- REJECT_RECEIVED (R128, R148): the connect stays under its timer. -/
def execRejectReceived (p : Packet) (rx : RxMeta) (s : State) : Res :=
  .next <|
    match s.packetDrop p with
    | some r => s.umtDrop r
    | none =>
      if p.type ≠ 10 then s
      else match s.check1 p rx with
        | (t, none) => t
        | (t, some d) => if d.dstInc ≠ t.inc then t.umtDrop 5 else t

/-- ABORT_RECEIVED (R131, R148, R387). -/
def execAbortReceived (p : Packet) (rx : RxMeta) (s : State) : Res :=
  .next <|
    match s.packetDrop p with
    | some r => s.umtDrop r
    | none =>
      if p.type ≠ 11 then s
      else match s.check1 p rx with
        | (t, none) => t
        | (t, some d) =>
          if d.dstInc ≠ t.inc then t.umtDrop 5
          else match mget t.qpe.qps d.dstQpn with
            | some q => if q.st = .active ∧ q.pairs d then (t.qpError d.dstQpn (nbits d.argA 7 0)).sweepQps d.dstQpn else t
            | none => t

/-! ### Timers and release -/

/-- The timeout of a QP in ns (R162). -/
def State.rto (s : State) (q : Qp) : Nat := min 1000000000 (4000 * 2 ^ q.expE)

/-- RETRANSMIT_TIMEOUT (R162, R164, R128). -/
def execRetransmitTimeout (q : Nat) (s : State) : Res :=
  .next <|
    match mget s.qpe.qps q with
    | none => s
    | some p =>
      if (p.una = [] ∧ p.reads = []) ∨ ¬ (p.st = .armed ∨ p.st = .active) ∨ s.clk < p.timerAt + s.rto p then s
      else if 7 ≤ p.retry then
        let first := (p.una.find? fun x => decide (x.wqn < 0x10000)).map fun x => (x.wqn, x.slot)
        let first := first.orElse fun _ => (p.reads.head?).map fun x => (x.wqn, x.slot)
        let s := match first with | some (w, slot) => s.finish w slot 0x07 | none => s
        (s.qpError q 0x07).sweepQps
      else
        let again := (p.una.filter fun x => decide (x.kind ≠ .mark) && x.released && !x.sacked).map (·.pkt)
        let reads := (p.reads.filter fun r => !p.una.any fun x => decide (x.psn = r.psn) && decide (x.kind = .readReq)).map (·.pkt)
        let p := { p with retry := p.retry + 1, fast := none, timerAt := s.clk, expE := min (min 18 (s.rf Reg.umtCfg F.umtCfg_rto_max_e)) (p.expE + 1) }
        let p := if p.st = .armed then { p with ctl := (p.ctl.filter fun x => x.type ≠ 8) ++ again.map fun x => { x with retx := true } }
                 else (again ++ reads).foldl Qp.resend p
        let s := s.setQp q p
        if p.transport ≠ 0 ∧ p.st = .active then s.ccRaise ⟨2, q, 0, 0, 0⟩ else s

/-- Bytes of a UMT frame of a packet, FCS included (Table 7-1). -/
def frameBytes (q : Qp) (p : Packet) : Nat := 14 + (if q.transport = 2 then 20 else 40) + 8 + 16 + 32 + 8 * b2n p.enc + p.plen + 8 + 4

/-- Frame bytes in flight (R166). -/
def Qp.inFlight (q : Qp) : Nat :=
  (q.una.filter fun x => x.released && !x.sacked && decide (x.kind ≠ .mark)).foldl (fun a x => a + frameBytes q x.pkt) 0

/-- Whether the limits of R166 let a packet go. -/
def State.ccAllows (s : State) (q : Qp) (p : Packet) : Bool :=
  decide (q.transport = 0) ||
    ((decide (q.cc.rate = 0) || decide (q.cc.next ≤ s.clk)) &&
     (decide (q.cc.window = 0) || decide (p.type ≠ 1 ∧ p.type ≠ 2 ∧ p.type ≠ 3) || decide (q.inFlight + frameBytes q p ≤ q.cc.window)))

/-- The time per byte of port n in ps. -/
def State.psPerByte (s : State) (n : Nat) : Nat := 1000000 / s.lineRate n

/-- The packet that a QP releases next: acknowledgements, answers and connects first. -/
def Qp.nextOut (q : Qp) : Option (Packet × Bool) :=
  match q.ctl with
  | p :: _ => some (p, true)
  | [] => (q.txq.head?).map fun p => (p, false)

/-- The QP with the packet it releases taken out, and marked sent. -/
def State.tookOut (s : State) (q : Qp) (p : Packet) (ctl : Bool) (len : Nat) : Qp :=
  let q : Qp := if ctl then { q with ctl := q.ctl.drop 1 } else { q with txq := q.txq.drop 1 }
  let q : Qp := { q with fnTok := false, una := q.una.map fun x => if x.psn = p.psn ∧ x.kind ≠ .mark ∧ (x.pkt.type = p.type) then { x with released := true } else x }
  let q : Qp := if p.type = 5 then { q with ce := 0 } else q
  if q.transport ≠ 0 ∧ q.cc.rate ≠ 0 then { q with cc := { q.cc with next := max s.clk q.cc.next + cdiv (len * 1000) q.cc.rate } } else q

/-- The entry that owns a packet of a QP. -/
def Qp.ownerOf (q : Qp) (p : Packet) : Option (Nat × Nat) :=
  (q.una.find? fun x => decide (x.psn = p.psn) && decide (x.kind ≠ .mark) && decide (x.wqn < 0x10000)).map fun x => (x.wqn, x.slot)

/-- A packet that no SA sends (R171, R250): the entry that owns it completes with the status; at the end of a counter its QP
moves to Error. -/
def State.unsent (s : State) (n : Nat) (q : Qp) (p : Packet) (ctl : Bool) (st : Nat) : State :=
  let own := if ctl then none else q.ownerOf p
  let q := if ctl then { q with ctl := q.ctl.drop 1 } else { q with txq := q.txq.drop 1 }
  let s := s.setQp n { q with fnTok := false }
  let s := match own with
    | some (w, slot) =>
      let s := s.finish w slot st
      let s := { s with qpe.trk := s.qpe.trk.filter fun x => ¬ (x.wqn = w ∧ x.slot = slot) }
      (match mget s.qpe.qps n with
        | some q =>
          let mine := (q.una.filter fun x => decide (x.wqn = w) && decide (x.slot = slot)).map (·.psn)
          s.setQp n { q.detach w slot with txq := q.txq.filter fun x => ¬ mine.contains x.psn }
        | none => s)
    | none => if st ≠ 0x09 ∧ ¬ ctl ∧ q.una.any fun (x : Sent) => decide (x.kind ≠ .mark) && decide (x.psn = p.psn) && decide (0x40000 ≤ x.wqn) then
        s.engineFail n st else s
  if st = 0x09 then (s.qpError n 0x09).sweepQps else s

/-- FRAME_RELEASE (R166, R170, R171, R215, R237, R241, R243, R246, R248, R250, R256): QP q's next packet is released when its
limits, its function's token, its port's token and, for a UMT frame, its gate let it pass; it is protected and handed to the
router or the MAC. -/
def execFrameRelease (q : Nat) (chk : CipChk) (s : State) : Res :=
  .next <|
    match mget s.qpe.qps q with
    | none => s
    | some p =>
      match p.nextOut with
      | none => s
      | some (k, ctl) =>
        if ¬ s.ccAllows p k then s
        else
          let len := frameBytes p k
          let bound := if p.transport = 0 then none
            else match p.port with
              | some n => if s.umtUp p.transport n then some n else s.bindPort p.transport
              | none => s.bindPort p.transport
          let port := if p.transport = 0 then (let r := s.routeOf 12 { k with st := s.injState }; if r.2.2.isSome ∨ r.1 = 12 then none else some r.1) else bound
          if p.transport ≠ 0 ∧ bound.isNone then s
          else
            let p := { p with port := if p.transport = 0 then p.port else bound }
            let fnTok := if k.type = 5 ∨ p.fnTok then some s else s.token (Reg.timShpFn p.owner)
            match fnTok with
            | none => s.setQp q p
            | some s =>
              let p := { p with fnTok := decide (k.type ≠ 5) }
              let portTok := match port with | some n => s.token (Reg.timShpPort n (k.tc % 8)) | none => some s
              match portTok with
              | none => s.setQp q p
              | some t =>
                let g := if p.transport = 0 then some false
                  else match port with | some n => s.gate n (k.tc % 8) ((len + 20) * s.psPerByte n) | none => none
                match g with
                | none => s.setQp q p
                | some long =>
                  let t := if long then t.overlong (port.getD 0) (k.tc % 8) else t
                  match (if p.saEn then t.sendSa p.owner p.sa 3 else .inl 0) with
                  | .inr st => t.unsent q p k ctl st
                  | .inl m =>
                    let (t, k', ok) :=
                      if p.saEn then
                        let (t, k') := t.seal m k
                        let (t, ok) := t.cipCores true chk
                        (t.meter p.owner 11 k.plen, k', ok)
                      else (t, pktClear k, true)
                    let t := t.setQp q (t.tookOut p k ctl len)
                    let t := if k.plen = 0 then t else t.meter p.owner (if k.retx then 1 else 0) k.plen
                    if ¬ ok then t
                    else match bound with
                      | none => t.inject k'
                      | some n =>
                        t.toMac n k' (t.umtAddr n (decide (p.transport = 2)) p.rip k' (if k.type = 5 then min 255 p.ce else 0)
                          (if k.type = 5 then p.echoTx else 0) (if k.type = 5 then p.owd else 0))

/-- UMT_PORT_EN_CLEAR (R153): `EN` of port n clears and the QPs bound to it rebind. -/
def State.rebind (s : State) (n : Nat) : State :=
  (s.qpe.qps.filter fun e => decide (e.2.port = some n)).foldl (fun t e => t.setQp e.1 { e.2 with port := t.bindPort e.2.transport }) s

@[inherit_doc State.rebind]
def execUmtPortEnClear (m n : Nat) (s : State) : Res :=
  .next (if 12 ≤ n then s else s.sw m (Reg.umtPort n) fun s => (s.wf (Reg.umtPort n) F.umtPort_en 0).rebind n)

end Sys2Proof.Machine
end

