-- ==== Sys2Proof/Machine/Mac.lean ====
section
/-! DEFINITION. Ethernet ports (09_ethernet_ports.md): the rows MAC_QUAD_RECONFIG to PPS_OUT_PULSE. -/

namespace Sys2Proof.Machine

/-- A port counter raised (Table 9-4). -/
def State.macStat (s : State) (n i k : Nat) : State := s.incF (Reg.macStat n i) F.macStat_count k

/-- The largest frame of port n. -/
def State.maxFrame (s : State) (n : Nat) : Nat := max 1518 (min 9600 (s.rf (Reg.macQuad n) F.macQuad_max_frame))

/-- Whether quad n is an Ethernet port with its link up. -/
def State.ethUp (s : State) (n : Nat) : Bool := decide (s.rf (Reg.macQuad n) F.macQuad_mode = 1) && s.on (Reg.macQuad n) F.macQuad_up

/-! ### Link -/

/-- An Ethernet port's link changes (R208, R153); the frame being sent is lost. -/
def State.ethChange (s : State) (n : Nat) (up : Bool) : State :=
  if s.on (Reg.macQuad n) F.macQuad_up = up then s
  else
    let s := (s.wf (Reg.macQuad n) F.macQuad_up (b2n up)).wf (Reg.umtPort n) F.umtPort_up (b2n up)
    let s := s.raise .warning 8 1 (inst := n) (arg0 := b2n up)
    if up then s
    else
      let s := s.macStat n 21 1
      ({ s with mac.ports := mput s.mac.ports n { s.macPort n with cur := none } }).rebind n

/-- MAC_QUAD_RECONFIG (R206): a write of `MAC_QUADn`; a change of role, speed or medium takes the link down and trains it
again. -/
def execMacQuadReconfig (m n : Nat) (v : Word) (s : State) : Res :=
  .next <|
    if 12 ≤ n then s
    else s.sw m (Reg.macQuad n) fun s =>
      let old := s.rd (Reg.macQuad n)
      let t := s.softW (Reg.macQuad n) v
      if fld old 1 0 = fld (t.rd (Reg.macQuad n)) 1 0 ∧ fld old 5 3 = fld (t.rd (Reg.macQuad n)) 5 3 then t
      else
        let t := t.ethChange n false
        let t := if t.lstate n = 0 then t else t.linkFails n 1
        t.linkStart n

/-- ETH_LINK_CHANGE (R208). -/
def execEthLinkChange (n : Nat) (up : Bool) (s : State) : Res :=
  .next (if n < 12 ∧ s.rf (Reg.macQuad n) F.macQuad_mode = 1 ∧ (up → s.pd (68 + n) = 2) then s.ethChange n up else s)

/-! ### IP and UDP -/

/-- The big-endian number of n bytes at byte a of a frame. -/
def fbe (f : List Byte) (a n : Nat) : Nat := beNat ((f.drop a).take n)

/-- The 16-bit words of bytes, an odd last byte followed by 0. -/
def words16 : Nat → List Byte → Nat
  | 0, _ => 0
  | n + 1, b => if b = [] then 0 else fbe (b.take 2 ++ (if b.length = 1 then [0] else [])) 0 2 + words16 n (b.drop 2)

/-- The one's-complement sum of bytes folded to 16 bits. -/
def onesSum (x : Nat) : Nat := let a := x % 65536 + x / 65536; let b := a % 65536 + a / 65536; b % 65536 + b / 65536

/-- Where the UDP header of an IPv6 packet starts, past its extension headers, and whether there were any or it is a
fragment. -/
def ip6Udp (f : List Byte) : Nat → Nat → Nat → Bool → Option (Nat × Bool)
  | 0, _, _, _ => none
  | n + 1, h, a, ext =>
    if h = 17 then some (a, ext)
    else if h = 0 ∨ h = 43 ∨ h = 60 ∨ h = 135 then ip6Udp f n (fbe f a 1) (a + 8 + 8 * fbe f (a + 1) 1) true
    else if h = 44 then (if fbe f (a + 2) 2 / 8 = 0 then ip6Udp f n (fbe f a 1) (a + 8) true else none)
    else if h = 51 then ip6Udp f n (fbe f a 1) (a + 8 + 4 * fbe f (a + 1) 1) true
    else none

/-- What an untagged frame holds of IP and UDP: version, source, destination, ECN, start of the UDP header, and whether it
has options, extension headers or fragmentation. -/
structure IpUdp where
  v4 : Bool
  src : Nat
  dst : Nat
  ecn : Nat
  udp : Nat
  extra : Bool

/-- The IP and UDP headers of a frame. -/
def ipUdp (f : List Byte) : Option IpUdp :=
  let t := fbe f 12 2
  if t = 0x0800 ∧ fbe f 14 1 / 16 = 4 then
    let ihl := fbe f 14 1 % 16
    let frag := fbe f 20 2
    if fbe f 23 1 = 17 ∧ 5 ≤ ihl ∧ frag % 8192 = 0 then
      some ⟨true, fbe f 26 4, fbe f 30 4, fbe f 15 1 % 4, 14 + 4 * ihl, decide (ihl ≠ 5) || decide (frag / 8192 % 2 = 1)⟩
    else none
  else if t = 0x86DD ∧ fbe f 14 1 / 16 = 6 then
    match ip6Udp f 8 (fbe f 20 1) 54 false with
    | some (a, e) => some ⟨false, fbe f 22 16, fbe f 38 16, fbe f 14 2 / 16 % 4, a, e⟩
    | none => none
  else none

/-- Whether a nonzero UDP checksum is wrong: the sum over pseudo-header and datagram is not all ones. -/
def udpBad (f : List Byte) (h : IpUdp) : Bool :=
  let len := fbe f (h.udp + 4) 2
  let addr := if h.v4 then words16 4 ((f.drop 26).take 8) else words16 16 ((f.drop 22).take 32)
  decide (fbe f (h.udp + 6) 2 ≠ 0) && decide (onesSum (addr + 17 + len + words16 (len / 2 + 1) ((f.drop h.udp).take len)) ≠ 65535)

/-! ### Receive -/

/-- Whether a destination address passes the filter of port n (R211). -/
def State.macPasses (s : State) (n d : Nat) : Bool :=
  let group := nbit d 40
  (List.range 16).any (fun i =>
    let e := s.rd (Reg.macAddr n i)
    fld e 63 63 = 1 && decide (fld e 47 0 = d) && (if group then decide (8 ≤ i) else decide (i < 8))) ||
  (decide (d = 0xFFFFFFFFFFFF) && s.on (Reg.macQuad n) F.macQuad_bcast_en)

/-- Slots of a raw ring (Table 9-7). -/
def State.rawSize (s : State) (k : Nat) : Nat := 2 ^ max 4 (min 12 (s.rf k F.macRawRx_log2))

/-- A frame written to the raw receive ring (R212, R213). -/
def State.rawRx (s : State) (n : Nat) (f : List Byte) (ptp tagged : Bool) : State :=
  let k := Reg.macRawRx n
  let i := Reg.macRawIdx n
  let prod := s.rf i F.macRawIdx_rx_prod
  if ¬ s.on k F.macRawRx_en then s
  else if 2032 < f.length ∨ (prod + 65536 - s.rf i F.macRawIdx_rx_head) % 65536 = s.rawSize k then s.macStat n 9 1
  else
    let a := s.rf k F.macRawRx_base * 4096 + prod % s.rawSize k * 2048
    let w0 := s.frac / 2 ^ 16 * 2 ^ 32 + b2n ptp * 2 ^ 17 + b2n tagged * 2 ^ 16 + f.length
    let s := s.devStore a (leBytes 8 w0 ++ leBytes 8 s.time ++ f)
    ((s.macStat n 8 1).wf i F.macRawIdx_rx_prod (prod + 1)).edge (0x40 + n)

/-- A UMT frame passed to the transport engine, or dropped (R151). -/
def State.umtRx (s : State) (n : Nat) (f : List Byte) (h : IpUdp) : State :=
  let s := s.macStat n 7 1
  let w0 := fbe f (h.udp + 8) 8
  let w1 := fbe f (h.udp + 16) 8
  let p := pktOf (f.drop (h.udp + 24))
  if nbits w0 63 60 ≠ 1 then s.umtDrop 1
  else if fbe f (h.udp + 4) 2 ≠ 8 + 16 + 40 + 8 * b2n p.enc + p.plen then s.umtDrop 1
  else if h.extra then s.umtDrop 2
  else if udpBad f h then s.umtDrop 3
  else s.emit .rx [1, n, nbits w0 31 0, nbits w0 48 48, b2n (decide (h.ecn = 3)), nbits w0 47 40, nbits w1 63 32, nbits w1 31 0, h.src, b2n h.v4]
    (pkt := some p)

/-- Whether a frame is taken as UMT on port n (R151). -/
def State.isUmt (s : State) (n : Nat) (f : List Byte) : Option IpUdp :=
  match ipUdp f with
  | some h =>
    let own := if h.v4 then s.on (Reg.umtPort n) F.umtPort_ip4_en && decide (h.dst = s.rf (Reg.umtIp4 n) F.umtIp4_addr)
      else s.on (Reg.umtPort n) F.umtPort_ip6_en && decide (h.dst = (s.rd (Reg.umtIp6nHi n)).toNat * 2 ^ 64 + (s.rd (Reg.umtIp6nLo n)).toNat)
    if s.on (Reg.umtPort n) F.umtPort_en && own && decide (fbe f (h.udp + 2) 2 = s.rf Reg.umtCfg F.umtCfg_udp_port) then some h else none
  | none => none

/-- Whether a frame is a PTP message (R210). -/
def isPtp (f : List Byte) : Bool :=
  decide (fbe f 12 2 = 0x88F7) ||
    (match ipUdp f with
     | some h => decide (fbe f (h.udp + 2) 2 = 319) || decide (fbe f (h.udp + 2) 2 = 320)
     | none => false)

/-- ETH_FRAME_RECEIVED (R151, R209-R213): the bytes of a frame on port n, FCS included, pass the checks of Table 9-2. -/
def execEthFrameReceived (n : Nat) (data : List Byte) (s : State) : Res :=
  .next <|
    if 12 ≤ n ∨ ¬ s.ethUp n ∨ (s.leads ∧ ¬ s.traceRoom data.length) then s
    else if 32768 < data.length then s.macStat n 10 1
    else if data.length < 64 then s.macStat n 3 1
    else
      let f := data.take (data.length - 4)
      if data.drop (data.length - 4) ≠ leBytes 4 (crc32 (nats f)) then s.macStat n 2 1
      else if s.maxFrame n < data.length then s.macStat n 4 1
      else if fbe f 12 2 = 0x8808 then s.macStat n 6 1
      else if ¬ s.macPasses n (fbe f 0 6) then s.macStat n 5 1
      else
        let s := (s.macStat n 0 1).macStat n 1 data.length
        let s := if fbe f 0 6 = 0xFFFFFFFFFFFF then s.macStat n 13 1 else if nbit (fbe f 0 6) 40 then s.macStat n 14 1 else s
        let tagged := decide (fbe f 12 2 = 0x8100)
        match s.isUmt n f with
        | some h => s.letIn (16 + n) 0x06 f fun s => s.umtRx n f h
        | none =>
          if isPtp f ∧ s.on (Reg.macQuad n) F.macQuad_ptp_fw then s.emit .frame [n, 2, s.time, s.frac / 2 ^ 16] f
          else s.letIn (16 + n) 0x06 f fun s => s.rawRx n f (isPtp f) tagged

/-! ### Raw rings and transmit -/

/-- RAW_RING_ENABLE (R213, Table 9-7): a write of `MAC_RAW_RXn` or `MAC_RAW_TXn`; setting `EN` zeroes the ring's two
counts. -/
def execRawRingEnable (m n : Nat) (tx : Bool) (v : Word) (s : State) : Res :=
  .next <|
    if 12 ≤ n then s
    else
      let k := if tx then Reg.macRawTx n else Reg.macRawRx n
      s.sw m k fun s =>
        let was := s.on k F.macRawRx_en
        let s := s.softW k v
        let i := Reg.macRawIdx n
        if was ∨ ¬ s.on k F.macRawRx_en then s
        else if tx then (s.wf i F.macRawIdx_tx_done 0).wf i F.macRawIdx_tx_tail 0
        else (s.wf i F.macRawIdx_rx_prod 0).wf i F.macRawIdx_rx_head 0

/-- Whether a raw slot waits on port n. -/
def State.rawWaits (s : State) (n : Nat) : Bool :=
  s.on (Reg.macRawTx n) F.macRawRx_en && decide (s.rf (Reg.macRawIdx n) F.macRawIdx_tx_done ≠ s.rf (Reg.macRawIdx n) F.macRawIdx_tx_tail)

/-- The address of the raw transmit slot next in order. -/
def State.rawSlot (s : State) (n : Nat) : Nat :=
  s.rf (Reg.macRawTx n) F.macRawRx_base * 4096 + s.rf (Reg.macRawIdx n) F.macRawIdx_tx_done % s.rawSize (Reg.macRawTx n) * 2048

/-- A slot completed with a result (R214). -/
def State.rawDone (s : State) (n result : Nat) (time : Bool) : State :=
  let a := s.rawSlot n
  let w0 := s.ldN a 8
  let w0 := (setFld (setFld (BitVec.ofNat 64 w0) 58 56 result) 47 32 (if time then s.frac / 2 ^ 16 else nbits w0 47 32)).toNat
  let s := s.devStore a (leBytes 8 w0 ++ (if time then leBytes 8 s.time else []))
  (s.wf (Reg.macRawIdx n) F.macRawIdx_tx_done (s.rf (Reg.macRawIdx n) F.macRawIdx_tx_done + 1)).edge (0x40 + n)

/-- Bytes put into a frame at byte a. -/
def splice (f : List Byte) (a : Nat) (b : List Byte) : List Byte := f.take a ++ b ++ f.drop (a + b.length)

/-- A one-step frame with its time (R219): originTimestamp, correctionField, and a nonzero UDP checksum updated. -/
def oneStep (f : List Byte) (off time frac : Nat) : List Byte :=
  let g := splice f (off + 34) (beBytes 6 (time / 1000000000) ++ beBytes 4 (time % 1000000000))
  let g := splice g (off + 8) (beBytes 8 (fbe f (off + 8) 8 + frac))
  match ipUdp f with
  | some h =>
    let old := fbe f (h.udp + 6) 2
    if old = 0 then g
    else
      let n := fbe f (h.udp + 4) 2
      let sum (x : List Byte) : Nat := onesSum (words16 (n / 2 + 1) ((x.drop h.udp).take n))
      let c := 65535 - onesSum ((65535 - old) + (65535 - sum f) + sum g)
      splice g (h.udp + 6) (beBytes 2 (if c = 0 then 65535 else c))
  | none => g

/-- The frame and the bitwise complement of its FCS: how a frame cut off ends (R217). -/
def badEnd (b : List Byte) : List Byte := b ++ (leBytes 4 (crc32 (nats b))).map (fun x => ~~~ x)

/-- `TX_THRESH` raised after an underrun (R217). -/
def State.underrun (s : State) (n : Nat) : State :=
  let t := min 63 (max 1 (s.rf (Reg.macQuad n) F.macQuad_tx_thresh) + 2)
  ((s.macStat n 17 1).wf (Reg.macQuad n) F.macQuad_tx_thresh t).raiseMs .warning 8 2 n (inst := n) (arg0 := t)

/-- RAW_TX_SLOT (R214, R215, R217, R219, R237, R241): the next posted slot of port n; cut gives the bytes sent when the frame
ends in an underrun. -/
def execRawTxSlot (n : Nat) (cut : Option Nat) (s : State) : Res :=
  .next <|
    if 12 ≤ n ∨ ¬ s.rawWaits n then s
    else if ¬ s.ethUp n then s.rawDone n 3 false
    else
      let a := s.rawSlot n
      let w0 := s.ldN a 8
      let len := nbits w0 13 0
      let one := nbit w0 17
      let off := nbits w0 27 18
      if 2032 < len ∨ (one ∧ len < off + 44) then s.rawDone n 2 false
      else
        let p := s.macPort n
        let tc := nbits w0 30 28
        let bytes := max 60 len + 4
        if p.lastRaw ∧ p.umtQ ≠ [] then s
        else match s.gate n tc ((bytes + 20) * s.psPerByte n) with
          | none => s
          | some long =>
            match s.token (Reg.timShpPort n tc) with
            | none => s
            | some s =>
              let s := if long then s.overlong n tc else s
              let stamp := nbit w0 16 || one
              let f := s.bytes (a + 16) len
              let f := if one then oneStep f off s.time (s.frac / 2 ^ 16) else f
              let f := f ++ List.replicate (60 - f.length) 0
              let s := { s with mac.ports := mput s.mac.ports n { p with lastRaw := true, cur := none } }
              let s := s.macStat n 18 1
              let s := if stamp then s.macStat n 19 1 else s
              match cut with
              | some k => (((s.emit .frame [n, 3] (badEnd (f.take k))).underrun n).rawDone n 1 stamp)
              | none =>
                let s := (s.macStat n 15 1).macStat n 16 bytes
                (s.emit .frame [n, 1] (f ++ leBytes 4 (crc32 (nats f)))).rawDone n 0 stamp

/-- The bytes of a UMT frame, FCS included (R144, R150, R152): the IPv4 identification, which the spec leaves open, is id. -/
def umtBytes (p : Packet) (x : List Nat) (txTime tsync id : Nat) : List Byte :=
  let g (i : Nat) : Nat := x.getD i 0
  let v4 := decide (g 2 = 4)
  let shim := beBytes 8 (2 ^ 60 + tsync * 2 ^ 48 + g 8 * 2 ^ 40 + txTime % 2 ^ 32) ++ beBytes 8 (g 9 % 2 ^ 32 * 2 ^ 32 + g 10 % 2 ^ 32)
  let body := shim ++ pktBytes p
  let len := 8 + body.length
  let udp (c : Nat) : List Byte := beBytes 2 (g 5) ++ beBytes 2 (g 6) ++ beBytes 2 len ++ beBytes 2 c ++ body
  let tos := g 7 * 4 + 2
  let ip4 (c : Nat) : List Byte :=
    beBytes 2 (0x4500 + tos) ++ beBytes 2 (20 + len) ++ beBytes 2 id ++ beBytes 2 0x4000 ++ beBytes 2 0x4011 ++ beBytes 2 c ++
      beBytes 4 (g 3) ++ beBytes 4 (g 4)
  let ip6 : List Byte :=
    beBytes 4 (6 * 2 ^ 28 + tos * 2 ^ 20 + (g 5 - 0xC000)) ++ beBytes 2 len ++ beBytes 2 (17 * 256 + 64) ++ beBytes 16 (g 3) ++ beBytes 16 (g 4)
  let c6 := 65535 - onesSum (words16 16 (beBytes 16 (g 3) ++ beBytes 16 (g 4)) + 17 + len + words16 (len / 2 + 1) (udp 0))
  let f := beBytes 6 (g 0) ++ beBytes 6 (g 1) ++
    (if v4 then beBytes 2 0x0800 ++ ip4 (65535 - onesSum (words16 10 (ip4 0))) ++ udp 0
     else beBytes 2 0x86DD ++ ip6 ++ udp (if c6 = 0 then 65535 else c6))
  f ++ leBytes 4 (crc32 (nats f))

/-- TX_FRAME_START (R215, R216): the MAC of port n starts its oldest UMT frame once enough of it is buffered, unless a raw
frame goes first. -/
def execTxFrameStart (n buffered : Nat) (s : State) : Res :=
  .next <|
    let p := s.macPort n
    match p.umtQ with
    | [] => s
    | (k, x) :: l =>
      if 12 ≤ n ∨ ¬ s.ethUp n then s
      else
        let id := s.freeVal.toNat % 65536
        let b := umtBytes k x s.time (b2n s.tlock) id
        if s.maxFrame n < b.length then ({ s.draw with mac.ports := mput s.mac.ports n { p with umtQ := l } }).macStat n 20 1
        else
          let w0 := s.ldN (s.rawSlot n) 8
          let rawGo := s.rawWaits n && !p.lastRaw && (s.gate n (nbits w0 30 28) ((max 60 (nbits w0 13 0) + 24) * s.psPerByte n)).isSome
          if rawGo ∨ buffered < min b.length (max 1 (s.rf (Reg.macQuad n) F.macQuad_tx_thresh) * 256) then s
          else
            let s := { s.draw with mac.ports := mput s.mac.ports n { p with umtQ := l, lastRaw := false, cur := some b } }
            ((s.macStat n 15 1).macStat n 16 b.length).emit .umt [n] b

/-- TX_UNDERRUN (R217): the frame that port n is sending ends after sent bytes; it does not count as sent. -/
def execTxUnderrun (n sent : Nat) (s : State) : Res :=
  .next <|
    match (s.macPort n).cur with
    | none => s
    | some b =>
      let s := { s with mac.ports := mput s.mac.ports n { s.macPort n with cur := none } }
      let back (t : State) (i k : Nat) : State := t.wf (Reg.macStat n i) F.macStat_count (t.rf (Reg.macStat n i) F.macStat_count - k)
      ((back (back s 15 1) 16 b.length).emit .frame [n, 3] (badEnd (b.take sent))).underrun n

/-! ### Pulse per second -/

/-- PPS_IN_EDGE (R220, R225): the timebase is latched; edges within 100 µs latch only the first. A root steered by PPS takes a
sample of the edge's distance from the nearest whole second. -/
def execPpsInEdge (s : State) : Res :=
  .next <|
    let due : Bool := match s.mac.ppsAt with | some t => decide (t + 100000 ≤ s.clk) | none => true
    if ¬ due then s
    else
      let s := { s with mac.ppsAt := some s.clk }
      let s := (s.wr Reg.macPpsIn (BitVec.ofNat 64 s.time)).wf Reg.macPps F.macPps_in_count (s.rf Reg.macPps F.macPps_in_count + 1)
      if s.timeRole = (1, 1) then
        let sec : Nat := 1000000000 * 65536
        let r : Nat := s.now80 % sec
        s.pushSample (if 2 * r < sec then (r : Int) else (r : Int) - (sec : Int)) 16 true
      else s

/-- PPS_OUT_PULSE (R220): at a whole second PPS_OUT rises for `WIDTH` µs. -/
def execPpsOutPulse (s : State) : Res :=
  .next <|
    let sec := s.time / 1000000000
    if s.mac.ppsSec = sec ∨ ¬ s.on Reg.macPps F.macPps_out_en then s
    else ({ s with mac.ppsSec := sec }).emit .pin [0, 1, max 1 (s.rf Reg.macPps F.macPps_width)]

end Sys2Proof.Machine
end

