-- ==== Sys2Proof/Machine/Proofs.lean ====
section
/-! DEFINITION. Proof jobs and lost modules (18_proofs.md): the rows CREATE_JOB to RECOVERED_RECEIVED but
TAKEOVER_RECEIVED. -/

namespace Sys2Proof.Machine

/-! ### Commands of the PRF block (Tables 18-6, 18-8) -/

/-- A command of `PRF_CMDf`: it is written with `GO` = 1 through function f's page, unless one is under way (R451). -/
def State.prfCmd (s : State) (f c obj : Nat) (act : State → State) : State :=
  s.cmd f (Reg.prfCmd f) fun s =>
    if s.on (Reg.prfCmd f) F.prfCmd_go then s
    else act (((s.wf (Reg.prfCmd f) F.prfCmd_cmd c).wf (Reg.prfCmd f) F.prfCmd_obj obj).wf (Reg.prfCmd f) F.prfCmd_go 1)

/-- An argument register. -/
def State.prfArg (s : State) (f i : Nat) : Nat := (s.rd (Reg.prfArg f i)).toNat

/-- The job of a command, in one of the states that allow it; else the command ends (R450, R451). -/
def State.onJob (s : State) (f : Nat) (sts : List Nat) (act : State → Job → State) : State :=
  match s.job f with
  | none => s.prfEnd f 0x70
  | some j => if sts.contains (s.jobSt f) then act s j else s.prfEnd f (if s.jobSt f = 5 then 0x73 else 0x70)

/-- A member entry (Table 18-1). -/
def memberOf (l : List Byte) : Member :=
  let w := leNat (l.take 8)
  ⟨nbits w 15 0, nbits w 31 16, nbits w 43 32, nbits w 47 44, nbit w 48, nbit w 49⟩

/-- A group entry (Table 18-2). -/
def groupOf (l : List Byte) : ParityGroup :=
  ⟨(List.range 8).map fun i => leNat ((l.drop (4 * i)).take 2), (List.range 8).map fun i => leNat ((l.drop (4 * i + 2)).take 2),
    leNat ((l.drop 32).take 4)⟩

/-- Bytes of function f's space 0, as the proof manager reads them. -/
def State.prfRead (s : State) (f a n : Nat) (host : List Byte) : State × Option (List Byte) :=
  match s.xlRange f 0 .read false 5 0 (xlFuel n) a n with
  | (t, .ok l) => (t.fetchReqs f l, some (t.fetch l host))
  | (t, _) => (t, none)

/-- The job table at an address: members and groups (R419). -/
def State.readTable (s : State) (f a ms gs : Nat) (host : List Byte) : State × Option (List Member × List ParityGroup) :=
  let o := cdiv (16 * ms) 64 * 64
  match s.prfRead f a (o + 64 * gs) host with
  | (t, some bs) =>
    (t, some ((List.range ms).map (fun i => memberOf ((bs.drop (16 * i)).take 16)),
              (List.range gs).map fun i => groupOf ((bs.drop (o + 64 * i)).take 64)))
  | (t, none) => (t, none)

/-- Members without repeats. -/
def modules (l : List Nat) : NSet := l.foldl sins []

/-- Whether a job table breaks a rule of R419 or R420. -/
def tableBad (j : Job) : Bool :=
  let ms := j.members.zipIdx
  let mem (i : Nat) : Member := j.members.getD i ⟨0, 0, 0, 0, false, true⟩
  ms.any (fun e => (e.1.spare && e.1.data) || (e.1.data && decide (j.groups.length ≤ e.1.group))) ||
    (j.groups.zipIdx.any fun g =>
      let data := ms.filterMap fun e => if e.1.data ∧ e.1.group = g.2 then some e.2 else none
      decide (data.length < 2 ∨ 16 < data.length) ||
        decide ((modules (data.map fun i => (mem i).pos)).length < data.length) ||
        (List.range 8).any fun st =>
          let hs := [g.1.p.getD st 0, g.1.q.getD st 0]
          let all := modules (data ++ hs)
          hs.any (fun h => decide (j.members.length ≤ h) || (mem h).spare || data.contains h) ||
            decide ((modules (all.map fun i => (mem i).domain)).length < all.length)) ||
    (ms.any fun e => decide (64 < (j.senders e.2).length))

/-- 64 KiB pages of parity stripes that member i holds (R425). -/
def Job.parityHeld (j : Job) (i : Nat) : Nat :=
  j.groups.foldl (fun a g => a + (g.p.filter fun h => h = i).length * cdiv g.maxPages 8 + (g.q.filter fun h => h = i).length * cdiv g.maxPages 8) 0

/-- CREATE_JOB (R418-R420, R425): the job table is read and checked, the staging region allocated, its key returned. -/
def execCreateJob (f : Nat) (host : List Byte) (s : State) : Res :=
  .next <|
    s.prfCmd f 1 (s.rf (Reg.prfCmd f) F.prfCmd_obj) fun s =>
      let a0 := s.prfArg f 0
      let a1 := s.prfArg f 1
      let a2 := s.prfArg f 2
      let a3 := s.prfArg f 3
      let a4 := s.prfArg f 4
      let ms := nbits a0 63 48 + 1
      if (s.job f).isSome then s.prfEnd f 0x70
      else if 16 ≤ s.prf.jobs.length then s.prfEnd f 0x72
      else match s.readTable f (a1 / 4096 * 4096) ms (nbits a1 11 0 + 1) host with
        | (t, none) => t.prfEnd f 0x71
        | (t, some (mem, grp)) =>
          let j : Job :=
            { id := nbits a0 31 0, self := nbits a0 47 32, rebuild := nbit a4 0, members := mem, groups := grp,
              table := a1 / 4096 * 4096, undo := a2 / 65536 * 65536, undoPages := nbits a3 31 0, parity := a4 / 65536 * 65536,
              parityPages := nbits a3 63 32, flashEvery := nbits a2 15 0, region := 0, pickable := ms }
          let own := if j.me.data then (grp.getD j.me.group ⟨[], [], 0⟩).maxPages else 0
          if ms < 2 ∨ ms ≤ j.self ∨ j.me.spare ∨ j.me.node ≠ t.node ∨ tableBad j ∨ j.undoPages < 2 * own ∨
              j.parityPages < 1024 + 3 * j.parityHeld j.self then t.prfEnd f 0x71
          else if t.quota f F.vfmFnQuota_reg 4096 (2 ^ 24) ≤ t.regionUse f then t.prfEnd f 0x72
          else match t.freeIndex with
            | none => t.prfEnd f 0x72
            | some i =>
              let gen := (((mget t.qpe.regions i).map (·.gen)).getD 0 + 1) % 256
              let r : Region := { owner := some f, lastOwner := f, gen := gen, base := j.parity, len := 1024 * pageSize, space := 0,
                                  remoteW := true, use := .job f }
              let t : State := { t with qpe.regions := mput t.qpe.regions i r, qpe.nextIdx := max t.qpe.nextIdx (i + 1),
                                        qpe.freed := t.qpe.freed.filter (· ≠ i),
                                        prf.jobs := mput t.prf.jobs f { j with region := i } }
              let t := (t.wr (Reg.prfArg f 5) (BitVec.ofNat 64 (i * 256 + gen))).wr (Reg.prfCommitted f) 0
              let usable := match t.proofVol f with
                | some (_, x) => (x.proofs.filter (·.usable)).foldl (fun a p => max a p.n) 0
                | none => 0
              let t := t.wr (Reg.prfFlash f) (BitVec.ofNat 64 usable)
              ((t.wr (Reg.prfJob f) (BitVec.ofNat 64 (j.coord.getD 0 * 2 ^ 32))).setJobSt f 1).prfEnd f 0

/-- The first page after the regions of an image. -/
def Job.imageEnd (j : Job) : Nat := j.regions.foldl (fun a e => max a (e.2.page + e.2.len / pageSize)) 0

/-- ADD_REGION (R422): its pages are appended to the image; a range of space 0 must be mapped, one of space 2 covered by the
local region that `LKEY` names. -/
def execAddRegion (f : Nat) (s : State) : Res :=
  .next <|
    s.prfCmd f 2 (s.rf (Reg.prfCmd f) F.prfCmd_obj) fun s => s.onJob f [1, 2] fun s j =>
      let base := s.prfArg f 0
      let len := nbits (s.prfArg f 1) 47 0
      let sp := nbits (s.prfArg f 1) 49 48
      let lkey := nbits (s.prfArg f 2) 31 0
      let page := j.imageEnd
      let max_ := if j.me.data then (j.groups.getD j.me.group ⟨[], [], 0⟩).maxPages else 0
      if base % pageSize ≠ 0 ∨ len % pageSize ≠ 0 ∨ len = 0 ∨ (sp ≠ 0 ∧ sp ≠ 2) ∨ max_ < page + len / pageSize then s.prfEnd f 0x71
      else match firstFrom (fun n => (mget j.regions n).isNone) 0 64 with
        | none => s.prfEnd f 0x71
        | some n =>
          let add (t : State) (hbm : List Nat) : State :=
            let t := t.updJob f fun j => { j with regions := mput j.regions n ⟨base, len, sp, lkey, page, hbm, true⟩ }
            ((t.wr (Reg.prfArg f 3) (BitVec.ofNat 64 (page * pageSize))).wf (Reg.prfCmd f) F.prfCmd_obj n).prfEnd f 0
          if sp = 2 then (if s.localKeyBad f lkey 2 base len false then s.prfEnd f 0x71 else add s [])
          else match s.xlRange f 0 .write false 5 0 (xlFuel len) base len with
            | (t, .ok l) => add t (l.map fun x => match x.1 with | .dpa a => a / pageSize | .bus _ _ a => a / pageSize)
            | (t, _) => t.prfEnd f 0x71

/-- REMOVE_REGION (R422): its pages count as changed to zero at the next cut. -/
def execRemoveRegion (f obj : Nat) (s : State) : Res :=
  .next <|
    s.prfCmd f 3 obj fun s => s.onJob f [1, 2, 5] fun s j =>
      match mget j.regions (obj % 64) with
      | none => s.prfEnd f 0x71
      | some r =>
        let old := (List.range (r.len / pageSize)).map fun i =>
          (r.page + i, if r.space = 2 then (mget j.peerOld (r.page + i)).getD [] else s.pageOld j (j.cut + 1) (r.page + i))
        (s.updJob f fun j => { j with
          regions := mdel j.regions (obj % 64)
          gone := if r.fresh then j.gone else old.foldl (fun m e => mput m e.1 e.2) j.gone
          peerOld := mclear j.peerOld r.page (r.page + r.len / pageSize) }).prfEnd f 0

/-- BIND_QP (R425): an Active Amholt QP of the function becomes the job's to a peer. -/
def execBindQp (f : Nat) (s : State) : Res :=
  .next <|
    s.prfCmd f 4 (s.rf (Reg.prfCmd f) F.prfCmd_obj) fun s => s.onJob f [1, 2, 4] fun s j =>
      let q := nbits (s.prfArg f 0) 17 0
      let i := nbits (s.prfArg f 0) 33 18
      let fit : Bool := match mget s.qpe.qps q with
        | some x => decide (x.owner = f) && decide (x.st = .active) && decide (x.transport = 0)
        | none => false
      if ¬ fit ∨ j.members.length ≤ i ∨ i = j.self ∨ (s.engineQp q ∧ ¬ j.qps.any fun e => decide (e.2.1 = q)) then s.prfEnd f 0x71
      else (s.updJob f fun j => { j with qps := mput j.qps i (q, nbits (s.prfArg f 1) 31 0) }).prfEnd f 0

/-- BIND_COMMIT_WQ (R431): a Disabled WQ of the function; its `COMPLETED` counts commits from now on. -/
def execBindCommitWq (f : Nat) (s : State) : Res :=
  .next <|
    s.prfCmd f 5 (s.rf (Reg.prfCmd f) F.prfCmd_obj) fun s => s.onJob f [1, 2, 4] fun s _ =>
      let w := nbits (s.prfArg f 0) 15 0
      match mget s.wqe.wqs w with
      | some q =>
        if q.owner = f ∧ q.st = .disabled then
          ((s.setWq w { q with completed := 0, firstFail := none }).updJob f fun j => { j with commitWq := some w }).prfEnd f 0
        else s.prfEnd f 0x71
      | none => s.prfEnd f 0x71

/-- STEP (R427, R430): the next proof's cut is taken, or waits for the commit or for the flash proof being written. -/
def execStep (f : Nat) (s : State) : Res :=
  .next <|
    s.prfCmd f 6 (s.rf (Reg.prfCmd f) F.prfCmd_obj) fun s => s.onJob f [1, 2, 3] fun s j =>
      let n := s.prfArg f 0
      if j.rebuild then s.prfEnd f 0x70
      else if n ≠ j.cut + 1 then s.prfEnd f 0x71
      else if j.stepping ∨ s.on (Reg.prfJob f) F.prfJob_flash_busy then s.updJob f fun j => { j with waiting := some n }
      else s.takeCut f n

/-- RESUME (R431, R447): a job whose recovery has ended runs again. -/
def execResume (f : Nat) (s : State) : Res :=
  .next <|
    s.prfCmd f 7 (s.rf (Reg.prfCmd f) F.prfCmd_obj) fun s => s.onJob f [4] fun s j =>
      if ¬ j.recovered then s.prfEnd f 0x70
      else
        let s := match j.commitWq with
          | some w => { s with wqe.wqs := mupd s.wqe.wqs w fun q => { q with firstFail := none } }
          | none => s
        ((s.updJob f fun j => { j with recovered := false, restoring := false }).setJobSt f 2).prfEnd f 0

/-- The two latest usable flash proofs of a function. -/
def State.flashHeld (s : State) (f : Nat) : List FlashProof :=
  match s.proofVol f with
  | some (_, x) => x.proofs.filter (·.usable)
  | none => []

/-- RESTORE_FLASH (R434, R450): loading of a flash proof starts; a member created with `REBUILD` waits for its rebuild. -/
def execRestoreFlash (f : Nat) (s : State) : Res :=
  .next <|
    s.prfCmd f 8 (s.rf (Reg.prfCmd f) F.prfCmd_obj) fun s => s.onJob f [1, 5] fun s j =>
      let n := s.prfArg f 0
      if j.rebuild then s.updJob f fun j => { j with loading := some n }
      else match (s.flashHeld f).find? fun p => decide (p.n = n) with
        | none => s.prfEnd f 0x74
        | some p =>
          if s.psState = 3 then s.prfEnd f 0x74
          else if s.jobSt f = 1 ∧ p.regions ≠ j.regions.map (fun e => (e.2.base, e.2.len, e.2.space)) then s.prfEnd f 0x70
          else s.updJob f fun j => { j with loading := some n }

/-- A page written by the proof manager: its log bits are set, and no undo copy is taken. -/
def State.putPage (s : State) (g : Nat) (p : Page) : State := s.storeOver (g * pageSize) (pageBytes p)

/-- Pages of the image written back: HBM pages where a region holds them; the pages of peer regions as memory writes. -/
def State.putImage (s : State) (f : Nat) (l : List (Nat × Page)) : State :=
  l.foldl (fun t e =>
    match (t.job f).bind fun j => j.regions.find? fun r => decide (r.2.page ≤ e.1) && decide (e.1 < r.2.page + r.2.len / pageSize) with
    | none => t
    | some (_, r) =>
      if r.space = 2 then
        let a := r.base + (e.1 - r.page) * pageSize
        let t := t.updJob f fun j => { j with peerOld := mput j.peerOld e.1 e.2, peerNew := mput j.peerNew e.1 e.2 }
        match t.xlRange f 2 .write false 5 0 (xlFuel pageSize) a pageSize with
        | (u, .ok x) => u.put f true x (pageBytes e.2)
        | (u, _) => u
      else (t.putPage (r.hbm.getD (e.1 - r.page) 0) e.2).meter f 5 pageSize) s

/-- A restore from flash ends: `PRF_COMMITTED` becomes the proof's number, and the job waits for RESUME (R434). -/
def State.flashLoaded (s : State) (f n : Nat) : State :=
  let s := s.updJob f fun j => { j with
    loading := none, cut := n, gens := [], parityGens := [], recovered := true, rebuild := false, lostSet := [], noSpare := []
    gone := [], stepping := false, regions := j.regions.map fun e => (e.1, { e.2 with fresh := false }) }
  ((s.wr (Reg.prfCommitted f) (BitVec.ofNat 64 n)).setJobSt f 4).prfEnd f 0

/-- FLASH_RESTORE_DONE (R434): the flash proof has been read into regions and parity stripes, or cannot be read. -/
def execFlashRestoreDone (f : Nat) (ok : Bool) (s : State) : Res :=
  .next <|
    match s.job f with
    | none => s
    | some j =>
      match j.loading with
      | none => s
      | some n =>
        if j.rebuild then s
        else match (s.flashHeld f).find? fun p => decide (p.n = n), s.proofVol f with
          | some p, some (v, _) =>
            if ok ∧ s.psState < 3 then
              let s := (s.putImage f p.image).meter f 9 p.size
              (s.updJob f fun j => { j with parityMem := p.parity }).flashLoaded f n
            else
              ((s.updJob f fun j => { j with loading := none }).raise .fault 15 10 (fn := f) (inst := v)).prfEnd f 0x74
          | _, _ => (s.updJob f fun j => { j with loading := none }).prfEnd f 0x74

/-- A member leaves its job (R437): LEAVE goes to the coordinator, or, from it, to the next; the job is gone, and the
staging region's revoke starts. -/
def State.leaveJob (s : State) (f : Nat) : State :=
  match s.job f with
  | none => s
  | some j =>
    let s := match ({ j with lostSet := sins j.lostSet j.self } : Job).coord, j.leads with
      | some c, true => s.say j c 11 [j.self]
      | _, _ => match j.coord with | some c => s.say j c 11 [j.self] | none => s
    let s := { s with prf.jobs := mdel s.prf.jobs f
                      col.notices := s.col.notices.filter fun n => !j.qps.any fun q => decide (q.2.1 = n.1) }
    let s := s.wr (Reg.prfJob f) 0
    match mget s.qpe.regions j.region with
    | some r => s.revokeStart j.region r true
    | none => s.jobFreed f

/-- DESTROY_JOB (R437, R438, R451): it completes when the staging region's revoke ends. -/
def execDestroyJob (f : Nat) (s : State) : Res :=
  .next <|
    s.prfCmd f 9 (s.rf (Reg.prfCmd f) F.prfCmd_obj) fun s => s.onJob f [1, 2, 3, 4, 5, 6] fun s _ => s.leaveJob f

/-- The coordinator takes a report of ADD_SPARES: once every survivor has sent one, the new entries may be picked (R445). -/
def State.spareReport (s : State) (f i : Nat) : State :=
  let s := s.updJob f fun j => { j with spareReports := sins j.spareReports i }
  match s.job f with
  | none => s
  | some j =>
    if j.ranks.all fun x => j.lostSet.contains x || j.spareReports.contains x then
      let s := s.updJob f fun j => { j with pickable := j.members.length, spareReports := [], noSpare := [] }
      if s.jobSt f = 4 then s.pickSpares f else s
    else s

/-- An ADD_SPARES ends: the new table is in force. -/
def State.sparesIn (s : State) (f : Nat) : State :=
  match s.job f with
  | some j =>
    (match j.newMembers with
      | some l => (s.updJob f fun j => { j with members := l, newMembers := none }).endPending f 10 0
      | none => s)
  | none => s

/-- ADD_SPARES (R445): the new table must extend the old one by spares only; it takes force once the coordinator has
acknowledged the report. -/
def execAddSpares (f : Nat) (host : List Byte) (s : State) : Res :=
  .next <|
    s.prfCmd f 10 (s.rf (Reg.prfCmd f) F.prfCmd_obj) fun s => s.onJob f [2, 4] fun s j =>
      let ms := nbits (s.prfArg f 0) 63 48 + 1
      let gs := nbits (s.prfArg f 1) 11 0 + 1
      match s.readTable f (s.prfArg f 1 / 4096 * 4096) ms gs host with
      | (t, none) => t.prfEnd f 0x71
      | (t, some (mem, grp)) =>
        let n := j.members.length
        if ms < n ∨ mem.take n ≠ j.members ∨ (mem.drop n).any (fun m => !m.spare) ∨ grp ≠ j.groups then t.prfEnd f 0x71
        else
          let t := t.updJob f fun j => { j with newMembers := some mem, table := s.prfArg f 1 / 4096 * 4096 }
          if j.leads then (t.sparesIn f).spareReport f j.self
          else match j.coord with
            | some c => t.say j c 12 [ms, j.self]
            | none => t

/-- ADD_SPARES_REPORT_RECEIVED (R445): a member's report reaches the coordinator, which acknowledges it; or, with `ack`, the
acknowledgement reaches the member. -/
def execAddSparesReportReceived (id m n : Nat) (ack : Bool) (s : State) : Res :=
  .next <|
    match s.jobOf id with
    | none => s
    | some (f, j) =>
      if ack then (if (j.newMembers.map List.length) = some n then s.sparesIn f else s)
      else if j.leads then (s.say j m 13 [n]).spareReport f m
      else s

/-! ### Cuts, deltas and commits -/

/-- UNDO_COPY_DONE (R423): the current contents of HBM page g are kept in the interval's undo generation; a write held for it
passes from now on. -/
def execUndoCopyDone (g : Nat) (s : State) : Res := .next (s.undoPage g)

/-- PEER_COPY_DONE (R424): the copy of a peer region has been read; its changed pages give deltas. A copy that fails means the
member cannot prepare (R429). -/
def execPeerCopyDone (f r : Nat) (ok : Bool) (data : List Byte) (s : State) : Res :=
  .next <|
    match s.job f with
    | none => s
    | some j =>
      match mget j.regions r with
      | none => s
      | some x =>
        if ¬ j.peersLeft.contains r then s
        else if ¬ ok then s.sendFail f
        else
          let pages := (List.range (x.len / pageSize)).map fun i => (x.page + i, pageOf ((data.drop (i * pageSize)).take pageSize))
          let old (k : Nat) : Page := ((mget j.gone k).orElse fun _ => if x.fresh then some [] else mget j.peerOld k).getD []
          let ds := pages.filterMap fun e => let d := pxor e.2 (old e.1); if d = [] then none else some (e.1, d)
          let s := s.updJob f fun j => ({ j with
            peersLeft := sdel j.peersLeft r, peerNew := pages.foldl (fun m e => mput m e.1 e.2) j.peerNew } : Job).owe ds
          ((s.meter f 3 x.len).meter f 5 x.len).jobPump f

/-- A delta folded into the parity pages this member holds for the sender's group (R421, R425). -/
def Job.fold (j : Job) (p k n : Nat) (d : Page) : Job :=
  let m := j.members.getD p ⟨0, 0, 0, 0, false, false⟩
  let g := j.groups.getD m.group ⟨[], [], 0⟩
  let st := k % 8
  let one (j : Job) (q : Nat) (d : Page) : Job :=
    let key := parityKey m.group st q (k / 8)
    let old := (mget j.parityMem key).getD []
    { j with parityGens := keepOld j.parityGens n key old, parityMem := mput j.parityMem key (pxor old d) }
  let j := if g.p.getD st 0 = j.self then one j 0 d else j
  if g.q.getD st 0 = j.self then one j 1 (d.map fun e => (e.1, gfPow m.pos e.2)) else j

/-- DELTA_NOTICE_RECEIVED (R425, R426, R428): the oldest notice on bound QP q: a delta, which is folded and its slot returned;
the end of a sender's deltas; or the return of a slot. -/
def execDeltaNoticeReceived (q : Nat) (host : List Byte) (s : State) : Res :=
  .next <|
    match s.col.notices.find? (fun n => decide (n.1 = q)), s.prf.jobs.find? fun e => e.2.qps.any fun x => decide (x.2.1 = q) with
    | some (_, v, _), some (f, j) =>
      (match j.qps.find? fun x => decide (x.2.1 = q) with
      | none => s
      | some (p, _, key) =>
        let t : State := { s with col.notices := dropFirst (fun x => decide (x.1 = q)) s.col.notices }
        let kind := nbits v 31 28
        let k := nbits v 27 0
        if kind = 2 then t.updJob f fun j => { j with announced := mput j.announced p k }
        else if kind = 3 then
          (t.updJob f fun j => { j with slots := mupd j.slots p fun l => sdel l (k - 16 * j.slotRank p j.self) }).jobPump f
        else if kind = 1 then
          let slot := 16 * j.slotRank j.self p + (mget j.slotIn p).getD 0
          match t.prfRead f (j.parity + slot * pageSize) pageSize host with
          | (u, none) => u.sendFail f
          | (u, some bs) =>
            let u := u.updJob f fun j => ({ j with
              got := mmod j.got p 0 (· + 1), slotIn := mmod j.slotIn p 0 fun i => (i + 1) % 16 } : Job).fold p k (u.committed f + 1) (pageOf bs)
            (u.meter f 5 pageSize).engineSend q f key 0 (3 * 2 ^ 28 + slot) []
        else t)
    | _, _ => s

/-- MEMBER_PREPARED (R428): nothing of the step is left to send, copy or fold: STEP completes, and PREPARED goes up. -/
def execMemberPrepared (f : Nat) (s : State) : Res :=
  .next <|
    match s.job f with
    | none => s
    | some j =>
      if s.isPrepared j then ((s.updJob f fun j => { j with ready := true }).endPending f 6 0).prepUp f else s

/-- PREPARED_RECEIVED (R428, R429): child m's subtree is prepared for the proof after the committed one. -/
def execPreparedReceived (id n m : Nat) (s : State) : Res :=
  .next <|
    match s.jobOf id with
    | none => s
    | some (f, _) =>
      if n = s.committed f + 1 ∧ s.jobSt f < 4 then (s.updJob f fun j => { j with kids := sins j.kids m }).prepUp f else s

/-- COMMIT_RECEIVED (R429, R442): COMMIT(n) acts; or, with `from_`, n is the answer of that survivor to a new coordinator,
which, once it has them all, commits what any has committed and rolls back. -/
def execCommitReceived (id n : Nat) (from_ : Option Nat) (s : State) : Res :=
  .next <|
    match s.jobOf id with
    | none => s
    | some (f, j) =>
      match from_ with
      | none => if n = s.committed f + 1 ∧ j.stepping then s.commitJob f n else s
      | some m =>
        if ¬ j.asking then s
        else
          let s := s.updJob f fun j => { j with answers := mput j.answers m n }
          match s.job f with
          | none => s
          | some j =>
            if j.ranks.all fun x => decide (x = j.self) || j.lostSet.contains x || (mget j.answers x).isSome then
              let best := j.answers.foldl (fun a e => max a e.2) (s.committed f)
              let s := if s.committed f < best then s.commitJob f best else s
              (s.updJob f fun j => { j with asking := false, answers := [] }).rollAll f
            else s

/-- FAIL_RECEIVED (R429): the coordinator rolls the job back with no member lost. -/
def execFailReceived (id n : Nat) (s : State) : Res :=
  .next <|
    match s.jobOf id with
    | none => s
    | some (f, j) => if j.leads ∧ n = s.committed f + 1 ∧ s.jobSt f < 4 then s.rollAll f else s

/-! ### Flash proofs -/

/-- FLASH_PROOF_WRITTEN (R432, R433, R459): the flash proof stands in the volume; the member's FLASH_DONE joins the tree's, and
a STEP that waits is taken. -/
def execFlashProofWritten (f : Nat) (s : State) : Res :=
  .next <|
    match s.job f, s.proofVol f with
    | some j, some (v, x) =>
      (match j.snap with
      | none => s
      | some p =>
        if s.ps.failed ∨ 2 ≤ s.psState then
          ((((s.updJob f fun j => { j with snap := none }).wf (Reg.prfJob f) F.prfJob_flash_busy 0).raise .warning 15 11 (fn := f)
            (inst := v)).flashFails f p.n).stepWaiting f
        else
          let s : State := { s with ps.vols := mput s.ps.vols v { x with proofs := x.proofs ++ [p] }, ps.clean := false }
          let s := ((s.incF (Reg.prfPsStat 1) F.prfPsStat_count p.size).incF (Reg.prfPsStat 2) F.prfPsStat_count (p.segs * segNand)).meter f 8 p.size
          let s := (s.meter f 4 p.size).wf (Reg.prfJob f) F.prfJob_flash_busy 0
          ((s.updJob f fun j => { j with snap := none, flashSelf := true }).flashCheck f).stepWaiting f)
    | _, _ => s

/-- FLASH_DONE_RECEIVED (R433): child m's subtree has written flash proof n. -/
def execFlashDoneReceived (id n m : Nat) (s : State) : Res :=
  .next <|
    match s.jobOf id with
    | none => s
    | some (f, j) =>
      if n ≠ j.flashN then s else (s.updJob f fun j => { j with flashKids := sins j.flashKids m }).flashCheck f

/-- FLASH_FAILED_RECEIVED (R459): flash proof n never becomes usable; the failure goes on up the tree. -/
def execFlashFailedReceived (id n m : Nat) (s : State) : Res :=
  .next <|
    match s.jobOf id with
    | none => s
    | some (f, j) => if n ≠ j.flashN ∨ j.flashFailed ∨ ¬ j.kidList.contains m then s else s.flashFails f n

/-- FLASH_USABLE_RECEIVED (R433). -/
def execFlashUsableReceived (id n : Nat) (s : State) : Res :=
  .next <|
    match s.jobOf id with
    | none => s
    | some (f, _) => s.flashUsable f n

/-! ### Lost modules (R435-R438) -/

/-- HEARTBEAT_DUE (R435): a heartbeat to each torus neighbour. -/
def execHeartbeatDue (s : State) : Res :=
  .next <|
    if s.on Reg.prfCtrl F.prfCtrl_hb_en then (s.neighbours s.node).foldl (fun t x => t.emit .msg [7, x, 120, t.node]) s else s

/-- A SUSPECT about x, or its withdrawal, sent to x's other neighbours. -/
def State.saySuspect (s : State) (x : Nat) (withdrawn : Bool) : State :=
  ((s.neighbours x).filter fun y => decide (y ≠ s.node)).foldl (fun t y => t.emit .msg [7, y, 121, x, t.node, b2n withdrawn]) s

/-- HEARTBEAT_RECEIVED (R435, R436): a heartbeat from node x; this module's suspicion of it is withdrawn. -/
def execHeartbeatReceived (x : Nat) (s : State) : Res :=
  .next <|
    if ¬ s.on Reg.prfCtrl F.prfCtrl_hb_en ∨ ¬ (s.neighbours s.node).contains x then s
    else
      let k := x * 65536 + s.node
      let t : State := { s with prf.heard := mput s.prf.heard x s.clk, prf.suspects := sdel s.prf.suspects k }
      if s.prf.suspects.contains k then t.saySuspect x true else t

/-- Node x is declared lost by this module, if it suspects x and another does too, or x has no other neighbour (R436). -/
def State.declareLost (s : State) (x : Nat) : State :=
  let by_ := s.prf.suspects.filter fun k => decide (k / 65536 = x)
  if by_.contains (x * 65536 + s.node) ∧ (2 ≤ by_.length ∨ (s.neighbours x).length = 1) ∧ ¬ s.nodeLostAt x then
    let inc := ((s.fab.links.find? fun e => decide (e.2.peerNode = x)).map fun e => e.2.peerInc).getD 0
    (s.raise .alarm 15 2 (arg0 := x)).faultEntry { lost := true, node := x, stamp := s.time, inc := inc } 12
  else s

/-- HEARTBEAT_SILENCE (R436): nothing has been heard from neighbour x for `LOSS_MS`. -/
def execHeartbeatSilence (x : Nat) (s : State) : Res :=
  .next <|
    match mget s.prf.heard x with
    | none => s
    | some t =>
      if ¬ s.on Reg.prfCtrl F.prfCtrl_hb_en ∨ ¬ (s.neighbours s.node).contains x ∨ s.nodeLostAt x ∨
          s.prf.suspects.contains (x * 65536 + s.node) ∨ s.clk < t + max 10 (s.rf Reg.prfCtrl F.prfCtrl_loss_ms) * 1000000 then s
      else
        let s := (s.saySuspect x false).raise .warning 15 1 (arg0 := x)
        ({ s with prf.suspects := sins s.prf.suspects (x * 65536 + s.node) }).declareLost x

/-- SUSPECT_RECEIVED (R436, R438): node `by_` suspects node x, or no longer does; a module that is itself named is fenced. -/
def execSuspectReceived (x by_ : Nat) (withdrawn : Bool) (s : State) : Res :=
  .next <|
    let k := x * 65536 + by_
    if withdrawn then { s with prf.suspects := sdel s.prf.suspects k }
    else if x = s.node then s.fence
    else ({ s with prf.suspects := sins s.prf.suspects k }).declareLost x

/-- LEAVE_RECEIVED (R437): member m of the job has left. -/
def execLeaveReceived (id m : Nat) (s : State) : Res :=
  .next <|
    match s.jobOf id with
    | none => s
    | some (f, _) => s.memberLost f m

/-- LOST_RECEIVED (R438): node x has been declared lost; if it is this module, it is fenced. -/
def execLostReceived (x : Nat) (s : State) : Res := .next (if x = s.node then s.fence else s)

/-! ### Fault reports (R440, R441) -/

/-- What two reports of a link's ends blame (Table 18-3). -/
def blameOf (a b : FaultReport) : Option Blame :=
  match a.link, b.link with
  | some (ra, ga, aa, _, _), some (rb, gb, ab, _, _) =>
    if (ra = 2 ∧ rb = 2) ∨ (ra = 1 ∧ rb = 1) then some (.cable a.origin b.origin)
    else if ra = 3 ∨ rb = 2 then some (if aa = (gb + 1) % 4096 then .direction a.origin b.origin else .direction b.origin a.origin)
    else if rb = 3 ∨ ra = 2 then some (if ab = (ga + 1) % 4096 then .direction b.origin a.origin else .direction a.origin b.origin)
    else none
  | _, _ => none

/-- The other end of the link that a report names. -/
def FaultReport.otherEnd (r x : FaultReport) : Bool :=
  match r.link, x.link with
  | some (_, _, _, n, p), some (_, _, _, m, _) => decide (x.origin = n) && decide (m = r.origin) && decide (x.sig / 2 ^ 16 = r.sig / 2 ^ 16) && decide (p < 12)
  | _, _ => false

/-- The blame for the link of a report (R441). -/
def State.blame (s : State) (r : FaultReport) : State :=
  match r.link with
  | none => s
  | some (_, _, _, n, _) =>
    let b := match s.prf.downs.find? fun x => r.otherEnd x with
      | some x => blameOf r x
      | none => some (if s.nodeLostAt n then .module n else .pending n r.origin)
    let keep := s.prf.blames.filter fun x => decide (x ≠ .pending r.origin n)
    match b with
    | some b => { s with prf.blames := if keep.contains b then keep else keep ++ [b] }
    | none => { s with prf.blames := keep }

/-- FAULT_REPORT_RECEIVED (R440): a report reaches the sink and opens or joins the window of its signature. -/
def execFaultReportReceived (origin unit sig time count : Nat) (link : List Nat) (s : State) : Res :=
  .next <|
    if s.rf Reg.prfCtrl F.prfCtrl_sink_node ≠ s.node then s
    else
      let r : FaultReport := ⟨origin, unit, sig, time, count,
        match link with | [a, b, c, d, e] => some (a, b, c, d, e) | _ => none⟩
      let w : FaultWindow := (mget s.prf.windows sig).getD ⟨r, s.clk, 0, [], []⟩
      let w : FaultWindow := { w with count := w.count + 1 + count, origins := sins w.origins origin, reports := w.reports ++ [r] }
      { s with
        prf.windows := mput s.prf.windows sig w
        prf.downs := if r.link.isSome then (s.prf.downs.filter fun x => x.origin ≠ origin ∨ x.link.map (·.2.2.2) ≠ r.link.map (·.2.2.2)) ++ [r]
          else s.prf.downs }

/-- FAULT_REPORT_WINDOW_END (R440, R441): the window closes into one record, and the links reported are judged. -/
def execFaultReportWindowEnd (sig : Nat) (s : State) : Res :=
  .next <|
    match mget s.prf.windows sig with
    | none => s
    | some w =>
      if s.clk < w.opened + 1000000 then s
      else
        let s : State := { s with prf.windows := mdel s.prf.windows sig }
        let s := s.event { time := w.first.time, cls := .fault, code := 0xF03, block := 15, fn := 0x7FF, inst := 0, arg0 := sig,
                           arg1 := w.first.origin % 2 ^ 16 + min 65535 w.origins.length * 2 ^ 16 + w.first.unit % 2 ^ 8 * 2 ^ 32,
                           arg2 := 0, count := min (2 ^ 32 - 1) w.count }
        w.reports.foldl (fun t r => t.blame r) s

/-! ### Recovery (R442-R447) -/

/-- ROLLBACK_RECEIVED (R443, R450). -/
def execRollbackReceived (id c : Nat) (lost : List Nat) (unrec : Bool) (s : State) : Res :=
  .next <|
    match s.jobOf id with
    | none => s
    | some (f, _) => if s.jobSt f = 6 then s else s.rollback f c (lost.foldl sins []) unrec

/-- The values of the oldest generation that holds each page. -/
def oldest (gens : Map (Map Page)) : List (Nat × Page) :=
  gens.foldl (fun l g => l ++ g.2.filter fun e => !l.any fun x => decide (x.1 = e.1)) []

/-- Both buffers of log 1 of function f zeroed (Table 18-4, element 6). -/
def State.zeroLog1 (s : State) (f : Nat) : State :=
  let b := s.rf (Reg.vfmDlogBase f 1) F.vfmDlogBase_base * 4096
  let c := b + cdiv (s.dlogLen f) 4096 * 4096
  (s.zero b (b + s.dlogLen f)).zero c (c + s.dlogLen f)

/-- ROLLBACK_RESTORE_DONE (R443, Table 18-4 elements 5 and 6): pages, peer regions and parity are as at the committed proof;
the logs' buffers are zero and the generations empty; ROLLED goes up. -/
def execRollbackRestoreDone (f : Nat) (s : State) : Res :=
  .next <|
    match s.job f with
    | none => s
    | some j =>
      if ¬ j.restoring then s
      else
        let pages := oldest j.gens
        let s := (s.putImage f pages).meter f 4 (pages.length * pageSize)
        let s := s.putImage f j.peerOld
        let s := s.updJob f fun j => { j with
          parityMem := (oldest j.parityGens).foldl (fun m e => mput m e.1 e.2) j.parityMem
          gens := [], parityGens := [], peerNew := j.peerOld, cut := j.target, restoring := false, rolledSelf := true }
        (s.zeroLog1 f).rolledUp f

/-- ROLLED_RECEIVED (R443, R447): child m's subtree has rolled back, or, with `rebuilt`, member m's rebuild has ended. -/
def execRolledReceived (id m : Nat) (rebuilt : Bool) (s : State) : Res :=
  .next <|
    match s.jobOf id with
    | none => s
    | some (f, _) =>
      if s.jobSt f ≠ 4 ∧ s.jobSt f ≠ 5 then s
      else if rebuilt then (s.updJob f fun j => { j with rebuilt := sins j.rebuilt m }).rolledUp f
      else (s.updJob f fun j => { j with rolled := sins j.rolled m }).rolledUp f

/-- MOVE_RECEIVED (R202, R203, R444): node x now stands at a position; recorded, and sent on by every link but the one it came
over. -/
def execMoveReceived (x pos frm : Nat) (s : State) : Res :=
  .next <|
    if mget s.fab.moves x = some pos then s
    else
      let s : State := { s with fab.moves := mput s.fab.moves x pos, fab.routeDue := true }
      (List.range 12).foldl (fun t n =>
        if t.fabActive n ∧ n ≠ frm then t.emit .msg [7, (t.link n).peerNode, 117, x, pos] else t) s

/-- A source of page k of group g among the pulls: 0-15 a data member, 16 P, 17 Q. -/
def pull (l : List Pull) (g k src : Nat) : Option Page :=
  (l.find? fun p => decide (p.group = g) && decide (p.page = k) && decide (p.src = src)).map fun p => pageOf p.data

/-- A page of the data member at POS i of a group, from the pulls (R421, R446): the other data members present and one of P and
Q, or all but one of them and both. -/
def rebuildPage (l : List Pull) (poss : List Nat) (g k i : Nat) : Option Page :=
  let others := poss.filter fun p => decide (p ≠ i)
  let missing := others.filter fun p => (pull l g k p).isNone
  let sumP := others.foldl (fun a p => pxor a ((pull l g k p).getD [])) []
  let sumQ := others.foldl (fun a p => pxor a (((pull l g k p).getD []).map fun e => (e.1, gfPow p e.2))) []
  let gi := gfPow i (1 : Byte)
  match missing, pull l g k 16, pull l g k 17 with
  | [], some p, _ => some (pxor p sumP)
  | [], none, some q => some (pmul (gfInv gi) (pxor q sumQ))
  | [m], some p, some q =>
    let gm := gfPow m (1 : Byte)
    some (pmul (gfInv (gi ^^^ gm)) (pxor (pxor q sumQ) (pmul gm (pxor p sumP))))
  | _, _, _ => none

/-- A parity page of a group from its data members' pages, where the pulls give any. -/
def rebuildParity (l : List Pull) (poss : List Nat) (g k q : Nat) : Option Page :=
  if poss.any fun p => (pull l g k p).isSome then
    some (poss.foldl (fun a p =>
      let d := (pull l g k p).getD []
      pxor a (if q = 0 then d else d.map fun e => (e.1, gfPow p e.2))) [])
  else none

/-- REBUILD_DONE (R446): the spare has its image and its parity stripes of proof c, from what it pulled. -/
def execRebuildDone (f c : Nat) (pulls : List Pull) (s : State) : Res :=
  .next <|
    match s.job f with
    | none => s
    | some j =>
      if ¬ j.rebuild ∨ j.rolledSelf then s
      else
        let poss (g : Nat) : List Nat := j.members.filterMap fun m => if m.data ∧ m.group = g then some m.pos else none
        let ks := if j.me.data then List.range j.imageEnd else []
        let image := ks.filterMap fun k => (rebuildPage pulls (poss j.me.group) j.me.group k j.me.pos).map fun p => (k, p)
        if image.length < ks.length then s
        else
          let parity := j.groups.zipIdx.flatMap fun g => (List.range 8).flatMap fun st => [0, 1].flatMap fun q =>
            if (if q = 0 then g.1.p else g.1.q).getD st 0 = j.self then
              (List.range (cdiv g.1.maxPages 8)).filterMap fun t =>
                (rebuildParity pulls (poss g.2) g.2 (8 * t + st) q).map fun p => (parityKey g.2 st q t, p)
            else []
          let s := s.putImage f image
          let s := s.updJob f fun j => { j with
            parityMem := parity.foldl (fun m e => mput m e.1 e.2) [], gens := [], parityGens := [], cut := c, rolledSelf := true
            regions := j.regions.map fun e => (e.1, { e.2 with fresh := false }) }
          let s := s.raise .warning 15 8 (fn := f) (arg0 := j.self)
          match j.loading with
          | some n => s.flashLoaded f n
          | none =>
            match j.coord with
            | some x => s.say j x 16 [j.self]
            | none => s

/-- RECOVERED_RECEIVED (R447): the recovery to proof c has ended. -/
def execRecoveredReceived (id c : Nat) (s : State) : Res :=
  .next <|
    match s.jobOf id with
    | none => s
    | some (f, j) => if s.jobSt f = 4 ∨ j.rebuild then s.recover f c else s

end Sys2Proof.Machine
end

