-- ==== Sys2Proof/Machine/Tenancy.lean ====
section
/-! DEFINITION. Functions, tenancy and accounting (04_tenancy.md): grants, plate owners, dirty-page logs, meters,
function-level reset, scrubs. -/

namespace Sys2Proof.Machine

/-! ### Grants (R76-R78) -/

/-- A write refused under R77: `VFM_FN_CTRL0.ERR`, and the warning that carries the function and the register. -/
def State.refuse (s : State) (f k : Nat) : State :=
  (s.wf (Reg.vfmFnCtrl 0) F.vfmFnCtrl_err 1).raise .warning 3 1 (fn := 0) (arg0 := f % 2 ^ 11) (arg1 := regBase + k)

/-- The VFs whose register of an array with first key k0 and stride 64 is listed, with the word it holds. -/
def State.perVf (s : State) (k0 : Nat) : List (Nat × Word) :=
  (s.regs.filter fun e => decide (k0 + 64 ≤ e.1) && decide (e.1 ≤ k0 + 64 * 1024) && decide ((e.1 - k0) % 64 = 0)).map fun e =>
    ((e.1 - k0) / 64, e.2)

/-- Whether a partition for VF f may be granted: it ends within HBM, and overlaps no other VF's. -/
def State.partFits (s : State) (f : Nat) (v : Word) : Bool :=
  let b := fld v F.vfmFnPart_base.hi F.vfmFnPart_base.lo
  let n := fld v F.vfmFnPart_size.hi F.vfmFnPart_size.lo
  decide (b + n ≤ 3456) &&
    (s.perVf (Reg.vfmFnPart 0)).all fun e => decide (e.1 = f) || !overlap (partRange v).1 (partRange v).2 (partRange e.2).1 (partRange e.2).2

/-- The QP numbers that a value of `VFM_FN_QP` grants, in blocks of 64. -/
def qpRange (v : Word) : Nat × Nat :=
  (fld v F.vfmFnQp_qp_base.hi F.vfmFnQp_qp_base.lo,
   fld v F.vfmFnQp_qp_base.hi F.vfmFnQp_qp_base.lo + fld v F.vfmFnQp_qp_count.hi F.vfmFnQp_qp_count.lo)

/-- Whether a QP range for VF f may be granted. -/
def State.qpFits (s : State) (f : Nat) (v : Word) : Bool :=
  decide ((qpRange v).2 ≤ 4096) &&
    (s.perVf (Reg.vfmFnQp 0)).all fun e => decide (e.1 = f) || !overlap (qpRange v).1 (qpRange v).2 (qpRange e.2).1 (qpRange e.2).2

/-- Whether the VF quotas of a pool stay within it when VF f holds n. -/
def State.poolFits (s : State) (f : Nat) (fl : Fld) (n unit pool : Nat) : Bool :=
  decide ((((s.perVf (Reg.vfmFnQuota 0)).filter fun e => decide (e.1 ≠ f)).foldl (fun a e => a + fld e.2 fl.hi fl.lo) n) * unit ≤ pool)

/-- A value of `VFM_FN_QUOTA` with `MSIX` as treated (Table 4-10). -/
def quotaNorm (v : Word) : Word :=
  setFld v F.vfmFnQuota_msix.hi F.vfmFnQuota_msix.lo (max 1 (min 64 (fld v F.vfmFnQuota_msix.hi F.vfmFnQuota_msix.lo)))

/-- The quotas that a value of `VFM_FN_QUOTA` gives VF f fit their pools. -/
def State.quotaFits (s : State) (f : Nat) (v : Word) : Bool :=
  let g (fl : Fld) : Nat := fld v fl.hi fl.lo
  s.poolFits f F.vfmFnQuota_wq (g F.vfmFnQuota_wq) 16 65536 && s.poolFits f F.vfmFnQuota_reg (g F.vfmFnQuota_reg) 4096 (2 ^ 24) &&
    s.poolFits f F.vfmFnQuota_sa (g F.vfmFnQuota_sa) 16 65536 && s.poolFits f F.vfmFnQuota_grp (g F.vfmFnQuota_grp) 1 4096

/-- The PF's write of a grant register of function f (R77): register 1 the partition, 2 the QP range, 3 the quotas. -/
def State.grantWrite (s : State) (f r : Nat) (v : Word) : State :=
  let k := Reg.vfmFnCtrl f + 8 * r
  match r with
  | 1 =>
    let w := softWrite false (s.rd k) v [F.vfmFnPart_size, F.vfmFnPart_base]
    if f = 0 ∨ w = s.rd k then s else if s.fnEn f ∨ ¬ s.partFits f w then s.refuse f k else s.wr k w
  | 2 =>
    if f = 0 then s.wr k (softWrite false (s.rd k) v [F.vfmFnQp_hbm_wt, F.vfmFnQp_attach_wt])
    else
      let w := softWrite false (s.rd k) v [F.vfmFnQp_hbm_wt, F.vfmFnQp_attach_wt, F.vfmFnQp_qp_count, F.vfmFnQp_qp_base]
      if (s.fnEn f ∧ qpRange w ≠ qpRange (s.rd k)) ∨ ¬ s.qpFits f w then s.refuse f k else s.wr k w
  | 3 =>
    let w := quotaNorm (softWrite false (s.rd k) v
      [F.vfmFnQuota_msix, F.vfmFnQuota_grp, F.vfmFnQuota_sa, F.vfmFnQuota_reg, F.vfmFnQuota_wq])
    if f = 0 then s else if s.quotaFits f w then s.wr k w else s.refuse f k
  | _ => s

/-- VFM_GRANT_WRITE (R77): a write of `VFM_FN_PART`, `VFM_FN_QP` or `VFM_FN_QUOTA` at a key. -/
def execVfmGrantWrite (m key : Nat) (v : Word) (s : State) : Res :=
  .next <|
    let o := key - Reg.vfmFnCtrl 0
    if key < Reg.vfmFnCtrl 0 ∨ 1024 < o / 64 ∨ o % 8 ≠ 0 ∨ o % 64 < 8 ∨ 24 < o % 64 then s
    else s.sw m key fun s => s.grantWrite (o / 64) (o % 64 / 8) v

/-- A write of `VFM_PLATE_OWNERp` (R79, R2, R282). -/
def State.ownerWrite (s : State) (p : Nat) (v : Word) : State :=
  let k := Reg.vfmPlateOwner p
  let o := fld v F.vfmPlateOwner_owner.hi F.vfmPlateOwner_owner.lo
  if s.absent p then s
  else if (1024 < o ∧ o ≠ 0x7FF) ∨ (s.lost p ∧ o ≠ 0x7FF) then s.refuse o k
  else if s.lost p then s.wf k F.vfmPlateOwner_owner o
  else (s.plateReset p).wf k F.vfmPlateOwner_owner o

/-- PLATE_OWNER_WRITE (R79). -/
def execPlateOwnerWrite (m p : Nat) (v : Word) (s : State) : Res :=
  .next (if 64 ≤ p then s else s.sw m (Reg.vfmPlateOwner p) fun s => s.ownerWrite p v)

/-! ### Dirty-page logs (R84-R87) -/

/-- Whether n bytes from a lie outside every VF partition. -/
def State.outsideVfs (s : State) (a n : Nat) : Bool :=
  (s.perVf (Reg.vfmFnPart 0)).all fun e => !overlap a (a + n) (partRange e.2).1 (partRange e.2).2

/-- The register of the active buffer of log l. -/
def activeFld (l : Nat) : Fld := if l = 0 then F.vfmDlogCmd_active0 else F.vfmDlogCmd_active1

/-- A write of `VFM_DLOG_BASEf[l]` (R84, R85, Table 4-11). -/
def State.dlogBaseWrite (s : State) (f l : Nat) (v : Word) : State :=
  let k := Reg.vfmDlogBase f l
  let w := softWrite false (s.rd k) v [F.vfmDlogBase_en, F.vfmDlogBase_base]
  let b := fld w F.vfmDlogBase_base.hi F.vfmDlogBase_base.lo * 4096
  let n := s.dlogLen f
  if ¬ (s.outsideVfs b n ∧ s.outsideVfs (b + cdiv n 4096 * 4096) n) then s.refuse f k
  else
    let s := if fld (s.rd k) 63 63 = 0 ∧ fld w 63 63 = 1 then s.wf (Reg.vfmDlogCmd f) (activeFld l) 0 else s
    s.wr k w

/-- DLOG_BASE_WRITE (R84). -/
def execDlogBaseWrite (m f l : Nat) (v : Word) (s : State) : Res :=
  .next (if 1024 < f ∨ 1 < l then s else s.sw m (Reg.vfmDlogBase f l) fun s => s.dlogBaseWrite f l v)

/-- A write of `VFM_DLOG_CMDf` with `GO` = 1 (R86, R87). -/
def State.harvestGo (s : State) (f : Nat) (v : Word) : State :=
  let k := Reg.vfmDlogCmd f
  let l := fld v F.vfmDlogCmd_log.hi F.vfmDlogCmd_log.lo
  let held : Bool := match mget s.prf.jobs f with | some j => !j.regions.isEmpty | none => false
  if s.on k F.vfmDlogCmd_go ∨ ¬ s.on (Reg.vfmDlogBase f l) F.vfmDlogBase_en ∨ (l = 1 ∧ held) then s.wf k F.vfmDlogCmd_err 1
  else
    let s := s.wr k (softWrite false (s.rd k) v [F.vfmDlogCmd_log, F.vfmDlogCmd_err, F.vfmDlogCmd_done])
    (s.wf k (activeFld l) (1 - s.rf k (activeFld l))).wf k F.vfmDlogCmd_go 1

/-- DLOG_HARVEST_GO (R86): by the PF, or by VF f through its page. -/
def execDlogHarvestGo (m f : Nat) (v : Word) (s : State) : Res :=
  .next (if 1024 < f then s else s.swp m f (Reg.vfmDlogCmd f) fun s => s.harvestGo f v)

/-- DLOG_HARVEST_DONE (R86): every bit of the old buffer is in HBM. -/
def execDlogHarvestDone (f : Nat) (s : State) : Res :=
  .next <|
    let k := Reg.vfmDlogCmd f
    if f ≤ 1024 ∧ s.on k F.vfmDlogCmd_go then (s.wf k F.vfmDlogCmd_go 0).wf k F.vfmDlogCmd_done 1 else s

/-! ### Meters -/

/-- The meters of set f and their shadows cleared together (R89). -/
def State.mtrClr (s : State) (f : Nat) : State :=
  (List.range 16).foldl (fun t i => (t.wr (Reg.vfmMeter f i) 0).wr (Reg.vfmMeterShadow f i) 0) s

/-- MTR_CLR (R89). -/
def execMtrClr (m f : Nat) (s : State) : Res :=
  .next (if 1024 < f then s else s.sw m (Reg.vfmFnCtrl f) fun s => s.mtrClr f)

/-! ### Function-level reset (R92, Table 4-6) -/

/-- The function's WQs are Disabled, with nothing fetched, and no poll of theirs is due. -/
def State.flrWqs (s : State) (f : Nat) : State :=
  let mine : Nat → Bool := fun w => (mget s.wqe.wqs w).any fun q => decide (q.owner = f)
  let off : Wq → Wq := fun q =>
    { q with st := .disabled, ents := [], polling := false, granted := 0, firstFail := none, flushing := false, disCmd := false }
  let due := s.wqe.due.filter fun w => !mine w
  let trk := s.qpe.trk.filter fun t => !mine t.wqn
  { s with wqe.due := due, wqe.wqs := s.wqe.wqs.map (fun e => (e.1, if e.2.owner = f then off e.2 else e.2)), qpe.trk := trk }

/-- Commands of the function that have not ended are dropped: their `GO` bits clear. -/
def State.flrCmds (s : State) (f : Nat) : State :=
  let l := s.hif.probes.filter fun p => decide (p.f ≠ f)
  let d := mdel s.qpe.dereg f
  let s : State := { s with hif.probes := l, qpe.dereg := d }
  [(Reg.wqeCmd f, F.wqeCmd_go), (Reg.qpeCmd f, F.qpeCmd_go), (Reg.qpeRevoke f, F.qpeRevoke_go), (Reg.colCmd f, F.colCmd_go),
    (Reg.prfCmd f, F.prfCmd_go), (Reg.vfmDlogCmd f, F.vfmDlogCmd_go)].foldl (fun t e => t.wf e.1 e.2 0) s

/-- The function's mailbox channels are emptied and restart at number 0 (R480). -/
def State.flrMbx (s : State) (hit : Nat → Bool) : State :=
  (List.range 512).foldl (fun t c =>
    if hit (t.mbxSender c) ∨ hit (t.mbxReceiver c) then
      let t : State := { t with icu.mbx := mdel t.icu.mbx c }
      ((t.wf (Reg.mbxTxStat c) F.mbxTxStat_full 0).wf (Reg.mbxTxStat c) F.mbxTxStat_drops 0).wf (Reg.mbxRxStat c)
        F.mbxRxStat_underflow 0
    else t) s

/-- The function's MSI-X entries are masked, with nothing pending. -/
def State.flrMsix (s : State) (f : Nat) : State :=
  { s with icu.msix := s.icu.msix.map fun e =>
      if e.1 / 2048 = f then (e.1, { e.2 with mask := true, pend := false }) else e }

/-- A function-level reset of function f is taken. -/
def State.flrOne (s : State) (f : Nat) : State :=
  if s.top.flr.contains f then s
  else
    let s : State := { s.wf (Reg.vfmFnCtrl f) F.vfmFnCtrl_flr_busy 1 with top.flr := sins s.top.flr f }
    let s := s.leaveJob f
    let s := (s.col.groups.filter fun e => decide (e.2.owner = f)).foldl (fun t e =>
      let t := (t.groupOff e.1).updGroup e.1 fun g => { g with enabling := none }
      match mget t.qpe.regions e.2.region with
      | some _ => t
      | none => { t with col.groups := mdel t.col.groups e.1 }) s
    let s := (s.flrWqs f).flrCmds f
    let s := (s.qpe.qps.filter fun e => decide (e.2.owner = f)).foldl (fun t e => t.qpError e.1 0x0B) s
    let s := (s.qpe.regions.filter fun e => decide (e.2.owner = some f)).foldl (fun t e =>
      match e.2.revoking with
      | none => t.revokeStart e.1 e.2 true
      | some _ => { t with qpe.regions := mput t.qpe.regions e.1 { e.2 with revoking := some true } }) s
    let s := (List.range 64).foldl (fun t p => if t.plateOwner p = f then t.plateReset p else t) s
    let s := s.xRemoveAll f
    let s : State := { s with
      xlt.drains := s.xlt.drains ++ [⟨f, 2, 0, topAddr, none⟩]
      cip.sas := s.cip.sas.map fun e =>
        if e.2.owner = f ∧ e.2.ending = none then (e.1, { e.2 with ending := some false }) else e }
    let s := s.flrMsix f
    let s := (s.wf (Reg.vfmDlogBase f 0) F.vfmDlogBase_en 0).wf (Reg.vfmDlogBase f 1) F.vfmDlogBase_en 0
    s.flrMbx fun m => decide (m = f)

/-- A function-level reset; that of the PF takes every VF with it and clears VF Enable. -/
def State.flr (s : State) (f : Nat) : State :=
  if f = 0 then (range' 1 1024).foldl State.flrOne { s.flrOne 0 with icu.vfEnable := false } else s.flrOne f

/-- FUNCTION_LEVEL_RESET (R92): one requested while one is under way merges into it. -/
def execFunctionLevelReset (f : Nat) (s : State) : Res := .next (if 1024 < f then s else s.flr f)

/-- Whether what the reset of function f waits for has ended: its regions' drains, its plates' zeroing, the translations in
use, its SAs' last packets; for the PF, every VF's reset. -/
def State.flrDrained (s : State) (f : Nat) : Bool :=
  (s.qpe.regions.all fun e => decide (e.2.owner ≠ some f) || e.2.revoking.isNone) &&
    ((List.range 64).all fun p => decide (s.plateOwner p ≠ f) || !(s.plate p).resetting) &&
    (s.xlt.drains.all fun d => decide (d.fn ≠ f)) && (s.cip.sas.all fun e => decide (e.2.owner ≠ f)) &&
    (decide (f ≠ 0) || s.top.flr.all fun g => decide (g = 0))

/-- FLR_COMPLETE (R92): the function's QPs are Idle, and `FLR_BUSY` clears. Control packets not yet released stay queued. -/
def execFlrComplete (f : Nat) (s : State) : Res :=
  .next <|
    if s.top.flr.contains f ∧ s.flrDrained f then
      let s := (s.qpe.qps.filter fun e => decide (e.2.owner = f) && decide (e.2.st ≠ .retired)).foldl (fun t e =>
        (t.rxRelease e.2).setQp e.1 { e.2.idle with ctl := e.2.ctl }) s
      { s.wf (Reg.vfmFnCtrl f) F.vfmFnCtrl_flr_busy 0 with top.flr := sdel s.top.flr f }
    else s

/-! ### Scrubs and enabling (R93, R106) -/

/-- A scrub is started, or refused (R93). -/
def State.scrubStart (s : State) (f : Nat) : State :=
  if s.fnEn f ∨ s.on (Reg.vfmFnCtrl f) F.vfmFnCtrl_scrub_busy then s.refuse f (Reg.vfmFnCtrl f)
  else s.wf (Reg.vfmFnCtrl f) F.vfmFnCtrl_scrub_busy 1

/-- SCRUB (R93). -/
def execScrub (m f : Nat) (s : State) : Res :=
  .next (if 1024 < f then s else s.sw m (Reg.vfmFnCtrl f) fun s => s.scrubStart f)

/-- Memory of HBM zeroed from lo up to hi by the module itself: protected pages are kept and the pages marked dirty (R85,
R423). -/
def State.zeroHbm (s : State) (lo hi : Nat) : State :=
  let ps := range' (lo / pageSize) ((hi - lo) / pageSize)
  ps.foldl State.dirtyPage ((ps.foldl State.undoPage s).zero lo hi)

/-- SCRUB_DONE (R93): the partition is zero. -/
def execScrubDone (f : Nat) (s : State) : Res :=
  .next <|
    if 1 ≤ f ∧ f ≤ 1024 ∧ s.on (Reg.vfmFnCtrl f) F.vfmFnCtrl_scrub_busy then
      (s.zeroHbm (s.part f).1 (s.part f).2).wf (Reg.vfmFnCtrl f) F.vfmFnCtrl_scrub_busy 0
    else s

/-- A write of `VFM_FN_CTRLf.EN` (R106, R93, Table 4-7). -/
def State.enWrite (s : State) (f : Nat) (en : Bool) : State :=
  if f = 0 then s
  else if en ∧ s.on (Reg.vfmFnCtrl f) F.vfmFnCtrl_scrub_busy then s.refuse f (Reg.vfmFnCtrl f)
  else s.wf (Reg.vfmFnCtrl f) F.vfmFnCtrl_en (b2n en)

/-- FN_EN_WRITE (R106): polling and starting of the function's WQs stop or resume. -/
def execFnEnWrite (m f : Nat) (en : Bool) (s : State) : Res :=
  .next (if 1024 < f then s else s.sw m (Reg.vfmFnCtrl f) fun s => s.enWrite f en)

end Sys2Proof.Machine
end

