-- ==== Sys2Proof/Machine/Power.lean ====
section
/-! DEFINITION. Power, clocks, thermal limits and ageing (21_power.md): domains, operating points, the cap, power shifting,
droop, the brake, thermal limits, burr monitors, and the stop of the whole module (R18, R518). Messages of the pool are `Out`
values of kind `msg`: virtual channel 6, node, 130 report or 131 reply, and their contents (log 53). -/

namespace Sys2Proof.Machine

/-! ### Stopping the module -/

/-- Plate p loses power: its program is gone, with what it held. -/
def State.plateOff (s : State) (p : Nat) : State :=
  let s := (s.abandonLoad p).spoilMover p
  let ran := s.runs p
  let s := s.stopCores p
  let s := s.setPlate p { s.plate p with mover := [], resetting := false, stopping := none }
  if ran then (s.runEnd p 2).collPlate p 0x0B else s

/-- Every Amholt, Ethernet and attach link goes down (R18, R534). -/
def State.linksStop (s : State) : State :=
  let s := (List.range 12).foldl (fun t n => (if t.lstate n = 0 then t else t.linkFails n 1).ethChange n false) s
  (List.range 4).foldl State.portDown s

/-- Every switched domain that is not Faulted is Off, and nothing waits to ramp. -/
def State.domainsOff (s : State) : State :=
  let s : State := { s with pwr.rampQ := [], pwr.rampDone := [], pwr.paused := [] }
  (List.range 96).foldl (fun t d => if t.pd d = 1 ∨ t.pd d = 2 then t.wf (Reg.pwrDomain d) F.pwrDomain_state 0 else t) s

/-- What the switched domains held beside their registers is gone. -/
def State.dropEngines (s : State) : State :=
  { s with hif := {}, xlt := {}, wqe := {}, qpe := {}, fab := {}, cip := {}, col := {}, cpf := {}, prf := {}
           mac.ports := [], mon.evQ := [], plt.cores := [], plt.scratch := [], plt.scratchFree := [], plt.ccState := [] }

/-- Steps 1 to 3 of R534: the links stop, the proof store checkpoints where it may, the domains are switched off. -/
def State.powerDown (s : State) (ckpt : Bool) : State :=
  let s := s.linksStop
  let s := if ckpt ∧ ¬ s.ps.failed ∧ s.psState ≠ 3 ∧ ¬ s.ps.clean then s.checkpoint else s
  let s := (List.range 64).foldl State.plateOff s
  s.domainsOff.dropEngines

/-- The module stops until a cold reset (R18, R518, R556). -/
def State.moduleStop (s : State) (ckpt : Bool) : State := { s.powerDown ckpt with top.stopped := true }

/-- A trip (R518): after its alarm, counterproof ends, the module stops and TRIP_N (pin 1) goes low. -/
def State.trip (s : State) : State := ((s.cpfEnd 8).moduleStop true).emit .pin [1, 0]

/-- REFCLK_LOST (R18, R222, R553): the reference stops for 1 µs or the root PLL loses lock. -/
def execRefclkLost (s : State) : Res :=
  .next (if s.top.stopped then s else ((s.raise .alarm 0 4).setTlock false).moduleStop false)

/-! ### Domains (R497-R499) -/

/-- Whether the PF may request domain d Off (Table 21-1). -/
def State.mayOff (s : State) (d : Nat) : Bool :=
  if d < 64 then decide (s.plateOwner d = 0x7FF)
  else if d < 68 then (range' ((d - 64) * 16) 16).all fun p => decide (s.plateOwner p = 0x7FF) && decide (s.pd p = 0)
  else if d < 80 then decide (s.rf (Reg.macQuad (d - 68)) F.macQuad_mode = 0)
  else if d < 84 then !s.on (Reg.hifPortCfg (d - 80)) F.hifPortCfg_link_en
  else if d < 93 then false
  else if d = 93 then s.col.groups.all (fun e => decide (e.2.st ≠ .ready)) && decide (s.rf Reg.cpfStatus F.cpfStatus_state = 0)
  else if d = 94 then true
  else decide (s.rf Reg.cpfCtrl F.cpfCtrl_role = 0) && !s.on Reg.cpfCtrl F.cpfCtrl_rec

/-- Domain d goes Off: a plate loses its contents, the monitors their queue (R531). -/
def State.switchOff (s : State) (d : Nat) : State :=
  let s := if d < 64 then s.plateOff d else s
  let s : State := if d = 94 then { s with mon.evQ := [] } else s
  let q := s.pwr.rampQ.filter fun x => decide (x ≠ d)
  let s : State := { s with pwr.rampQ := q, pwr.rampDone := sdel s.pwr.rampDone d }
  let s := (s.wf (Reg.pwrDomain d) F.pwrDomain_state 0).wf (Reg.pwrDomain d) F.pwrDomain_on 0
  s.startRamps (railOf d) s.pwr.rampQ

/-- A write of `PWR_DOMAINd` (R497, R499). -/
def State.domainWrite (s : State) (d : Nat) (v : Word) : State :=
  let k := Reg.pwrDomain d
  if d < 64 ∧ s.absent d then s
  else
    let s := s.wr k (softWrite false (s.rd k) v [F.pwrDomain_err])
    if s.pd d = 3 then s
    else if fld v 0 0 = 1 then (s.wf k F.pwrDomain_on 1).requestOn d false
    else if s.mayOff d then s.switchOff d
    else s.wf k F.pwrDomain_err 1

/-- DOMAIN_ON_REQUEST (R495, R497, R498). -/
def execDomainOnRequest (m d : Nat) (v : Word) (s : State) : Res :=
  .next (if 96 ≤ d then s else s.sw m (Reg.pwrDomain d) fun s => s.domainWrite d v)

/-- DOMAIN_RAMP_END (R498): its isolation stays closed for another 4 µs. -/
def execDomainRampEnd (d : Nat) (s : State) : Res :=
  .next (if s.pd d = 1 ∧ (mget s.pwr.paused (railOf d)).isNone then { s with pwr.rampDone := sins s.pwr.rampDone d } else s)

/-- DOMAIN_ISOLATION_RELEASE (R495, R498): the domain is On; a plate is zeroed before its first access, and a quad that is
enabled trains. -/
def execDomainIsolationRelease (d : Nat) (s : State) : Res :=
  .next <|
    if s.pd d = 1 ∧ s.pwr.rampDone.contains d then
      let s : State := { s.wf (Reg.pwrDomain d) F.pwrDomain_state 2 with pwr.rampDone := sdel s.pwr.rampDone d }
      let s := s.startRamps (railOf d) s.pwr.rampQ
      if d < 64 then
        if s.lost d then s
        else
          let s := s.setPlate d { s.plate d with resetting := true }
          (s.pst d F.pltStatus_scrubbing 1).wf (Reg.vfmPlateOwner d) F.vfmPlateOwner_scrubbing 1
      else if 68 ≤ d ∧ d < 80 ∧ s.ready then s.linkStart (d - 68)
      else s
    else s

/-- Plate p is lost to a domain fault (R282, Table 4-13). -/
def State.plateFaulted (s : State) (p : Nat) : State :=
  if s.absent p then s else (s.plateLoss p 0).wf (Reg.vfmPlateOwner p) F.vfmPlateOwner_faulted 1

/-- The effect of domain d latched Faulted (Table 21-1). -/
def State.faultEffect (s : State) (d : Nat) : State :=
  if d < 64 then s.plateFaulted d
  else if d < 68 then (range' ((d - 64) * 16) 16).foldl State.plateFaulted s
  else if d < 80 then (if s.lstate (d - 68) = 0 then s else s.linkFails (d - 68) 1).ethChange (d - 68) false
  else if d < 84 then s.portDown (d - 80)
  else if d < 92 then s.moduleStop false
  else if d = 92 then s.psFail
  else if d = 93 then
    let s := s.col.groups.foldl (fun t e => (t.groupOff e.1).updGroup e.1 fun g => { g with st := .broken }) s
    let s := (List.range 64).foldl (fun t p => t.launchEnd p 0x0B 0) s
    s.cpfEnd 8
  else if d = 94 then { s with mon.evQ := [] }
  else s

/-- HEADSWITCH_FAULT (R499): the headswitch opens, the domain is latched Faulted, and the ramps of its rail group pause. -/
def execHeadswitchFault (d : Nat) (s : State) : Res :=
  .next <|
    let st := s.pd d
    if 96 ≤ d ∨ (st ≠ 1 ∧ st ≠ 2) then s
    else
      let s := (s.wf (Reg.pwrDomain d) F.pwrDomain_state 3).raise .alarm 13 1 (inst := d) (arg0 := st)
      let s : State := { s with pwr.rampDone := sdel s.pwr.rampDone d, pwr.paused := mput s.pwr.paused (railOf d) s.clk }
      s.faultEffect d

/-- RAMP_PAUSE_END (R499): 50 µs after the last fault of rail group g its ramps go on. -/
def execRampPauseEnd (g : Nat) (s : State) : Res :=
  .next <|
    match mget s.pwr.paused g with
    | some t =>
      if t + 50000 ≤ s.clk then
        let s : State := { s with pwr.paused := mdel s.pwr.paused g }
        s.startRamps g s.pwr.rampQ
      else s
    | none => s

/-! ### The cap (R505) -/

/-- `CHG` is set when bits [4:0] of `PWR_STATUS` differ from what they were (Table 21-6). -/
def State.chg (s old : State) : State :=
  if fld (s.rd Reg.pwrStatus) 4 0 = fld (old.rd Reg.pwrStatus) 4 0 then s else s.wf Reg.pwrStatus F.pwrStatus_chg 1

/-- A power in W clamped to what a cap may be. -/
def clampW (w : Nat) : Nat := max 350 (min 1000 w)

/-- CAP_WRITE (R505, Table 21-5): it governs from the next control instant. -/
def execCapWrite (m : Nat) (v : Word) (s : State) : Res :=
  .next <|
    s.sw m Reg.pwrCap fun s =>
      (s.wf Reg.pwrCap F.pwrCap_cap (clampW (fld v 9 0))).wf Reg.pwrCap F.pwrCap_brake_w (clampW (fld v 41 32))

/-- A field of the cap register. -/
def State.cap (s : State) : Nat := s.rf Reg.pwrCap F.pwrCap_cap

/-- Whether shifting is on, and not in fall-back (R511, R513). -/
def State.shifting (s : State) : Bool := s.on Reg.pwrCtrl F.pwrCtrl_shift_en && !s.on Reg.pwrStatus F.pwrStatus_fallback

/-- The cap, or the shifted cap, in force. -/
def State.capNow (s : State) : Nat := if s.shifting then s.pm.shifted.getD s.cap else s.cap

/-- Whether the sensor behind register s is faulted. -/
def State.sensorBad (s : State) (i : Nat) : Bool := s.on (Reg.pwrTherm i) F.pwrTherm_fault

/-- The thermal cut in percent (R516, R517). -/
def State.thermCut (s : State) : Nat :=
  if (range' 64 28).any s.sensorBad then max 20 s.pm.cut else s.pm.cut

/-- The limit in force (R505). -/
def State.limitNow (s : State) : Nat :=
  (if s.pm.brake then min s.capNow (s.rf Reg.pwrCap F.pwrCap_brake_w) else s.capNow) * (100 - s.thermCut) / 100

/-! ### The control instant (R504, R506, R507, R509) -/

/-- Leakage and, at duty 16/16, switching draw at point n in a common unit (Table 21-2). -/
def leak (n : Nat) : Nat := 800 * 64 * (60 + 2 * n) ^ 3
@[inherit_doc leak] def switching (n : Nat) : Nat :=
  12000 * 90 * (60 + 2 * n) ^ 2 * (([29, 31, 33, 36, 38, 40, 43, 45, 47, 50, 52, 54, 57, 59, 61, 64] : List Nat).getD n 0)

/-- A running plate in the algorithm: number, measured draw in mW, point and duty it was measured at, floor, target. -/
structure Target where
  p : Nat
  meas : Nat
  op : Nat
  duty : Nat
  floor : Nat
  t : Nat
  deriving DecidableEq, Repr

/-- The predicted draw of a plate at point n and duty d, in mW: its measured draw scaled by the ratios of Table 21-2. -/
def Target.draw (x : Target) (n d : Nat) : Nat :=
  x.meas * (leak n * 16 + d * switching n) / (leak x.op * 16 + x.duty * switching x.op)

/-- predict(t, d), in mW. -/
def predict (l : List Target) (d : Nat) : Nat := l.foldl (fun a x => a + x.draw x.t d) 0

/-- Whether predict(t, d) is within the budget limit − other − limit / 50, in mW. -/
def within (limit other : Nat) (l : List Target) (d : Nat) : Bool :=
  decide (predict l d + other + limit * 20 ≤ limit * 1000)

/-- The highest plates above their floors lowered, until the prediction is within the budget or every plate is at its floor. -/
def lowerAll (limit other : Nat) : Nat → List Target → List Target
  | 0, l => l
  | fuel + 1, l =>
    let m := (l.filter fun x => decide (x.floor < x.t)).foldl (fun a x => max a x.t) 0
    if within limit other l 16 ∨ m = 0 then l
    else lowerAll limit other fuel (l.map fun x => if x.t = m ∧ x.floor < m then { x with t := m - 1 } else x)

/-- The largest duty of at most n that is within the budget, or 1. -/
def pickDuty (limit other : Nat) (l : List Target) : Nat → Nat
  | 0 => 1
  | n + 1 => if n = 0 ∨ within limit other l (n + 1) then n + 1 else pickDuty limit other l n

/-- The plates that run. -/
def State.runningPlates (s : State) : List Nat :=
  (List.range 64).filter fun p => s.runs p && decide (s.pd p = 2) && !s.lost p

/-- The preferred point of plate p's phase for its owner (R504). -/
def State.prefPoint (s : State) (p : Nat) : Nat :=
  if s.plateOwner p ≤ 1024 then nbits (s.rd (Reg.pwrPref (s.plateOwner p))).toNat (4 * (s.plate p).phase + 3) (4 * (s.plate p).phase)
  else 15

/-- The boost of plate p (R512). -/
def State.boostOf (s : State) (p : Nat) : Nat :=
  if s.shifting ∧ s.cap < s.pm.shifted.getD 0 ∧ (mget s.pm.lateAt (s.plateOwner p)).any fun t => decide (s.clk ≤ t + 1000000) then
    s.rf Reg.pwrCtrl F.pwrCtrl_boost
  else 0

/-- The thermal limit and duty of plate p: its lowest setting while its sensor is faulted (R516, R517). -/
def State.thermOf (s : State) (p : Nat) : Nat × Nat :=
  if s.sensorBad p then (0, 1) else (s.rf (Reg.pwrPlate p) F.pwrPlate_therm, (mget s.pm.tduty p).getD 16)

/-- The droop limit of plate p (R514). -/
def State.droopOf (s : State) (p : Nat) : Nat :=
  match mget s.pm.droop p with
  | some (n, t) => if s.clk < t then n else 15
  | none => 15

/-- The first target of plate p. -/
def State.powerTarget (s : State) (x : PowerMeas) (p : Nat) : Target :=
  let f := s.plateFloor p
  { p := p, meas := x.plates.getD p 0, op := s.rf (Reg.pwrPlate p) F.pwrPlate_op, duty := s.rf (Reg.pwrPlate p) F.pwrPlate_duty + 1
    floor := f
    t := max f (min (min 15 (s.prefPoint p + s.boostOf p)) (min (s.thermOf p).1 (s.droopOf p))) }

/-- Bytes of a decision in the trace: plate, point, duty. -/
def pointBytes (l : List (Nat × Nat × Nat)) : List Byte :=
  l.flatMap fun e => [BitVec.ofNat 8 e.1, BitVec.ofNat 8 e.2.1, BitVec.ofNat 8 e.2.2]

/-- Decisions applied: plate, point, duty. -/
def State.applyPoints (s : State) (l : List (Nat × Nat × Nat)) : State := l.foldl (fun t e => t.setPoint e.1 e.2.1 e.2.2) s

/-! Energy (R90) -/

/-- The meters by which a share of the energy is charged: 0 HBM, 1 network, 2 attach, 3 proof store. -/
def shareMeters (c : Nat) : List Nat := ([[4, 5], [0, 1, 2], [3], [8, 9]] : List (List Nat)).getD c []

/-- The sum of the meters of a share for set f. -/
def State.shareSum (s : State) (c f : Nat) : Nat := (shareMeters c).foldl (fun a i => a + s.rf (Reg.vfmMeter f i) F.vfmMeter_count) 0

/-- Energy of e µJ divided among sets by weights; with none, it goes to the module set. -/
def State.charge (s : State) (e : Nat) (w : List (Nat × Nat)) : State :=
  let tot := w.foldl (fun a x => a + x.2) 0
  if tot = 0 then s.meter moduleSet 10 e
  else (w.filter fun x => decide (x.2 ≠ 0)).foldl (fun t x => t.meter x.1 10 (e * x.2 / tot)) s

/-- Energy of the domains that p holds. -/
def energyOf (x : PowerMeas) (p : Nat → Bool) : Nat := (x.energy.filter fun e => p e.1).foldl (fun a e => a + e.2) 0

/-- The energy of the last interval charged to the functions. -/
def State.chargeAll (s : State) (x : PowerMeas) : State :=
  let fs := range' 0 1025
  let own (o : Nat) : Nat := if o ≤ 1024 then o else moduleSet
  let since (c f : Nat) : Nat := s.shareSum c f - (mget s.pm.charged (f * 4 + c)).getD 0
  let w (c extra : Nat) : List (Nat × Nat) := (moduleSet, extra) :: fs.map fun f => (f, since c f)
  let transit := s.rf (Reg.vfmMeter moduleSet 0) F.vfmMeter_count - (mget s.pm.charged (moduleSet * 4)).getD 0
  let s0 := s
  let s := (List.range 64).foldl (fun t p => t.meter (own (t.plateOwner p)) 10 (energyOf x fun d => decide (d = p))) s
  let s := (List.range 4).foldl (fun t q =>
    t.charge (energyOf x fun d => decide (d = 64 + q)) ((range' (16 * q) 16).map fun p => (own (t.plateOwner p), 1))) s
  let s := s.charge (energyOf x fun d => decide (84 ≤ d) && decide (d < 90)) (w 0 x.hbmOther)
  let s := s.charge (energyOf x fun d => (decide (68 ≤ d) && decide (d < 80)) || decide (d = 90) || decide (d = 91)) (w 1 transit)
  let s := s.charge (energyOf x fun d => decide (80 ≤ d) && decide (d < 84)) (w 2 0)
  let s := s.charge (energyOf x fun d => decide (d = 92)) (w 3 0)
  let s := s.meter moduleSet 10 (energyOf x fun d => decide (93 ≤ d))
  let m := fs.foldl (fun m f => (List.range 4).foldl (fun m c => if s0.shareSum c f = 0 then m else mput m (f * 4 + c) (s0.shareSum c f)) m)
    ([] : Map Nat)
  { s with pm.charged := mput m (moduleSet * 4) (s0.rf (Reg.vfmMeter moduleSet 0) F.vfmMeter_count) }

/-- CONTROL_INSTANT (R502-R509, R512, R515, R90): at each 10,000 ns of the timebase the power manager sets the points and the
duty of the running plates; a follower of counterproof leaves its plates to the lead's decisions (R407). -/
def execControlInstant (x : PowerMeas) (s : State) : Res :=
  .next <|
    if s.time / 10000 + 1 = s.pm.instant then s
    else
      let old := s
      let limit := s.limitNow
      let l := lowerAll limit x.other 16 (s.runningPlates.map fun p => s.powerTarget x p)
      let d := pickDuty limit x.other l 16
      let pts := l.map fun y => (y.p, y.t, min d (s.thermOf y.p).2)
      let s := if s.follows then s else (s.applyPoints pts).cpfNote 0 0x0A (pointBytes pts)
      let low := l.all fun y => decide (y.t = y.floor) && decide (min d (s.thermOf y.p).2 = 1)
      let was := s.on Reg.pwrStatus F.pwrStatus_cap_unreachable
      let now := if low ∧ limit < x.draw then true else was && !(decide (x.draw < limit) || decide (s.pm.limit < limit))
      let s := (s.wf Reg.pwrStatus F.pwrStatus_eff_cap limit).wf Reg.pwrStatus F.pwrStatus_draw (min 1023 x.draw)
      let s := s.wf Reg.pwrStatus F.pwrStatus_duty ((pts.foldl (fun a e => min a e.2.2) 16) - 1)
      let s := s.wf Reg.pwrStatus F.pwrStatus_cap_unreachable (b2n now)
      let s := if now ∧ ¬ was then s.raise .warning 13 2 (arg0 := limit + x.draw * 2 ^ 16) else s
      let s : State := { s with pm.limit := limit, pm.instant := s.time / 10000 + 1, top.vin := x.vin, top.iin := x.iin }
      (s.chargeAll x).chg old

/-! ### Power shifting (R510-R513) -/

/-- The pool leader's node. -/
def State.poolNode (s : State) : Nat := s.rf Reg.pwrCtrl F.pwrCtrl_pool_node

/-- Whether this module leads its pool. -/
def State.leadsPool (s : State) : Bool := s.on Reg.pwrCtrl F.pwrCtrl_shift_en && decide (s.poolNode = s.node)

/-- at_max (R510). -/
def State.atMax (s : State) : Bool :=
  (s.runningPlates.all fun p => decide (s.rf (Reg.pwrPlate p) F.pwrPlate_op = 15) && decide (s.rf (Reg.pwrPlate p) F.pwrPlate_duty = 15)) ||
    decide (s.rf Reg.pwrStatus F.pwrStatus_draw * 100 ≤ s.pm.limit * 98)

/-- The leader records a member's report, of at most 256 members (R510); when a member's `CAP` has changed, every shifted cap
returns to its member's `CAP`, so that their sum stays within the sum of the caps. -/
def State.poolReport (s : State) (node cap : Nat) (atMax : Bool) (steps late : Nat) : State :=
  if ¬ s.leadsPool then s
  else match mget s.pm.pool node with
    | some x =>
      let p := mput s.pm.pool node { x with cap := cap, atMax := atMax, steps := steps, late := late, seen := s.clk }
      { s with pm.pool := if x.cap = cap then p else p.map fun e => (e.1, { e.2 with shifted := e.2.cap }) }
    | none =>
      if 256 ≤ s.pm.pool.length then s
      else { s with pm.pool := mput s.pm.pool node ⟨cap, atMax, steps, late, cap, s.clk⟩ }

/-- SHIFT_REPORT_DUE (R510): a member reports to its leader; the leader's own report stays within it. -/
def execShiftReportDue (s : State) : Res :=
  .next <|
    let st := s.pm.steps
    let lt := s.pm.late
    let t : State := { s with pm.steps := 0, pm.late := 0 }
    if ¬ s.on Reg.pwrCtrl F.pwrCtrl_shift_en then t
    else if s.leadsPool then t.poolReport s.node s.cap s.atMax st lt
    else t.emit .msg [6, s.poolNode, 130, s.node, s.rf Reg.pwrStatus F.pwrStatus_draw, s.cap, s.pm.limit, b2n s.atMax, st, lt]

/-- SHIFT_REPORT_RECEIVED (R510). -/
def execShiftReportReceived (node draw cap limit : Nat) (atMax : Bool) (steps late : Nat) (s : State) : Res :=
  .next (s.poolReport node cap atMax steps late)

/-- Excess of n W taken back from the members above their caps, the largest excess first (R511). -/
def takeBack : Nat → Nat → Map PoolMember → Map PoolMember
  | 0, _, m => m
  | fuel + 1, n, m =>
    let top := m.foldl (fun a e => max a (e.2.shifted - e.2.cap)) 0
    match (if n = 0 ∨ top = 0 then none else m.find? fun e => decide (e.2.shifted - e.2.cap = top)) with
    | none => m
    | some e => takeBack fuel (n - min n top) (mput m e.1 { e.2 with shifted := e.2.shifted - min n top })

/-- A new round of shifted caps (R511). -/
def poolRound (now q smax : Nat) (m : Map PoolMember) : Map PoolMember :=
  let gone (x : PoolMember) : Bool := decide (x.seen + 10000000 ≤ now)
  let m := m.map fun e => (e.1, if gone e.2 then { e.2 with shifted := e.2.cap } else e.2)
  let m := takeBack m.length ((m.foldl (fun a e => a + e.2.shifted) 0) - m.foldl (fun a e => a + e.2.cap) 0) m
  let act := m.filter fun e => decide (e.2.steps ≠ 0) && !gone e.2
  let den := act.foldl (fun a e => Nat.lcm a e.2.steps) 1
  let num (x : PoolMember) : Nat := x.late * (den / x.steps)
  let sum := act.foldl (fun a e => a + num e.2) 0
  let n := act.length
  let lo (x : PoolMember) : Nat := max 350 (x.cap - smax)
  let hi (x : PoolMember) : Nat := min 1000 (x.cap + smax)
  let dons := act.filter fun e => decide (20 * n * num e.2 + n * den < 20 * sum) && decide (lo e.2 + q ≤ e.2.shifted)
  let taks := act.filter fun e => decide (20 * sum + n * den < 20 * n * num e.2) && decide (e.2.shifted + q ≤ hi e.2) && !e.2.atMax
  let k := min dons.length taks.length
  let pick (up : Bool) (l : Map PoolMember) : List Nat :=
    ((l.mergeSort fun a b => if up then decide (num b.2 ≤ num a.2) else decide (num a.2 ≤ num b.2)).take k).map (·.1)
  let gv := pick false dons
  let tk := pick true taks
  let others := act.filter fun e => !(gv.contains e.1 || tk.contains e.1)
  let above := (others.filter fun e => decide (e.2.cap < e.2.shifted)).map (·.1)
  let below := ((others.filter fun e => decide (e.2.shifted < e.2.cap)).map (·.1)).take above.length
  m.map fun e =>
    (e.1, if gv.contains e.1 ∨ above.contains e.1 then { e.2 with shifted := e.2.shifted - q }
      else if tk.contains e.1 ∨ below.contains e.1 then { e.2 with shifted := e.2.shifted + q } else e.2)

/-- A reply of the leader taken: the member leaves fall-back (R511, R513). -/
def State.shiftReply (s : State) (e : Nat) : State :=
  if s.on Reg.pwrCtrl F.pwrCtrl_shift_en then
    let t : State := { s with pm.shifted := some e, pm.replyAt := s.clk }
    (t.wf Reg.pwrStatus F.pwrStatus_fallback 0).chg s
  else s

/-- SHIFT_ALLOCATION (R511): the leader sets each member's shifted cap and replies. -/
def execShiftAllocation (s : State) : Res :=
  .next <|
    if ¬ s.leadsPool then s
    else
      let p := poolRound s.clk (max 1 (s.rf Reg.pwrCtrl F.pwrCtrl_quantum)) (s.rf Reg.pwrCtrl F.pwrCtrl_shift_max) s.pm.pool
      p.foldl (fun t e => if e.1 = t.node then t.shiftReply e.2.shifted else t.emit .msg [6, e.1, 131, e.2.shifted])
        { s with pm.pool := p }

/-- SHIFT_REPLY_RECEIVED (R511, R513). -/
def execShiftReplyReceived (e : Nat) (s : State) : Res := .next (s.shiftReply e)

/-- SHIFT_LEADER_SILENCE (R513): 10 ms without a reply; the member returns to its own `CAP`. -/
def execShiftLeaderSilence (s : State) : Res :=
  .next <|
    if s.shifting ∧ s.pm.replyAt + 10000000 ≤ s.clk then
      let t : State := { s with pm.shifted := none }
      ((t.wf Reg.pwrStatus F.pwrStatus_fallback 1).chg s).raise .warning 13 3 (arg0 := s.poolNode)
    else s

/-! ### Droop and the brake (R514, R515) -/

/-- DROOP_DETECT (R514): the plate's clocks swallow edges; on a counterproof plate the droop ends counterproof instead. After
16 stretches within 1 ms the plate's droop limit is one point below its point for 10 ms. -/
def execDroopDetect (p : Nat) (s : State) : Res :=
  .next <|
    if 64 ≤ p ∨ s.pd p ≠ 2 ∨ s.pm.stretched.contains p then s
    else if s.cpfRuns then s.cpfEnd 8
    else
      let l := (((mget s.pm.droopAt p).getD []).filter fun t => decide (s.clk < t + 1000000)) ++ [s.clk]
      let s := (s.incF (Reg.pwrPlate p) F.pwrPlate_droops 1).raiseMs .trace 13 4 p (fn := s.plateFn p) (inst := p)
      let s : State := { s with pm.stretched := sins s.pm.stretched p, pm.droopAt := mput s.pm.droopAt p l }
      if l.length < 16 then s
      else { s with pm.droop := mput s.pm.droop p (s.rf (Reg.pwrPlate p) F.pwrPlate_op - 1, s.clk + 10000000) }

/-- DROOP_RECOVERY (R514). -/
def execDroopRecovery (p : Nat) (s : State) : Res := .next { s with pm.stretched := sdel s.pm.stretched p }

/-- BRAKE_ASSERT (R515): PWRBRK_N has been low for 1 µs; `BRAKE_W` limits the plates from the next control instant. -/
def execBrakeAssert (s : State) : Res :=
  .next <|
    if s.pm.brake then s
    else
      let t : State := { s with pm.brake := true }
      (((t.wf Reg.pwrStatus F.pwrStatus_brake 1).chg s).raise .warning 13 5 (arg0 := s.rf Reg.pwrCap F.pwrCap_brake_w)).cpfEnd 8

/-- BRAKE_RELEASE (R515): 100 µs after PWRBRK_N has returned high. -/
def execBrakeRelease (s : State) : Res :=
  .next <|
    let t : State := { s with pm.brake := false }
    (t.wf Reg.pwrStatus F.pwrStatus_brake 0).chg s

/-! ### Thermal limits (R516-R518) -/

/-- The class of a sensor (Table 21-3), and the highest trip of a class. -/
def sensorClass (i : Nat) : Nat := if i < 84 then 0 else if i < 90 then 1 else 2
@[inherit_doc sensorClass] def maxTrip (c : Nat) : Nat := if c = 0 then 115 else if c = 1 then 100 else 90

/-- A limit of a sensor's class, in units of 0.25 °C. -/
def State.thermLim (s : State) (i : Nat) (f : Fld) : Int := (s.rf (Reg.pwrThermLim (sensorClass i)) f : Int) * 4

/-- The signed number that 16 bits hold. -/
def sgn16 (n : Nat) : Int := if n % 65536 < 32768 then ((n % 65536 : Nat) : Int) else ((n % 65536 : Nat) : Int) - 65536

/-- The state of a sensor beside its register. -/
def State.sensor (s : State) (i : Nat) : Sensor := (mget s.pm.sensors i).getD {}

/-- One sensor read (R516-R518): no reading for 1 ms, or one outside −40 °C to 150 °C, is a fault; throttling is entered at
`THROTTLE` and left at `THROTTLE` − `HYST`. -/
def State.readSensor (s : State) (i : Nat) (r : Option Int) : State :=
  let k := Reg.pwrTherm i
  let x := s.sensor i
  if i < 64 ∧ s.absent i then s
  else
    let v : Option Int := match r with | some t => if -160 ≤ t ∧ t ≤ 600 then some t else none | none => none
    match v with
    | none =>
      if s.sensorBad i ∨ (r = none ∧ s.clk < x.seen + 1000000) then s
      else
        let s : State := { s with pm.sensors := mput s.pm.sensors i { x with trips := 0 } }
        (s.wf k F.pwrTherm_fault 1).raise .fault 13 6 (inst := i)
    | some t =>
      let hot := if s.thermLim i F.pwrThermLim_throttle ≤ t then true
        else if t ≤ s.thermLim i F.pwrThermLim_throttle - s.thermLim i F.pwrThermLim_hyst then false else x.hot
      let warn := hot && !x.hot && (x.warnedAt.all fun w => decide (w + 1000000000 ≤ s.clk))
      let trips := if s.thermLim i F.pwrThermLim_trip ≤ t then x.trips + 1 else 0
      let y : Sensor := { seen := s.clk, trips := trips, hot := hot, warnedAt := if warn then some s.clk else x.warnedAt }
      let s : State := { s with pm.sensors := mput s.pm.sensors i y }
      let s := (s.wf k F.pwrTherm_fault 0).wf k F.pwrTherm_temp (t % 65536).toNat
      let s := if sgn16 (s.rf k F.pwrTherm_max) < t then s.wf k F.pwrTherm_max (t % 65536).toNat else s
      let s := if hot && !x.hot then s.cpfEnd 8 else s
      if warn then s.raise .warning 13 7 (inst := i) (arg0 := (t % 65536).toNat) else s

/-- The thermal limit and duty of plate p move (R517): down one step per 1 ms while its sensor or its quadrant's throttles, up
one per 10 ms otherwise. -/
def State.thermStep (s : State) (p : Nat) : State :=
  let hot := (s.sensor p).hot || (s.sensor (64 + p / 16)).hot
  let lim := s.rf (Reg.pwrPlate p) F.pwrPlate_therm
  let d := (mget s.pm.tduty p).getD 16
  let at_ := mget s.pm.thermAt p
  let due (n : Nat) : Bool := at_.all fun t => decide (t + n ≤ s.clk)
  let moved (t : State) : State := { t with pm.thermAt := mput t.pm.thermAt p s.clk }
  if hot then
    if ¬ due 1000000 then s
    else if s.plateFloor p < lim then moved (s.wf (Reg.pwrPlate p) F.pwrPlate_therm (lim - 1))
    else moved { s with pm.tduty := mput s.pm.tduty p (max 1 (d - 1)) }
  else if (lim = 15 ∧ d = 16) ∨ ¬ due 10000000 then s
  else moved { s.wf (Reg.pwrPlate p) F.pwrPlate_therm (min 15 (lim + 1)) with pm.tduty := dput s.pm.tduty 16 p (min 16 (d + 1)) }

/-- The thermal cut of the limit moves (R517): up 5 % per 1 ms to 60 % while a sensor of the I/O die or of HBM throttles, down
5 % per 10 ms otherwise. -/
def State.cutStep (s : State) : State :=
  if (range' 68 22).any fun i => (s.sensor i).hot then
    if s.clk < s.pm.cutAt + 1000000 then s else { s with pm.cut := min 60 (s.pm.cut + 5), pm.cutAt := s.clk }
  else if s.pm.cut = 0 ∨ s.clk < s.pm.cutAt + 10000000 then s
  else { s with pm.cut := s.pm.cut - 5, pm.cutAt := s.clk }

/-- THERMAL_SAMPLE (R516-R518): every 100 µs the sensors are read; two readings in a row at or above `TRIP` are a trip. -/
def execThermalSample (r : List (Option Int)) (s : State) : Res :=
  .next <|
    let old := s
    let s := (List.range 92).foldl (fun t i => t.readSensor i ((r[i]?).getD none)) s
    let s := ((List.range 64).foldl (fun t p => if t.absent p then t else t.thermStep p) s).cutStep
    let bad := (List.range 92).any s.sensorBad
    let thr := (List.range 92).any fun i =>
      !s.sensorBad i && decide ((s.sensor i).seen ≠ 0) && decide (s.thermLim i F.pwrThermLim_throttle ≤ sgn16 (s.rf (Reg.pwrTherm i) F.pwrTherm_temp))
    let s := ((s.wf Reg.pwrStatus F.pwrStatus_sensor_fault (b2n bad)).wf Reg.pwrStatus F.pwrStatus_throttle (b2n thr)).chg old
    match (List.range 92).find? fun i => decide (2 ≤ (s.sensor i).trips) with
    | some i =>
      if s.top.stopped then s
      else (s.raise .alarm 13 8 (inst := i) (arg0 := s.rf (Reg.pwrTherm i) F.pwrTherm_temp)).trip
    | none => s

/-- SUPPLY_TRIP (R518, R551): rail 0, the input, above 61 V, or a point-of-load rail outside ±5 % of its set point, for 1 µs;
volts in units of 10 mV. -/
def execSupplyTrip (rail volt set_ : Nat) (s : State) : Res :=
  .next <|
    let out : Bool := if rail = 0 then decide (6100 < volt) else decide (20 * volt + set_ < 20 * set_) || decide (21 * set_ < 20 * volt)
    if ¬ out ∨ s.top.stopped then s
    else (s.raise .alarm 13 9 (inst := min 1 rail) (arg0 := volt % 2 ^ 16 + set_ % 2 ^ 16 * 2 ^ 16)).trip

/-! ### Ageing (R519-R521) -/

/-- BURR_REPORT (R519): the slowdown that a burr monitor of plate p reports. -/
def execBurrReport (p b drift : Nat) (s : State) : Res :=
  .next (if 64 ≤ p ∨ 35 ≤ b ∨ s.absent p ∨ s.pd p ≠ 2 then s else s.wf (Reg.pwrBurr p b) F.pwrBurr_drift drift)

/-- The factory word of a limit. -/
def State.factoryWord (s : State) (p b h : Nat) : Word :=
  (mget s.pm.factory (Reg.pwrFplan p b h)).getD (regReset s.grade (Reg.pwrFplan p b h))

/-- The limit that a re-plan gives burin b at point n (R520), 0 where it is unusable. -/
def State.newLim (s : State) (p b n : Nat) : Nat :=
  let k := planK (s.factoryWord p b (n / 8)) n * (1000 - s.rf (Reg.pwrBurr p b) F.pwrBurr_drift - s.rf Reg.pwrCtrl F.pwrCtrl_guard) / 1000
  min (s.kLim p b n) (if k < 24 then 0 else k)

/-- The code of a limit. -/
def limCode (k : Nat) : Nat := if k < 24 then 63 else k - 24

/-- The word of limits [8h, 8h + 8) that a re-plan gives burin b, and how many of them it lowers. -/
def State.newWord (s : State) (p b h : Nat) : Word × Nat :=
  (List.range 8).foldl (fun (a : Word × Nat) j =>
    let n := 8 * h + j
    if s.newLim p b n < s.kLim p b n then (setFld a.1 (6 * j + 5) (6 * j) (limCode (s.newLim p b n)), a.2 + 1) else a)
    (s.rd (Reg.pwrFplan p b h), 0)

/-- The limits of plate p lowered, its drifts noted, and how many limits changed. -/
def State.planPlate (s : State) (p : Nat) : State × Nat :=
  (List.range 35).foldl (fun (a : State × Nat) b =>
    let t := a.1.wf (Reg.pwrBurr p b) F.pwrBurr_drift_plan (s.rf (Reg.pwrBurr p b) F.pwrBurr_drift)
    (List.range 2).foldl (fun (a : State × Nat) h =>
      let w := s.newWord p b h
      if w.2 = 0 then a
      else (({ a.1.wr (Reg.pwrFplan p b h) w.1 with pm.plan := mput a.1.pm.plan (Reg.pwrFplan p b h) w.1 } : State), a.2 + w.2)) (t, a.2)) (s, 0)

/-- Twice the median of plate p's exposed limits at point n: the sum of the two in the middle. -/
def State.median2 (s : State) (p n : Nat) : Nat :=
  let l := ((List.range 32).map fun b => s.kLim p (s.phys p b) n).mergeSort fun a b => decide (a ≤ b)
  l.getD 15 0 + l.getD 16 0

/-- Whether a re-plan retires the exposed physical burin r (R521). -/
def State.retires (s : State) (p r : Nat) : Bool :=
  decide (s.kLim p r 15 = 0) ||
    ((List.range 16).any (fun n => decide (2 * (s.kLim p r n + 4) ≤ s.median2 p n)) &&
      (s.sparesOf p).any fun x => (List.range 16).all fun n => decide (s.kLim p r n ≤ s.kLim p x n))

/-- The exposed burins of plate p that a re-plan retires, and how many. -/
def State.retirePlate (s : State) (p : Nat) : State × Nat :=
  if s.lost p then (s, 0)
  else
    let l := ((List.range 32).map fun b => s.phys p b).filter fun r => s.retires p r && !(s.plate p).retired.contains r
    (l.foldl (fun t r => (t.retireBurin p r).wf (Reg.pwrBurr p r) F.pwrBurr_retired 1) s, l.length)

/-- The re-plan of the whole module. -/
def State.replan (s : State) : State :=
  let ps := (List.range 64).filter fun p => !s.absent p
  let (s, n) := ps.foldl (fun (a : State × Nat) p => let x := a.1.planPlate p; (x.1, a.2 + x.2)) (s, 0)
  let (s, r) := ps.foldl (fun (a : State × Nat) p => let x := a.1.retirePlate p; (x.1, a.2 + x.2)) (s, 0)
  let s := ((s.wf Reg.pwrReplan F.pwrReplan_changed (satU 16 n)).wf Reg.pwrReplan F.pwrReplan_retired (satU 8 r)).wf Reg.pwrReplan
    F.pwrReplan_done 1
  if n = 0 then s else s.raise .warning 13 10 (arg0 := n % 2 ^ 16 + r % 2 ^ 16 * 2 ^ 16)

/-- REPLAN (R501, R520, R521): by `PWR_REPLAN.GO` of a master, or by the timer or a drift. -/
def execReplan (m : Option Nat) (s : State) : Res :=
  .next <|
    match m with
    | some m => s.sw m Reg.pwrReplan fun s => s.replan
    | none => s.replan

end Sys2Proof.Machine
end

