-- ==== Sys2Proof/Machine/RegView.lean ====
section
/-! DEFINITION. What a register reads: its word, with the fields that show other state computed from it. -/

namespace Sys2Proof.Machine

/-- A field set in a word. -/
def putF (w : Word) (f : Fld) (v : Nat) : Word := setFld w f.hi f.lo v

/-- `WQE_POLL_STATUSc.DEMAND` (05_work_queues.md): polls per µs that the enabled queues of class c ask for while idle. -/
def State.pollDemand (s : State) (c : Nat) : Nat :=
  min 0xFFFF (((s.wqe.wqs.filter fun e => decide (e.2.cls = c) && decide (e.2.st = .enabled)).foldl
    (fun a e => a + 125 * 2 ^ 32 / max 1 e.2.interval) 0) / 2 ^ 32)

/-- `OLD_HELD` (Table 8-16): packets in the router of the state that is not the injection state. -/
def State.oldHeld (s : State) : Nat :=
  s.fab.bufs.foldl (fun a e => a + (e.2.filter fun p => decide (p.hdr.st ≠ s.injState)).length) 0

/-- `VFM_FN_QUOTA0`: the remainder of each pool (Table 4-10). -/
def State.quotaLeft (s : State) : Word :=
  putF (putF (putF (putF 0 F.vfmFnQuota_grp (s.quota 0 F.vfmFnQuota_grp 1 4096)) F.vfmFnQuota_sa
    (s.quota 0 F.vfmFnQuota_sa 16 65536 / 16)) F.vfmFnQuota_reg (s.quota 0 F.vfmFnQuota_reg 4096 (2 ^ 24) / 4096)) F.vfmFnQuota_wq
    (s.quota 0 F.vfmFnQuota_wq 16 65536 / 16)

/-- Word i of the head record of the alarm queue (R530). -/
def State.alarmWord (s : State) (i : Nat) : Word :=
  match s.mon.alarmQ with
  | e :: _ => BitVec.ofNat 64 ((e.words 0).getD i 0)
  | [] => 0

/-- Whether a key belongs to a register of plate or domain 60 to 63 outside their PLT spaces (R2). -/
def perPlateKey (k : Nat) : Bool :=
  let hit (b st : Nat) : Bool := decide (b + 60 * st ≤ k) && decide (k < b + 64 * st)
  hit (Reg.pwrDomain 0) 8 || hit (Reg.pwrPlate 0) 8 || hit (Reg.pwrTherm 0) 8 || hit (Reg.pwrFplan 0 0 0) 1024 ||
    hit (Reg.pwrBurr 0 0) 512 || hit (Reg.monEcc 0) 8 || hit (Reg.monEccShadow 0) 8

/-- The registers of a mailbox channel (Table 20-6). -/
def State.mbxView (s : State) (c o : Nat) (w : Word) : Word :=
  let ch := s.chan c
  if o = 0x08 then putF w F.mbxTxStat_credit (s.mbxSlots c - ch.q.length)
  else match ch.q with
    | [] => w
    | n :: _ =>
      if o = 0x10 then BitVec.ofNat 64 n.value
      else if o = 0x18 then putF (putF (putF w F.mbxRxStat_seq n.seq) F.mbxRxStat_count ch.q.length) F.mbxRxStat_valid 1
      else if o = 0x20 then BitVec.ofNat 64 n.time
      else w

/-- The word a register reads, before WO fields are hidden. -/
def State.view (s : State) (k : Nat) : Word :=
  let w := s.rd k
  let in_ (b st n : Nat) : Bool := decide (b ≤ k) && decide (k < b + st * n) && decide ((k - b) % st = 0)
  if s.grade = .b60 ∧ perPlateKey k then 0
  else if in_ Reg.timNow 8 1 then BitVec.ofNat 64 s.time
  else if in_ Reg.timStatus 8 1 then
    putF (putF (putF w F.timStatus_eff_root s.effRoot) F.timStatus_parent s.parent) F.timStatus_holdover (b2n s.holdover)
  else if in_ (Reg.wqePollStatus 0) 8 4 then putF w F.wqePollStatus_demand (s.pollDemand ((k - Reg.wqePollStatus 0) / 8))
  else if k = Reg.qpeTrkStatus then putF w F.qpeTrkStatus_in_use s.qpe.trk.length
  else if k = Reg.fabFlip then putF w F.fabFlip_old_held s.oldHeld
  else if k = Reg.vfmFnQuota 0 then s.quotaLeft
  else if k = Reg.cpfStatus then putF w F.cpfStatus_fifo_kib (s.cpf.fifo.foldl (fun a r => a + 16 + up16 r.data.length) 0 / 1024)
  else if k = Reg.cpfCycle then (if s.cpfRuns then BitVec.ofNat 64 s.cpfCycle else w)
  else if k = Reg.monAlarmStat then putF w F.monAlarmStat_count s.mon.alarmQ.length
  else if in_ (Reg.monAlarmRec 0) 8 4 then s.alarmWord ((k - Reg.monAlarmRec 0) / 8)
  else if in_ (Reg.pwrPlate 0) 8 64 then
    let p := (k - Reg.pwrPlate 0) / 8
    putF (putF (putF w F.pwrPlate_phase (s.plate p).phase) F.pwrPlate_pref (s.prefPoint p)) F.pwrPlate_floor (s.plateFloor p)
  else match pltOf k with
    | some p => if k = Reg.pltCtrl p then putF w F.pltCtrl_dmode (b2n (s.dmode p)) else w
    | none =>
      if Reg.mbxTx 0 ≤ k ∧ k < Reg.mbxTx 512 then s.mbxView ((k - Reg.mbxTx 0) / 64) ((k - Reg.mbxTx 0) % 64) w else w

end Sys2Proof.Machine
end

