-- ==== Sys2Proof/Machine/Boot.lean ====
section
/-! DEFINITION. Boot, reset, firmware images, configuration requests, management bus and test access (23_boot_reset.md,
24_module_interface.md R547-R556, 19_proof_store.md R464). -/

namespace Sys2Proof.Machine

/-! ### State after a reset (R541, Table 23-4) -/

/-- Whether a warm reset leaves a register's word as it is: meters and their shadows, `TOP_RESET`, quarantined cipher cores, the
spare maps, the health of the proof store. -/
def warmKeeps (k : Nat) : Bool :=
  (decide (Reg.vfmMeter 0 0 ≤ k) && decide (k < Reg.vfmMeter 1026 0)) || decide (k = Reg.topReset) || decide (k = Reg.cipCoreStatus) ||
    decide (k = Reg.prfPsHealth) || (match pltOf k with | some _ => decide (0x80 ≤ k % 0x100000) && decide (k % 0x100000 < 0xA0) | none => false)

/-- The registers that a reset leaves: those kept, and after a warm one `LOST` and `SPARES` of the plates, `FAULTED`, and domains
that are Faulted. -/
def State.resetRegs (s : State) (warm : Bool) : State :=
  let t : State := { s with regs := s.regs.filter fun e => if warm then warmKeeps e.1 else decide (e.1 = Reg.prfPsHealth) }
  if warm then
    let t := (List.range 64).foldl (fun t p =>
      let t := if s.lost p then t.pst p F.pltStatus_lost 1 else t
      let t := if s.rf (Reg.pltStatus p) F.pltStatus_spares = t.rf (Reg.pltStatus p) F.pltStatus_spares then t
        else t.pst p F.pltStatus_spares (s.rf (Reg.pltStatus p) F.pltStatus_spares)
      if s.on (Reg.vfmPlateOwner p) F.vfmPlateOwner_faulted then t.wf (Reg.vfmPlateOwner p) F.vfmPlateOwner_faulted 1 else t) t
    (List.range 96).foldl (fun t d => if s.pd d = 3 then t.wf (Reg.pwrDomain d) F.pwrDomain_state 3 else t) t
  else if t.psState = 3 then t.wf Reg.prfPsHealth F.prfPsHealth_state 0 else t

/-- The machine after a cold or warm reset with a value of `CAUSE`, before its boot. -/
def State.resetTo (s : State) (warm : Bool) (cause : Nat) : State :=
  let r := s.resetRegs warm
  let t : State := { ({} : State) with
    pending := s.pending, free := s.free, grade := s.grade, clk := s.clk, out := s.out, regs := r.regs
    time := if warm then s.time else 0, frac := if warm then s.frac else 0
    mon := { alarmQ := if warm then s.mon.alarmQ else [], logVol := s.mon.logVol }
    plt := { plates := if warm then s.plt.plates.map fun e => (e.1, { retired := e.2.retired, spent := e.2.spent }) else [] }
    ps := { s.ps with failed := false, waitCkpt := false }
    pm := { factory := s.pm.factory, plan := s.pm.plan }
    top := { s.top with stopped := false, held := false, hifLock := false, flr := [], staged := none, measures := [], ir := .idcode } }
  let t := t.wf Reg.topBootStatus F.topBootStatus_cause cause
  if s.top.stopped then t.emit .pin [1, 1] else t

/-- A reset of a module that has power: steps 1 to 3 of R534 first. Only a cold reset ends a stop (R533); a module that power
failure holds in reset takes none but its own (R550). -/
def State.resetRun (s : State) (warm : Bool) (cause : Nat) : State :=
  if s.top.held ∨ (warm ∧ s.top.stopped) then s else (s.powerDown true).resetTo warm cause

/-- PG_IN_RISE (R533, R548, R550): a cold reset; a module that power failure holds waits for its input voltage. REFSEL is
sampled. -/
def execPgInRise (refsel : Bool) (s : State) : Res :=
  .next <|
    let t : State := { s with top.pgIn := true, top.refsel := refsel }
    if s.top.held then t else t.resetTo false 0

/-- RESET_N_RELEASE (R533): a cold reset at the rising edge after 10 µs low. -/
def execResetNRelease (s : State) : Res := .next (s.resetRun false 1)

/-- TOP_RESET_COLD (R534). -/
def execTopResetCold (m : Nat) (s : State) : Res := .next (s.sw m Reg.topReset fun s => s.resetRun false 2)

/-- TOP_RESET_WARM (R534). -/
def execTopResetWarm (m : Nat) (s : State) : Res := .next (s.sw m Reg.topReset fun s => s.resetRun true 3)

/-- WATCHDOG_EXPIRY (R533). -/
def execWatchdogExpiry (s : State) : Res := .next (s.resetRun true 5)

/-- TAKEOVER_RECEIVED (R444, R533, R539): a warm reset with `NODE_OVR` = x. -/
def execTakeoverReceived (x : Nat) (s : State) : Res :=
  .next <|
    if s.top.held ∨ s.top.stopped then s
    else ((s.resetRun true 4).wf Reg.topReset F.topReset_node_ovr x).wf Reg.topReset F.topReset_node_ovr_en 1

/-- POWER_FAIL (R464, R547, R550, Table 19-5): PG_IN falls (pg), or VIN stays below 46 V. Data not yet programmed is lost, the
metadata is checkpointed unless the hold-up is low (R465), and the module holds itself in reset. -/
def execPowerFail (pg : Bool) (s : State) : Res :=
  .next <|
    let s : State := if pg then { s with top.pgIn := false } else s
    if s.top.held then s
    else
      let vols := s.ps.vols.map fun e => (e.1, { e.2 with buf := [] })
      let log := s.mon.logVol.take (s.mon.logVol.length * 32 / rowBytes * rowBytes / 32)
      let s : State := { s with ps.vols := vols, mon.logVol := log }
      let s := if s.ps.holdupLow ∨ s.psState = 3 then s else s.checkpoint
      let s : State := { s with ps.failed := true, top.held := true }
      (s.powerDown false).wf Reg.topBootStatus F.topBootStatus_ready 0

/-- VIN_IN_RANGE (R550): with PG_IN high, VIN has stayed in its range for 10 ms after a power failure: a cold reset. -/
def execVinInRange (s : State) : Res := .next (if s.top.held ∧ s.top.pgIn then s.resetTo false 0 else s)

/-! ### Images (R537, R538) -/

/-- n bytes of an image at an offset, little-endian. -/
def imgNat (img : List Byte) (o n : Nat) : Nat := leNat ((img.drop o).take n)

/-- What the check of an image comes to, as `TOP_FW_CMD.RESULT` codes it: 0 accepted. -/
def imageCheck (f : Fuses) (img : List Byte) : Nat :=
  let key := imgNat img 0x0A 1
  let svn := imgNat img 0x0B 1
  let len := imgNat img 0x0C 4
  let pub := (img.drop 0x40).take 96
  let sig := (img.drop 0xA0).take 96
  let magic := [0x55, 0x56, 0x39, 0x46, 0x57, 0x49, 0x4D, 0x47]
  if (img.take 8).map (·.toNat) ≠ magic ∨ imgNat img 8 2 ≠ 1 ∨ 3 < key ∨ 63 < svn ∨ img.length < 256 + len ∨ 2 ^ 23 < 256 + len ∨
      imgNat img 0x18 40 ≠ 0 then 1
  else if mget f.hashes key ≠ some (sha384 (nats pub)) ∨ f.revoked.contains key then 2
  else if svn < f.floor then 3
  else if ecdsaVerify (beNat (pub.take 48)) (beNat (pub.drop 48)) (sha384 (nats (img.take 0xA0 ++ (img.drop 256).take len)))
      (beNat (sig.take 48)) (beNat (sig.drop 48)) then 0
  else 4

/-- The digest that is measured of an image. -/
def imageDigest (img : List Byte) : Nat := sha384 (nats (img.take 0xA0 ++ (img.drop 256).take (imgNat img 0x0C 4)))

/-- The image in a slot. -/
def State.slotImage (s : State) (n : Nat) : List Byte := (mget s.top.flash.slots n).getD []

/-- The slot that the valid boot descriptor with the higher generation names. -/
def State.activeSlot (s : State) : Option Nat :=
  (s.top.flash.desc.foldl (fun (b : Option (Nat × Nat)) d =>
    if ¬ d.2.2 then b else match b with
      | some x => if x.1 < d.1 then some (d.1, d.2.1) else b
      | none => some (d.1, d.2.1)) none).map (·.2)

/-- The slot that boots, if one holds an image that is accepted, and whether it is the other one. -/
def State.bootSlot (s : State) : Option (Nat × Bool) :=
  match s.activeSlot with
  | none => none
  | some a =>
    if imageCheck s.top.fuses (s.slotImage a) = 0 then some (a, false)
    else if imageCheck s.top.fuses (s.slotImage (1 - a)) = 0 then some (1 - a, true)
    else none

/-! ### Boot (R535, R536, R539, R540) -/

/-- Boot halts with a value of `ERROR`: attach ports are held and quads stay off. -/
def State.bootHalt (s : State) (e : Nat) : State :=
  ((s.linksStop).wf Reg.topBootStatus F.topBootStatus_stage 0xFF).wf Reg.topBootStatus F.topBootStatus_error e

/-- The fields that the boot configuration record names written, of the blocks that p accepts. -/
def State.writeConfig (s : State) (p : Nat → Bool) : State :=
  ((s.top.flash.config.getD []).filter fun e => p (e.1 / 2 ^ 24)).foldl (fun t e =>
    match findReg e.1 with
    | some d => t.wr e.1 (softWrite false (t.rd e.1) e.2 d.flds)
    | none => t) s

/-- Of two incarnations, the later (R540). -/
def laterInc (a b : Nat) : Nat :=
  let d := (b + 65536 - a) % 65536
  if 1 ≤ d ∧ d ≤ 32767 then b else a

/-- The incarnation set (R540): one more than the later of the last checkpoint's and the log's, where they can be read, else
random. -/
def State.newInc (s : State) (ckptOk logOk : Bool) (rnd : Nat) : State :=
  let a := if ckptOk then some s.ps.ckptInc else none
  let b := if logOk then s.top.flash.incLog else none
  let old := match a, b with
    | some x, some y => some (laterInc x y)
    | some x, none => some x
    | none, y => y
  let n := match old with | some x => (x + 1) % 65536 | none => rnd % 65536
  let s : State := { (s.wf Reg.topInc F.topInc_inc n).wf Reg.topBootStatus F.topBootStatus_inc_random (b2n old.isNone) with
    top.flash.incLog := some n }
  if s.psState = 3 then s else s.checkpoint

/-- Volumes whose durable length passes what the last checkpoint says (R464). -/
def State.foundLosses (s : State) : List (Nat × Nat × Nat) :=
  s.ps.vols.filterMap fun e =>
    match mget s.ps.ckpt e.1 with
    | some x =>
      let n := s.durable e.1 - Vol.length x s.mon.logVol.length
      if n = 0 then none else some (e.1, e.2.owner, n)
    | none => none

/-- BOOT_IMAGE_VERIFIED (R535-R540): the boot ROM copies and verifies the image, else the other slot's; firmware starts, writes
the HIF fields and the channel table and locks them, sets the incarnation, and asks for the domains. -/
def execBootImageVerified (readable ckptOk logOk : Bool) (rnd : Nat) (s : State) : Res :=
  .next <|
    if s.rf Reg.topBootStatus F.topBootStatus_stage ≠ 0 ∨ s.top.held ∨ s.top.stopped then s
    else if ¬ readable then s.bootHalt 1
    else match s.bootSlot with
      | none => s.bootHalt 2
      | some (n, fb) =>
        let img := s.slotImage n
        let k := Reg.topBootStatus
        let s := ((s.wf k F.topBootStatus_slot n).wf k F.topBootStatus_fallback (b2n fb)).wf k F.topBootStatus_version (imgNat img 0x14 4)
        let s := (s.writeConfig fun b => decide (b = 1) || decide (b = 11)).wf Reg.mbxCtrl F.mbxCtrl_lock 1
        let s : State := { s with top.hifLock := true, top.measures := [imageDigest img], top.losses := s.foundLosses }
        let s := (s.newInc ckptOk logOk rnd).wf k F.topBootStatus_stage 3
        (List.range 96).foldl (fun t d => t.requestOn d false) s

/-- A word of limits lowered by 4 steps of k. -/
def lessFour (w : Word) : Word :=
  (List.range 8).foldl (fun a j => setFld a (6 * j + 5) (6 * j) (limCode (planK w j - 4))) w

/-- The frequency plan loaded: the FREQPLAN volume's, or, when it cannot be read, the factory limits less 4 steps (R520). -/
def State.loadPlan (s : State) (ok : Bool) : State :=
  if ok then s.pm.plan.foldl (fun t e => t.wr e.1 e.2) s
  else
    (List.range 64).foldl (fun t p => (List.range 35).foldl (fun t b =>
      (List.range 2).foldl (fun t h => t.wr (Reg.pwrFplan p b h) (lessFour (t.factoryWord p b h))) t) t) s

/-- The spare map of plate p derived from its plan: the lowest burins usable at OP15 are exposed, the others usable there are
spares (log 55). -/
def State.deriveMap (s : State) (p : Nat) : State :=
  let us := (List.range 34).filter fun b => decide (s.kLim p b 15 ≠ 0)
  let no := (List.range 34).filter fun b => decide (s.kLim p b 15 = 0)
  let ex := (us.take 32 ++ no.take (32 - us.length)).mergeSort fun a b => decide (a ≤ b)
  let s := (List.range 4).foldl (fun t i => t.wr (Reg.pltMap p i)
    (BitVec.ofNat 64 ((List.range 8).foldl (fun a j => a + ex.getD (8 * i + j) 0 * 2 ^ (6 * j)) 0))) s
  s.pst p F.pltStatus_spares (us.length - 32)

/-- The locks that firmware sets before `READY` (R539); the HIF and MBX locks are set already. -/
def State.setLocks (s : State) : State :=
  [5, 6, 7, 9, 12, 13, 14, 15].foldl (fun t b => match lockBit b with | some (r, f) => t.wf r f 1 | none => t) s

/-- A quad that the configuration enables starts to train (R535). -/
def State.quadStart (s : State) (n : Nat) : State :=
  if s.on (Reg.fabPort n) F.fabPort_en then
    (s.setLink n { s.link n with dim := s.rf (Reg.fabPort n) F.fabPort_dim, dir := s.rf (Reg.fabPort n) F.fabPort_dir,
                                 dateline := s.on (Reg.fabPort n) F.fabPort_dateline }).linkStart n
  else s

/-- BOOT_READY (R535, R536, R539, R464, R520): HBM is trained and zero, the plan and the programs are loaded, the tables are
written and locked. It waits until every domain that is not Faulted is On. -/
def execBootReady (hbmOk planOk fwOk : Bool) (s : State) : Res :=
  .next <|
    let k := Reg.topBootStatus
    if s.rf k F.topBootStatus_stage ≠ 3 ∨
        (List.range 96).any (fun d => decide (s.pd d < 2) && !(decide (d < 64) && s.absent d)) then s
    else if ¬ hbmOk then s.bootHalt 3
    else
      let s := s.loadPlan planOk
      let s := if s.rf k F.topBootStatus_cause ≤ 2 then
          (List.range 64).foldl (fun t p => if t.absent p then t else t.deriveMap p) s else s
      let s := s.writeConfig fun b => !(decide (b = 1) || decide (b = 11))
      let s := s.wf k F.topBootStatus_error (if s.top.flash.config.isNone then 4 else if fwOk then 0 else 5)
      let pos := s.node
      let s :=
        if s.on Reg.topReset F.topReset_node_ovr_en then
          let x := s.rf Reg.topReset F.topReset_node_ovr
          let t := (s.wf Reg.fabCtrl F.fabCtrl_node_id x).wf Reg.timCtrl F.timCtrl_role 2
          { t with fab.moves := mput t.fab.moves x pos }
        else s
      let s := (s.setLocks.wf Reg.icuCtrl F.icuCtrl_svc_mode 0).wf k F.topBootStatus_ready 1
      let s := s.wf k F.topBootStatus_stage 6
      let s := s.top.losses.foldl (fun t x => t.raise .warning 15 12 (fn := ownerFn x.2.1) (inst := x.1) (arg0 := 0) (arg1 := x.2.2)) s
      let s : State := { s with top.losses := [] }
      (List.range 12).foldl State.quadStart s

/-! ### Firmware commands (R538, Table 23-8) -/

/-- A command of `TOP_FW_CMD`, unless one is under way: it ends with a result. -/
def State.fwCmd (s : State) (m c : Nat) (act : State → State × Nat) : State :=
  s.sw m Reg.topFwCmd fun s =>
    let r := act (s.wf Reg.topFwCmd F.topFwCmd_cmd c)
    r.1.wf Reg.topFwCmd F.topFwCmd_result r.2

/-- STAGE (R538): the image at `DPA` is written to the slot that does not run, read back and verified. -/
def execStage (m : Nat) (flashOk : Bool) (s : State) : Res :=
  .next <|
    s.fwCmd m 1 fun s =>
      let n := s.rf Reg.topFwArg F.topFwArg_length * 64
      let slot := 1 - s.rf Reg.topBootStatus F.topBootStatus_slot
      if 2 ^ 23 < n then (s, 1)
      else
        let img := s.bytes (s.rf Reg.topFwArg F.topFwArg_dpa * 64) n
        let r := imageCheck s.top.fuses img
        if ¬ flashOk then ({ s with top.staged := none }, 5)
        else ({ s with top.flash.slots := mput s.top.flash.slots slot img, top.staged := if r = 0 then some slot else none }, r)

/-- The boot descriptors with the one of lower generation, or an invalid one, rewritten to name a slot. -/
def descCommit (l : List (Nat × Nat × Bool)) (slot : Nat) : List (Nat × Nat × Bool) :=
  let gen (d : Nat × Nat × Bool) : Nat := if d.2.2 then d.1 + 1 else 0
  let top := l.foldl (fun a d => max a (gen d)) 0
  match l with
  | [a, b] => if gen a ≤ gen b then [(top, slot, true), b] else [a, (top, slot, true)]
  | l => l

/-- COMMIT (R538). -/
def execCommit (m : Nat) (flashOk : Bool) (s : State) : Res :=
  .next <|
    s.fwCmd m 2 fun s =>
      match s.top.staged with
      | none => (s, 6)
      | some slot => if flashOk then ({ s with top.flash.desc := descCommit s.top.flash.desc slot }, 0) else (s, 5)

/-- RAISE_SVN (R538): the fused floor rises to the running image's `SVN`. -/
def execRaiseSvn (m : Nat) (s : State) : Res :=
  .next <|
    s.fwCmd m 3 fun s =>
      let svn := imgNat (s.slotImage (s.rf Reg.topBootStatus F.topBootStatus_slot)) 0x0B 1
      ({ s with top.fuses.floor := max s.top.fuses.floor svn }, 0)

/-! ### Configuration requests and PERST_N (R533, R536) -/

/-- The link half a function's requests come over. -/
def fnLink (f : Nat) : Nat × Nat := if f < 2048 then (0, 0) else ((f - 2048) / 2, f % 2)

/-- Messages of function f that nothing masks any more are sent (R494). -/
def State.msixRelease (s : State) (f : Nat) : State :=
  (s.icu.msix.filter fun e => decide (e.1 / 2048 = f) && e.2.pend).foldl (fun t e =>
    match execMsixUnmask f (e.1 % 2048) t with | .next u => u | _ => t) s

/-- What a configuration request sets. -/
def State.configure (s : State) (f : Nat) (r : CfgReq) : State :=
  let c := s.pci f
  let put (c : PciFn) : State := { s with icu.pci := mput s.icu.pci f c }
  match r with
  | .msix en mask => (put { c with msixEn := en, funcMask := mask }).msixRelease f
  | .power d => (put { c with d3hot := d }).msixRelease f
  | .ats en => put { c with atsEn := en }
  | .pasid en v => put { c with pasidEn := en, pasid := v % 2 ^ 20 }
  | .bar2 n => put { c with bar2 := n }
  | .vfEnable en => if f = 0 then { s with icu.vfEnable := en } else s
  | .doe => s

/-- CONFIGURATION_REQUEST (R536): Retry Status before `READY`; the DOE mailbox of the PF reports the measurements (R538). -/
def execConfigurationRequest (f : Nat) (r : CfgReq) (s : State) : Res :=
  .next <|
    let l := fnLink f
    if ¬ s.linkUp l.1 l.2 then s
    else if ¬ s.ready then s.emit .tlpCpl [l.1, l.2, 1]
    else (s.configure f r).emit .tlpCpl [l.1, l.2, 0] (if f = 0 ∧ r = .doe then s.top.measures.flatMap (beBytes 48) else [])

/-- PERST_N (R533): the port's links go down and retrain once it is high; port 0 also takes a function-level reset of the PF. -/
def execPerstN (port : Nat) (low : Bool) (s : State) : Res :=
  .next <|
    if 4 ≤ port then s
    else if ¬ low then { s with top.perst := sdel s.top.perst port }
    else
      let s : State := { s.portDown port with top.perst := sins s.top.perst port }
      let pci := s.icu.pci.filter fun e => decide (fnLink e.1 ≠ (port, 0)) && decide (fnLink e.1 ≠ (port, 1))
      let s : State := { s with icu.pci := pci }
      if port = 0 then s.flr 0 else s

/-! ### Management bus and test access (R555, R556) -/

/-- `MG_POWER` (Table 24-6a). -/
def State.mgPower (s : State) : Nat :=
  let ts := ((List.range 92).filter fun i => !s.sensorBad i && !(decide (i < 64) && s.absent i)).map fun i =>
    sgn16 (s.rf (Reg.pwrTherm i) F.pwrTherm_temp)
  let hot : Int := match ts with | [] => 0 | t :: l => l.foldl max t
  (hot % 65536).toNat * 2 ^ 48 + s.top.iin % 2 ^ 16 * 2 ^ 32 + s.top.vin % 2 ^ 16 * 2 ^ 16

/-- The 8 bytes of the management window at an offset (Table 24-5); with 3V3_AUX alone only the identity and the serial
number show. -/
def State.mgmtWord (s : State) (o : Nat) (aux : Bool) : Nat :=
  match o / 8 with
  | 0 => (s.view Reg.topId).toNat
  | 5 => s.top.serial % 2 ^ 64
  | n =>
    if aux then 0
    else match n with
      | 1 => (s.view Reg.topBootStatus).toNat
      | 2 => (s.view Reg.topInc).toNat
      | 3 => (s.view Reg.pwrStatus).toNat
      | 4 => (s.view Reg.monAlarmStat).toNat % 2 ^ 39
      | 6 => s.mgPower
      | _ => 0

/-- MGMT_READ (R555): a transfer reads the register that holds an offset; a read changes nothing. -/
def execMgmtRead (off : Nat) (aux : Bool) (s : State) : Res :=
  .next (s.emit .mgmt [off % 256] (leBytes 8 (s.mgmtWord (off % 256) aux)))

/-- The n low bits of a number, bit 0 first. -/
def bitsOf (v n : Nat) : List Nat := (List.range n).map fun i => b2n (nbit v i)

/-- What the test access port does while VIN and PG_IN are up. -/
def State.tapUp (s : State) (act : State → State) : State := if s.top.pgIn then act s else s

/-- TAP_BYPASS (R556): bits from TDI leave TDO one later, after a 0. -/
def execTapBypass (tdi : List Bool) (s : State) : Res :=
  .next <| s.tapUp fun s =>
    ({ s with top.ir := .bypass, top.dr := b2n (tdi.getLast? = some true) }).emit .tap (((false :: tdi).take tdi.length).map b2n)

/-- TAP_IDCODE (R556): the identity; bits [11:1] are not stated and are free values. -/
def execTapIdcode (s : State) : Res :=
  .next <| s.tapUp fun s =>
    let id := fld (s.rd Reg.topId) 7 4 * 2 ^ 28 + 0x0009 * 2 ^ 12 + s.freeVal.toNat % 2 ^ 11 * 2 + 1
    ({ s.draw with top.ir := .idcode, top.dr := id }).emit .tap (bitsOf id 32)

/-- TAP_SAMPLE_PRELOAD (R556): n boundary cells: the pins sampled are shifted out, and new values are shifted in. -/
def execTapSamplePreload (n pins load : Nat) (s : State) : Res :=
  .next <| s.tapUp fun s =>
    ({ s with top.ir := .sample, top.dr := pins % 2 ^ n, top.preload := load % 2 ^ n }).emit .tap (bitsOf pins n)

/-- TAP_EXTEST (R556): the module stops and leaves the fabric until a cold reset. -/
def execTapExtest (s : State) : Res :=
  .next <| s.tapUp fun s =>
    let s : State := { s with top.ir := .extest }
    if s.top.stopped then s else s.moduleStop true

end Sys2Proof.Machine
end

