-- ==== Sys2Proof/Machine/Cpf.lean ====
section
/-! DEFINITION. Counterproof: arming, origin, stop, self-test and verified reports (17_reproducibility.md R401, R402, R411-R416).
What the partner says comes with the command. -/

namespace Sys2Proof.Machine

/-! ### Identity and configuration digest -/

/-- Whether a key is an identity register: `TOP_INC`, the UMT addresses of an Ethernet port, a MAC address (R402). -/
def identityKey (k : Nat) : Bool :=
  decide (k = Reg.topInc) ||
    (decide (Reg.umtPort 0 ≤ k) && decide (k < Reg.umtPort 12) && decide ((k - Reg.umtPort 0) % 32 ≠ 0)) ||
    (decide (Reg.macAddr 0 0 ≤ k) && decide (k < Reg.macAddr 12 0) && decide ((k - Reg.macAddr 0 0) % 4096 < 128))

/-- The quad that a register of the fabric, the MACs, UMT or the hatch lists belongs to. -/
def quadOf (k : Nat) : Option Nat :=
  let of (b st hi : Nat) : Option Nat := if b ≤ k ∧ k < b + 12 * st ∧ (k - b) % st < hi then some ((k - b) / st) else none
  ((of (Reg.fabPort 0) 32 32).orElse fun _ => (of (Reg.macQuad 0) 4096 4096).orElse fun _ => (of (Reg.umtPort 0) 32 32).orElse fun _ =>
    (of (Reg.timHlCtrl 0) 64 64).orElse fun _ => (of (Reg.timHlEnt 0 0 0) 16384 16384).orElse fun _ => of (Reg.timShpPort 0 0) 64 64)

/-- The RW and RWL bits of a word. -/
def cfgBits (w : Word) (k : Nat) (fs : List Fld) : Nat :=
  fs.foldl (fun a f =>
    if (f.acc = .rw ∨ f.acc = .rwl) ∧ ¬ (k = Reg.fabCtrl ∧ f = F.fabCtrl_node_id) then a + fld w f.hi f.lo * 2 ^ f.lo else a) 0

/-- The configuration digest of Table 17-3: over every RW and RWL field, the CPF block, the quads of `TLINKS` and the identity
fields apart. -/
def State.cfgDig (s : State) : Nat :=
  (Config.cfgDigest (s.regs.filterMap fun e =>
    match findReg e.1 with
    | some d =>
      let skip := decide (e.1 / 2 ^ 24 = 16) || identityKey e.1 ||
        (match quadOf e.1 with | some q => nbit (s.rf Reg.cpfCtrl F.cpfCtrl_tlinks) q | none => false)
      if skip ∨ cfgBits e.2 e.1 d.flds = cfgBits (regReset s.grade e.1) e.1 d.flds then none else some (e.1, cfgBits e.2 e.1 d.flds)
    | none => none)).toNat

/-- The identity registers of a list taken on: of `FAB_CTRL` the node ID alone. -/
def State.takeIdentity (s : State) (l : List (Nat × Word)) : State :=
  l.foldl (fun t e =>
    if e.1 = Reg.fabCtrl then t.wf Reg.fabCtrl F.fabCtrl_node_id (fld e.2 F.fabCtrl_node_id.hi F.fabCtrl_node_id.lo)
    else if identityKey e.1 then t.wr e.1 e.2 else t) s

/-! ### Arming and stopping -/

/-- The lowest-numbered TRACE volume (R415). -/
def State.traceVol (s : State) : Option Nat := (s.ps.vols.find? fun e => decide (e.2.kind = .trace)).map (·.1)

/-- `CPF_CTRL.GO` with a role, while `STATE` is Off: Armed; the mismatch registers clear (R401). -/
def State.cpfGo (s : State) : State :=
  if s.rf Reg.cpfStatus F.cpfStatus_state ≠ 0 ∨ s.cpfRole = 0 then s
  else
    let s := (List.range 4).foldl (fun t i => (t.wr (Reg.cpfMismatchLead i) 0).wr (Reg.cpfMismatchFoll i) 0) s
    let s := (s.wf Reg.cpfStatus F.cpfStatus_state 1).wf Reg.cpfStatus F.cpfStatus_end_cause 0
    let vol := if s.cpfRole = 3 ∨ (s.cpfRole = 1 ∧ s.on Reg.cpfCtrl F.cpfCtrl_rec) then s.traceVol else none
    ({ s with cpf := { vol := vol } }).wf Reg.cpfCtrl F.cpfCtrl_go 1

/-- CPF_GO (R401). -/
def execCpfGo (m : Nat) (s : State) : Res := .next (s.sw m Reg.cpfCtrl State.cpfGo)

/-- `CPF_CTRL.STOP`: counterproof ends with cause 1, or returns from Ended to Off; a follower's plates are then reset, and its
functions are as after a function-level reset of the PF (R413). -/
def State.cpfStop (s : State) : State :=
  if s.rf Reg.cpfStatus F.cpfStatus_state = 3 then
    let foll := 2 ≤ s.cpfRole
    let s := (s.takeIdentity s.cpf.saved).wf Reg.cpfStatus F.cpfStatus_state 0
    let s : State := { s with cpf := {} }
    if foll then ((List.range 64).foldl State.plateReset s).flr 0 else s
  else s.cpfEnd 1

/-- CPF_STOP (R413). -/
def execCpfStop (m : Nat) (s : State) : Res := .next (s.sw m Reg.cpfCtrl State.cpfStop)

/-! ### The origin -/

/-- Whether the scope is quiescent (Table 17-3). -/
def State.quiescent (s : State) : Bool :=
  ((List.range 64).all fun p => !s.runs p) && (s.wqe.wqs.all fun e => decide (e.2.st = .disabled)) &&
    (s.qpe.qps.all fun e => decide (e.2.st ≠ .armed) && decide (e.2.st ≠ .active)) &&
    (s.col.groups.all fun e => decide (e.2.st ≠ .ready)) && !s.on Reg.fabFlip F.fabFlip_arm

/-- Whether 1 to 4 quads are trace links and each is an Active Amholt link (Table 17-3). -/
def State.trackLinksUp (s : State) : Bool :=
  let q := (List.range 12).filter fun n => nbit (s.rf Reg.cpfCtrl F.cpfCtrl_tlinks) n
  decide (1 ≤ q.length) && decide (q.length ≤ 4) && q.all s.linkUp4

/-- Whether a replaying module's FIFO holds `DELAY` cycles of records, or the whole trace (R416). -/
def State.fifoReady (s : State) : Bool :=
  let cyc := s.cpf.fifo.foldl (fun a r => max a r.cyc) 0
  let len := match s.cpf.vol.bind (mget s.ps.vols ·) with | some v => v.data.length | none => 0
  decide (s.cpf.fifo ≠ []) && (decide (s.cpfDelay ≤ cyc) || decide (len ≤ s.cpf.readPos))

/-- The conditions of Table 17-3 with what the partner says: `TOP_ID`, firmware version, digest, `DELAY`, and whether its time is
locked and one reference drives both. A replaying module checks the origin record against its own digest (R416). -/
def State.originOk (s : State) (top fw dig delay : Nat) (ok : Bool) : Bool :=
  s.quiescent &&
    (if s.cpfRole = 3 then
      (match s.cpf.fifo with
       | r :: _ => decide (r.kind = 1) && decide ((r.data.take 48) = beBytes 48 s.cfgDig)
       | [] => false)
    else
      decide (nbits top 39 0 = nbits (s.rd Reg.topId).toNat 39 0) && decide (fw = s.rf Reg.topBootStatus F.topBootStatus_version) && ok &&
        s.trackLinksUp && s.on Reg.timStatus F.timStatus_lock && decide (dig = s.cfgDig) && decide (delay = s.rf Reg.cpfCtrl F.cpfCtrl_delay))

/-- Cycle-relevant state of the scope as at its start: the schedulers' rounds and the poll schedule; translation caches empty
(R402). -/
def State.scopeReset (s : State) : State :=
  { s with
    wqe.sched := [], wqe.due := [], xlt.cache := [], xlt.wcache := []
    wqe.wqs := s.wqe.wqs.map fun e => (e.1, { e.2 with credit := 0, turn := 0, curBurst := 0 }) }

/-- CPF_ORIGIN_REACHED (R401, R402, R407, R415, R416): at the origin each module checks the conditions, resets the cycle-relevant
state of its scope and counts from 0; partners exchange frequency plans; a follower takes on the lead's identity; a lead sends its origin and its timebase value. -/
def execCpfOriginReached (top fw dig delay : Nat) (ok : Bool) (ident : List (Nat × Word)) (plan : List (Nat × Nat)) (s : State) : Res :=
  .next <|
    if s.rf Reg.cpfStatus F.cpfStatus_state ≠ 1 then s
    else if (if s.cpfRole = 3 then s.fifoReady else decide (s.rf Reg.cpfOrigin F.cpfOrigin_time ≤ s.time)) = false then s
    else if s.originOk top fw dig delay ok = false then s.cpfEnd 7
    else
      let s := s.scopeReset
      let dg := s.cfgDig
      let s := (s.wf Reg.cpfCtrl F.cpfCtrl_go 0).wf Reg.cpfStatus F.cpfStatus_state 2
      let s : State := { s with cpf.clk0 := s.clk, cpf.peerPlan := if s.cpfRole = 3 then [] else plan }
      if s.cpfRole = 1 then (s.traceOut 0 0x01 (beBytes 48 dg)).traceOut 0 0x08 (leBytes 8 s.time)
      else if s.cpfRole = 2 then
        let own := (ident.filter fun e => e.1 = Reg.fabCtrl ∨ identityKey e.1).map fun e => (e.1, s.rd e.1)
        ({ s with cpf.saved := own }).takeIdentity ident
      else s

/-! ### Comparators and reports -/

/-- The two comparators disagree, or one fails a self-test (Table 17-6, R411). -/
def State.cpfFault (s : State) (test : Bool) : State :=
  (s.raise .alarm 16 2 (arg0 := b2n test) (arg1 := s.cpfCycle)).cpfEnd 3

/-- COMPARATOR_SELFTEST (R411): the next observation and a copy with one bit inverted, judged by comparators A and B; `fa` and
`fb` say that one does not report the mismatch in time. Without an observation to come the test waits. -/
def execComparatorSelftest (fa fb : Bool) (s : State) : Res :=
  .next <|
    if ¬ s.follows then s
    else match s.cpf.fifo.find? fun r => decide (0x10 ≤ r.kind) && decide (r.kind < 0x1F) with
      | none => s
      | some r =>
        let s : State := { s with cpf.testBit := (s.cpf.testBit + 1) % (8 * (TraceRec_bytes r).length) }
        if fa ∨ fb then s.cpfFault true else s.incF Reg.cpfStatus F.cpfStatus_selftests 1

/-- The greatest lead cycle up to which every observation has matched: that before the oldest one not yet compared, if any is due
(R412). -/
def State.verified (s : State) : Nat :=
  let obs := s.cpf.own ++ s.cpf.fifo.filter fun r => decide (0x10 ≤ r.kind)
  obs.foldl (fun a r => min a (r.cyc - 1)) s.cpfCycle

/-- VERIFIED_REPORT (R412): a follower reports the verified lead cycle; the lead shows the cycle reported. -/
def execVerifiedReport (cyc : Nat) (s : State) : Res :=
  .next <|
    if s.follows then
      let t := s.wf Reg.cpfVerified F.cpfVerified_cycle s.verified
      if s.cpfRole = 2 then t.emit .trace [s.verified] else t
    else if s.leads then s.wf Reg.cpfVerified F.cpfVerified_cycle cyc
    else s

end Sys2Proof.Machine
end

