-- ==== Sys2Proof/Machine/Time.lean ====
section
/-! DEFINITION. The timebase, its discipline, snapshot ticks, hatch lists and buckets (10_time_and_gates.md): the rows
TIM_NOW_READ to BUCKET_WRITE. -/

namespace Sys2Proof.Machine

/-! ### Timebase -/

/-- TIM_NOW_READ (R223): the nanoseconds are answered and the matching fraction is latched. -/
def execTimNowRead (m : Nat) (s : State) : Res :=
  .next <|
    s.sw m Reg.timNow fun s =>
      (s.wf Reg.timNowFrac F.timNowFrac_frac (s.frac / 2 ^ 16)).emit .resp [m, regBase + Reg.timNow, 0] (leBytes 8 s.time)

/-- TIM_SET (R227, R228): with `ROLE` 0 or 1 the nanoseconds are set, the fraction becomes 0, and a root with `SRC` 0
locks. -/
def execTimSet (m : Nat) (v : Word) (s : State) : Res :=
  .next <|
    s.sw m Reg.timSet fun s =>
      if s.timeRole.1 = 2 then s
      else
        let s := s.jump v.toNat 0 true
        if s.timeRole = (1, 0) then s.setTlock true else s

/-- TIM_RATE_WRITE (R224): while `ROLE` is 0, the rate clamped to its range. -/
def execTimRateWrite (m : Nat) (v : Word) (s : State) : Res :=
  .next <|
    s.sw m Reg.timRate fun s =>
      if s.timeRole.1 = 0 then s.wf Reg.timRate F.timRate_rate (wrap 32 (clampRate (sgn 32 (fld v 31 0)))) else s

/-! ### Discipline -/

/-- The rate that the proportional-integral loop sets: its gains are not stated, so it is a free value, clamped (R224,
R227). -/
def State.slew (s : State) : State :=
  (s.wf Reg.timRate F.timRate_rate (wrap 32 (clampRate (sgn 32 (s.freeVal.toNat % 2 ^ 32))))).draw

/-- The lock rules on a sample: `inside` within the lock window, `outside` beyond four times it (R228). -/
def State.lockSample (s : State) (inside outside : Bool) : State :=
  let s := { s with tim.good := if inside then min 16 (s.tim.good + 1) else 0, tim.bad := if outside then min 16 (s.tim.bad + 1) else 0 }
  if s.tim.good = 16 then s.setTlock true else if s.tim.bad = 16 then s.setTlock false else s

/-- A sample of offset θ applied (R227): slewed, stepped or counted out of range. A root steered by PPS only slews. -/
def State.applySample (s : State) (theta : Int) (mayStep : Bool) : State :=
  let lim : Int := ((max 1 (s.rf Reg.timCtrl F.timCtrl_step) * 8 * 65536 : Nat) : Int)
  let win : Int := ((max 1 (s.rf Reg.timCtrl F.timCtrl_lock_ns) * 65536 : Nat) : Int)
  let mag : Int := max theta (-theta)
  let s := s.wf Reg.timStatus F.timStatus_offset (wrap 16 (max (-32767) (min 32767 (theta / 65536))))
  let s := { s with tim.lastSample := s.clk }
  if mag ≤ lim ∨ ¬ mayStep then (s.slew).lockSample (decide (mag ≤ win)) (decide (4 * win < mag))
  else if s.tlock then s.lockSample false true
  else
    let i : Int := ((s.time * 2 ^ 32 + s.frac : Nat) : Int) - theta * 65536
    let t : Nat := wrap 96 i
    let s := (s.incF Reg.timStatus F.timStatus_steps 1).jump (t / 2 ^ 32) (t % 2 ^ 32) false
    s.lockSample (decide (mag ≤ win)) (decide (4 * win < mag))

/-- TIME_SAMPLE (R225-R228): the oldest sample waiting is used if it comes from the source of the role in force, and
discarded otherwise. -/
def execTimeSample (s : State) : Res :=
  .next <|
    match s.tim.samples with
    | [] => s
    | (theta, port, lock) :: l =>
      let s := { s with tim.samples := l }
      let (role, src) := s.timeRole
      if role = 1 ∧ src = 1 ∧ port = 16 then s.applySample theta false
      else if role = 1 ∧ src = 2 ∧ port = 17 then s.applySample theta true
      else if role = 2 ∧ port < 12 ∧ port = s.parent ∧ lock then s.applySample theta true
      else s

/-- HOLDOVER_EXPIRY (R228): 10 ms without a usable sample clear `LOCK`. -/
def execHoldoverExpiry (s : State) : Res :=
  .next (if s.disciplined ∧ s.tim.lastSample + 10000000 ≤ s.clk then ({ s with tim.good := 0, tim.bad := 0 }).setTlock false else s)

/-- PTP_EXCHANGE (R231): a completed exchange on a root with `SRC` 2 yields one sample of offset θ, in 2^-16 ns. -/
def execPtpExchange (theta : Int) (s : State) : Res :=
  .next (if s.timeRole = (1, 2) then s.pushSample theta 17 true else s)

/-! ### Snapshot ticks -/

/-- The shadow of a counter (R91, R221, R525), if it has one. -/
def shadowOf (k : Nat) : Option Nat :=
  if Reg.vfmMeter 0 0 ≤ k ∧ k < Reg.vfmMeter 1026 0 ∧ (k - Reg.vfmMeter 0 0) % 256 < 128 then some (k + 0x80)
  else if Reg.macStat 0 0 ≤ k ∧ k < Reg.macStat 12 0 ∧ (k - Reg.macStat 0 0) % 4096 < 256 then some (k + 0x100)
  else if Reg.cipStat 0 ≤ k ∧ k < Reg.cipStat 4 then some (k + 0x80)
  else if Reg.prfPsStat 0 ≤ k ∧ k < Reg.prfPsStat 16 then some (k + 0x80)
  else if Reg.monEcc 0 ≤ k ∧ k < Reg.monEcc 64 then some (k + 0x200)
  else if Reg.monCapCount 0 ≤ k ∧ k < Reg.monCapCfg 64 ∧ 16 ≤ (k - Reg.monCapCfg 0) % 512 ∧ (k - Reg.monCapCfg 0) % 512 < 256 then
    some (k + 0x100)
  else none

/-- The counter whose shadow a key is. -/
def counterOf (k : Nat) : Option Nat :=
  [0x80, 0x100, 0x200].foldl (fun a d => match a with
    | some c => some c
    | none => if d ≤ k ∧ shadowOf (k - d) = some k then some (k - d) else none) none

/-- The counters that a tick has to look at: those listed, and those whose shadow is. -/
def State.counters (s : State) : List Nat :=
  s.regs.filterMap fun e => if (shadowOf e.1).isSome then some e.1 else counterOf e.1

/-- Every counter whose domain is not Off copied to its shadow (R525). -/
def State.copyShadows (s : State) : State :=
  s.counters.foldl (fun t k =>
    let off := match regDomain k with | some d => decide (s.pd d ≠ 2) | none => false
    match shadowOf k with
    | some h => if off then t else t.wr h (s.rd k)
    | none => t) s

/-- A snapshot tick (R232, R233, R525). -/
def State.snapshot (s : State) : State :=
  let s := s.copyShadows
  let s := (List.range 64).foldl (fun t u =>
    if t.on (Reg.monCapCfg u) F.monCapCfg_autoclr ∧ t.pd 94 = 2 then t.captureEmpty u else t) s
  let offs (i : Nat) : Nat := (List.range 64).foldl (fun a j => if 64 * i + j < 96 ∧ s.pd (64 * i + j) = 0 then a + 2 ^ j else a) 0
  let s := if s.pd 94 = 2 then (s.wr (Reg.monSnapOff 0) (BitVec.ofNat 64 (offs 0))).wr (Reg.monSnapOff 1) (BitVec.ofNat 64 (offs 1)) else s
  let s := s.wf Reg.timSnapStatus F.timSnapStatus_seq (s.rf Reg.timSnapStatus F.timSnapStatus_seq + 1)
  let s := s.wf Reg.timSnapStatus F.timSnapStatus_unlocked (b2n !s.tlock)
  let s := s.edge 0x61
  let p := s.rf Reg.timSnapCtrl F.timSnapCtrl_period * 1000
  let t := (s.rd Reg.timSnapTime).toNat
  if p = 0 then s.wf Reg.timSnapCtrl F.timSnapCtrl_arm 0
  else s.wr Reg.timSnapTime (BitVec.ofNat 64 (t + max 1 ((s.time - t) / p + 1) * p))

/-- Whether an armed tick is due (R232, R233). -/
def State.snapDue (s : State) : Bool := s.on Reg.timSnapCtrl F.timSnapCtrl_arm && decide ((s.rd Reg.timSnapTime).toNat ≤ s.time)

/-- SNAP_ARM (R233): a write of `TIM_SNAP_CTRL`; a time that is past when `ARM` is set ticks at once. -/
def execSnapArm (m : Nat) (v : Word) (s : State) : Res :=
  .next <|
    s.sw m Reg.timSnapCtrl fun s =>
      let s := s.softW Reg.timSnapCtrl v
      let s := if fld v 63 63 = 1 then s.wf Reg.timSnapCtrl F.timSnapCtrl_arm 1 else s
      if fld v 63 63 = 1 ∧ s.snapDue then s.snapshot else s

/-- SNAPSHOT_TICK (R232). -/
def execSnapshotTick (s : State) : Res := .next (if s.snapDue then s.snapshot else s)

/-! ### Hatch lists -/

/-- HATCH_ENTRY_BOUNDARY (R236): `ENTRY` of port n shows the entry now in force. -/
def execHatchEntryBoundary (n : Nat) (s : State) : Res := .next (if n < 12 then s.hlEntry n else s)

/-- The instant of a swap asked for now (R239). -/
def State.swapInstant (s : State) (n : Nat) : Nat :=
  let o := s.hlOrigin n
  let b := max s.time (s.rf (Reg.timHlBase n (1 - s.hlBank n)) F.timHlBase_base)
  if s.on (Reg.timHlCtrl n) F.timHlCtrl_en ∧ o ≤ s.time then o + cdiv (b - o) (segLen (s.hlCycle n (s.hlBank n))) * segLen (s.hlCycle n (s.hlBank n))
  else b

/-- The banks of port n swapped at their instant, if it has come (R239). -/
def State.hlSwap (s : State) (n : Nat) : State :=
  match (mget s.tim.hatch n).bind (·.swapAt) with
  | none => s
  | some t =>
    if t ≤ s.time then
      let s := (s.wf (Reg.timHlCtrl n) F.timHlCtrl_active (1 - s.hlBank n)).wf (Reg.timHlCtrl n) F.timHlCtrl_swap 0
      ({ s with tim.hatch := mput s.tim.hatch n ⟨some t, none⟩ }).hlEntry n
    else s

/-- HATCH_SWAP_REQUEST (R239): a write of `TIM_HL_CTRLn`; `SWAP` fixes the instant of the swap, or sets `ERR` when one is
pending. -/
def execHatchSwapRequest (m n : Nat) (v : Word) (s : State) : Res :=
  .next <|
    if 12 ≤ n then s
    else s.sw m (Reg.timHlCtrl n) fun s =>
      let k := Reg.timHlCtrl n
      let s := s.softW k v
      if fld v 63 63 = 0 then s
      else if s.on k F.timHlCtrl_swap then s.wf k F.timHlCtrl_err 1
      else
        let s := s.wf k F.timHlCtrl_swap 1
        let h := (mget s.tim.hatch n).getD {}
        ({ s with tim.hatch := mput s.tim.hatch n { h with swapAt := some (s.swapInstant n) } }).hlSwap n

/-- HATCH_SWAP (R239). -/
def execHatchSwap (n : Nat) (s : State) : Res := .next (s.hlSwap n)

/-! ### Buckets -/

/-- A refill under the register's values (R242, R245). -/
def State.refill (s : State) (k at_ : Nat) : State :=
  match mget s.tim.buckets k with
  | some b =>
    let n := bucketOf (s.rd k) 0 at_
    { s with tim.buckets := mput s.tim.buckets k { n with count := min (b.count + n.quantum) n.burst } }
  | none => s

/-- BUCKET_REFILL (R242, R245): the bucket of a register refills at the end of its period. -/
def execBucketRefill (key : Nat) (s : State) : Res :=
  .next <|
    match mget s.tim.buckets key with
    | some b => if s.on key F.timShpFn_en ∧ b.last + b.period * 8 ≤ s.clk then s.refill key (b.last + b.period * 8) else s
    | none => s

/-- BUCKET_WRITE (R242, R245): a write of a bucket's register. -/
def execBucketWrite (m key : Nat) (v : Word) (s : State) : Res :=
  .next <|
    if ¬ bucketKey key then s
    else s.sw m key fun s =>
      let t := s.softW key v
      if fld v 63 63 = 0 then { t with tim.buckets := mdel t.tim.buckets key }
      else match mget s.tim.buckets key with
        | none => { t with tim.buckets := mput t.tim.buckets key (bucketOf v (max 1 (fld v 47 32)) s.clk) }
        | some b =>
          if fld v 62 62 = 0 then t
          else
            let n := bucketOf v (min b.count (max 1 (fld v 47 32))) b.last
            let t := { t with tim.buckets := mput t.tim.buckets key n }
            if n.last + n.period * 8 ≤ s.clk then t.refill key s.clk else t

end Sys2Proof.Machine
end

