-- ==== Sys2Proof/Machine/RegWrite.lean ====
section
/-! DEFINITION. Software writes and reads of registers by key (00_scope.md R6-R10): what a 64-bit write does in each block, with
the commands that writing an action bit starts. -/

namespace Sys2Proof.Machine

/-- The state that a row leaves. -/
def after (r : Res) (s : State) : State := match r with | .next t => t | _ => s

/-- Which register of an array a key is. -/
def ix (k b st n : Nat) : Option Nat := if b ≤ k ∧ k < b + st * n ∧ (k - b) % st = 0 then some ((k - b) / st) else none

/-- A bit of a word. -/
def wbit (v : Word) (i : Nat) : Bool := decide (fld v i i = 1)

/-! ### Writes, block by block -/

/-- TOP: resets and firmware commands (Tables 23-6 to 23-9); the boot flash shows no error. -/
def State.writeTop (s : State) (m k : Nat) (v : Word) : State :=
  if k = Reg.topReset then
    if wbit v 63 then after (execTopResetCold m s) s else if wbit v 62 then after (execTopResetWarm m s) s else s
  else if k = Reg.topFwCmd ∧ wbit v 63 then
    match fld v 7 0 with
    | 1 => after (execStage m true s) s
    | 2 => after (execCommit m true s) s
    | 3 => after (execRaiseSvn m s) s
    | c => s.fwCmd m c fun s => (s, 1)
  else s.softW k v

/-- HIF (Tables 2-7 to 2-13): clearing a down bit deasserts its interrupt source. -/
def State.writeHif (s : State) (m k : Nat) (v : Word) : State :=
  if let some n := ix k (Reg.hifPortCfg 0) 256 4 then after (execLinkEnWrite m n v s) s
  else if let some n := ix k (Reg.hifPortStatus 0) 256 4 then
    let t := s.softW k v
    (t.level (0x50 + 2 * n) (t.on k F.hifPortStatus_down0)).level (0x51 + 2 * n) (t.on k F.hifPortStatus_down1)
  else if k = Reg.hifBiasCmd ∧ wbit v 63 then after (execBiasCmdGo m v s) s
  else s.softW k v

/-- XLT (Tables 3-5 to 3-8). -/
def State.writeXlt (s : State) (m k : Nat) (v : Word) : State :=
  if let some f := ix k (Reg.xltFnCfg 0) 16 1025 then after (execXltDevEnWrite m f v s) s
  else if let some f := ix k (Reg.xltInvCmd 0) 16 1025 then
    if wbit v 63 then after (execXltInvGo m f v s) s else s.softW k v
  else s.softW k v

/-- `VFM_FN_CTRLf` (Table 4-7): `ERR`, then each action bit, then `EN`. -/
def State.fnCtrlWrite (s : State) (f : Nat) (v : Word) : State :=
  let k := Reg.vfmFnCtrl f
  let s := s.wr k (softWrite false (s.rd k) v [F.vfmFnCtrl_err])
  let s := if wbit v 7 then s.mtrClr f else s
  let s := if fld v 0 0 = fld (s.rd k) 0 0 then s else s.enWrite f (wbit v 0)
  let s := if wbit v 5 then s.scrubStart f else s
  if wbit v 3 then s.flr f else s

/-- VFM (Tables 4-7 to 4-13). -/
def State.writeVfm (s : State) (m k : Nat) (v : Word) : State :=
  let f := (k - Reg.vfmFnCtrl 0) / 64
  if f ≤ 1024 then
    match (k - Reg.vfmFnCtrl 0) % 64 / 8 with
    | 0 => s.fnCtrlWrite f v
    | 1 => s.grantWrite f 1 v
    | 2 => s.grantWrite f 2 v
    | 3 => s.grantWrite f 3 v
    | 4 => s.dlogBaseWrite f 0 v
    | 5 => s.dlogBaseWrite f 1 v
    | 6 => if wbit v 63 then after (execDlogHarvestGo m f v s) s else s.softW k v
    | _ => s
  else if let some p := ix k (Reg.vfmPlateOwner 0) 8 64 then s.ownerWrite p v
  else s.softW k v

/-- The command registers of function f at offset 0 of its block's page; a write while `GO` reads 1 is ignored. Anything else on the
page but `other` is a plain register. -/
def State.writeCmd (s : State) (k : Nat) (v : Word) (act : Nat → Nat → State) : State :=
  if wbit (s.rd k) 63 then s
  else if wbit v 63 then act (fld v 39 32) (fld v 31 0)
  else s.softW k v

/-- WQE (Tables 5-9 to 5-13). -/
def State.writeWqe (s : State) (k : Nat) (v : Word) : State :=
  if let some f := ix k (Reg.wqeCmd 0) 256 1025 then
    s.writeCmd k v fun c o =>
      let obj := o % 65536
      match c with
      | 1 => after (execCreateWq f s) s
      | 2 => after (execModifyWq f obj s) s
      | 3 => after (execEnableWq f obj s) s
      | 4 => after (execDisableWq f obj s) s
      | 5 => after (execDestroyWq f obj s) s
      | 6 => after (execQueryWq f obj s) s
      | 8 => after (execCreateCq f s) s
      | 9 => after (execResumeCq f obj s) s
      | 10 => after (execDestroyCq f obj s) s
      | 11 => after (execQueryCq f obj s) s
      | _ => s.wqeCmd f c obj fun s => s.wqeEnd f 1
  else if let some f := ix k (Reg.wqeCqArm 0) 256 1025 then after (execCqArm f v s) s
  else if let some f := ix k (Reg.wqeWqKick 0) 256 1025 then after (execWqKick f (fld v 15 0) s) s
  else s.softW k v

/-- A write of `QPE_FN_TRKf`: refused where the reserved entries of all functions would exceed 512 (R140). -/
def State.trkWrite (s : State) (f : Nat) (v : Word) : State :=
  let t := s.softW (Reg.qpeFnTrk f) v
  let res := (t.regs.filter fun e => (ix e.1 (Reg.qpeFnTrk 0) 8 1025).isSome).foldl (fun a e => a + fld e.2 9 0) 0
  if 512 < res then s.refuse f (Reg.qpeFnTrk f) else t

/-- QPE (Tables 6-3 to 6-9). -/
def State.writeQpe (s : State) (k : Nat) (v : Word) : State :=
  if let some f := ix k (Reg.qpeFnTrk 0) 8 1025 then s.trkWrite f v
  else if let some f := ix k (Reg.qpeCmd 0) 256 1025 then
    s.writeCmd k v fun c o =>
      let obj := o % 2 ^ 24
      match c with
      | 1 => after (execCreateQp f obj s) s
      | 2 => after (execModifyQp f obj s) s
      | 3 => after (execArmQp f obj s) s
      | 4 => after (execResetQp f obj s) s
      | 5 => after (execDestroyQp f obj s) s
      | 6 => after (execQueryQp f obj s) s
      | 8 => after (execRegister f s) s
      | 9 => after (execDeregister f obj s) s
      | 10 => after (execQueryRegion f obj s) s
      | _ => s.qpeCmd f c obj fun s => s.qpeEnd f 1
  else if let some f := ix k (Reg.qpeRevoke 0) 256 1025 then
    if wbit v 63 then after (execRevoke f v s) s
    else if wbit (s.rd k) 63 then s.wr k (softWrite false (s.rd k) v [F.qpeRevoke_done, F.qpeRevoke_err])
    else s.softW k v
  else s.softW k v

/-- 8 bytes written into the inactive program bank; ignored while `SWAP` is 1 (R169). -/
def State.imemWrite (s : State) (o : Nat) (v : Word) : State :=
  let b := 1 - s.rf Reg.umtCcCtrl F.umtCcCtrl_active
  if wbit (s.rd Reg.umtCcCtrl) 63 then s
  else
    let m := ((leBytes 8 v.toNat).zipIdx).foldl (fun m x => dput m 0 (o + x.2) x.1) ((mget s.qpe.ccBank b).getD [])
    { s with qpe.ccBank := mput s.qpe.ccBank b m }

/-- UMT (Tables 7-8 to 7-13). -/
def State.writeUmt (s : State) (m k : Nat) (v : Word) : State :=
  if Reg.umtCcImem ≤ k ∧ k < Reg.umtCcImem + 0x10000 then s.imemWrite (k - Reg.umtCcImem) v
  else if let some n := ix k (Reg.umtPort 0) 32 12 then
    let was := s.on k F.umtPort_en
    let t := s.softW k v
    if was ∧ ¬ t.on k F.umtPort_en then after (execUmtPortEnClear m n t) t else t
  else if k = Reg.umtCcCtrl then
    let t := s.softW k v
    if wbit v 63 then after (execCcSwap m t) t else t
  else s.softW k v

/-- FAB (Tables 8-12 to 8-20). -/
def State.writeFab (s : State) (m k : Nat) (v : Word) : State :=
  if k = Reg.fabFlip then after (execFlipArm m v s) s
  else if let some n := ix k (Reg.fabPort 0) 32 12 then after (execFabPortEnWrite m n v s) s
  else s.softW k v

/-- MAC (Tables 9-5 to 9-9). -/
def State.writeMac (s : State) (m k : Nat) (v : Word) : State :=
  if let some n := ix k (Reg.macQuad 0) 4096 12 then after (execMacQuadReconfig m n v s) s
  else if let some n := ix k (Reg.macRawRx 0) 4096 12 then after (execRawRingEnable m n false v s) s
  else if let some n := ix k (Reg.macRawTx 0) 4096 12 then after (execRawRingEnable m n true v s) s
  else s.softW k v

/-- Port and bank of a hatch list whose cycle, base or entry a key is. -/
def hatchOf (k : Nat) : Option (Nat × Nat) :=
  let o := k - Reg.timHlCtrl 0
  if Reg.timHlCtrl 0 ≤ k ∧ o < 64 * 12 ∧ 8 ≤ o % 64 ∧ o % 64 < 40 then some (o / 64, (o % 64 - 8) / 8 % 2)
  else
    let e := k - Reg.timHlEnt 0 0 0
    if Reg.timHlEnt 0 0 0 ≤ k ∧ e < 16384 * 12 then some (e / 16384, e % 16384 / 8192) else none

/-- TIM (Tables 10-2 to 10-9): a write to the active bank of a hatch list is ignored and sets `ERR` (R239). -/
def State.writeTim (s : State) (m k : Nat) (v : Word) : State :=
  if k = Reg.timRate then after (execTimRateWrite m v s) s
  else if k = Reg.timSet then after (execTimSet m v s) s
  else if k = Reg.timSnapCtrl then after (execSnapArm m v s) s
  else if bucketKey k then after (execBucketWrite m k v s) s
  else if let some n := ix k (Reg.timHlCtrl 0) 64 12 then after (execHatchSwapRequest m n v s) s
  else if let some (n, b) := hatchOf k then
    if b = s.hlBank n then s.wf (Reg.timHlCtrl n) F.timHlCtrl_err 1 else s.softW k v
  else s.softW k v

/-- CIP (Tables 11-8 to 11-12). -/
def State.writeCip (s : State) (k : Nat) (v : Word) : State :=
  if k = Reg.cipCmd then
    if wbit (s.rd k) 63 then s
    else if wbit v 63 then
      match fld v 7 0 with
      | 1 => after (execInstall s) s
      | 2 => after (execReplace s) s
      | 3 => after (execDelete s) s
      | 4 => after (execQuery s) s
      | 5 => after (execSave s) s
      | 6 => after (execRestore s) s
      | 7 => after (execSetKek s) s
      | c => s.cipCmd c fun s => s.cipEnd 1
    else s.softW k v
  else s.softW k v

/-- The registers of mailbox channel c at offset o of its 64 bytes (Table 20-6, R472). -/
def State.mbxWrite (s : State) (m c o : Nat) (v : Word) : State :=
  if o = 0 then after (execMbxSend m c v s) s
  else if o = 0x18 then
    let t := s.wr (Reg.mbxRxStat c) (softWrite false (s.rd (Reg.mbxRxStat c)) v [F.mbxRxStat_underflow])
    if wbit v 63 then after (execMbxPop m c t) t else t
  else s.softW (Reg.mbxTx c + o) v

/-- ICU (Tables 20-7 to 20-10). -/
def State.writeIcu (s : State) (m k : Nat) (v : Word) : State :=
  if let some i := ix k (Reg.icuSrc 0) 8 4096 then after (execIcuSrcWrite m i v s) s
  else if let some t := ix k (Reg.icuComplete 0) 32 4 then after (execIcuComplete m t (fld v 11 0) s) s
  else s.softW k v

/-- PWR (Tables 21-4 to 21-14): a member whose `SHIFT_EN` is 0 is in fall-back (R513); `TRIP` is clamped (R518). -/
def State.writePwr (s : State) (m k : Nat) (v : Word) : State :=
  if k = Reg.pwrCtrl then
    let t := s.softW k v
    if t.on k F.pwrCtrl_shift_en then t
    else (({ t with pm.shifted := none } : State).wf Reg.pwrStatus F.pwrStatus_fallback 1).chg s
  else if k = Reg.pwrCap then after (execCapWrite m v s) s
  else if k = Reg.pwrReplan then
    let t := s.softW k v
    if wbit v 63 then after (execReplan (some m) t) t else t
  else if let some d := ix k (Reg.pwrDomain 0) 8 96 then s.domainWrite d v
  else if let some c := ix k (Reg.pwrThermLim 0) 8 3 then
    let t := s.softW k v
    t.wf k F.pwrThermLim_trip (min (maxTrip c) (t.rf k F.pwrThermLim_trip))
  else s.softW k v

/-- MON (Tables 22-8 to 22-13). -/
def State.writeMon (s : State) (m k : Nat) (v : Word) : State :=
  if k = Reg.monAlarmStat then (if wbit v 63 then after (execAlarmPop m s) s else s)
  else if let some f := ix k (Reg.monLog 0) 32 1025 then after (execLogRingEnable m f v s) s
  else if let some f := ix k (Reg.monLogIdx 0) 32 1025 then after (execLogHeadWrite m f v s) s
  else if k = Reg.monTrace then after (execLogRingEnable m 2000 v s) s
  else if k = Reg.monTraceIdx then after (execLogHeadWrite m 2000 v s) s
  else if let some u := ix k (Reg.monCapCfg 0) 512 64 then after (execCaptureClear m u false v s) s
  else if let some u := ix k (Reg.monCapBase 0) 512 64 then after (execCaptureClear m u true v s) s
  else s.softW k v

/-- PRF (Tables 18-8, 18-9, 19-7, 19-8); the pages of host memory that a job table would need come with the rows of their own. -/
def State.writePrf (s : State) (m k : Nat) (v : Word) : State :=
  if let some f := ix k (Reg.prfCmd 0) 256 1025 then
    s.writeCmd k v fun c o =>
      let obj := o % 64
      match c with
      | 1 => after (execCreateJob f [] s) s
      | 2 => after (execAddRegion f s) s
      | 3 => after (execRemoveRegion f obj s) s
      | 4 => after (execBindQp f s) s
      | 5 => after (execBindCommitWq f s) s
      | 6 => after (execStep f s) s
      | 7 => after (execResume f s) s
      | 8 => after (execRestoreFlash f s) s
      | 9 => after (execDestroyJob f s) s
      | 10 => after (execAddSpares f [] s) s
      | _ => s.prfCmd f c obj fun s => s.prfEnd f 1
  else if k = Reg.prfPsCmd then
    if wbit (s.rd k) 63 then s
    else if wbit v 63 then
      match fld v 7 0 with
      | 1 => after (execCreateVol m s) s
      | 2 => after (execDeleteVol m s) s
      | 3 => after (execQueryVol m s) s
      | 4 => after (execVolumeRead m 0 0 none s) s
      | 5 => after (execVolumeWrite m [] s) s
      | 6 => after (execTruncate m s) s
      | c => s.psCmd m c fun s => s.psEnd 1
    else s.softW k v
  else s.softW k v

/-- CPF (Tables 17-8 to 17-10): while `STATE` is not Off, `ROLE`, `REC`, `TLINKS` and `DELAY` keep; a pinned plate count that is 0 or
above the exposed count is refused (R77). -/
def State.writeCpf (s : State) (k : Nat) (v : Word) : State :=
  if k = Reg.cpfCtrl then
    let free := [F.cpfCtrl_lock, F.cpfCtrl_state_cmp, F.cpfCtrl_on_mismatch]
    let all := free ++ [F.cpfCtrl_role, F.cpfCtrl_rec, F.cpfCtrl_tlinks, F.cpfCtrl_delay]
    let s := s.wr k (softWrite false (s.rd k) v (if s.rf Reg.cpfStatus F.cpfStatus_state = 0 then all else free))
    let s := if wbit v 61 then s.cpfStop else s
    if wbit v 62 then s.cpfGo else s
  else if let some f := ix k (Reg.cpfVgeom 0) 8 1025 then
    if fld v 6 0 = 0 ∨ s.grade.plates < fld v 6 0 then s.refuse f k else s.softW k v
  else s.softW k v

/-- COL (Tables 16-9, 16-10). -/
def State.writeCol (s : State) (k : Nat) (v : Word) : State :=
  if let some f := ix k (Reg.colCmd 0) 256 1025 then
    s.writeCmd k v fun c o =>
      let obj := o % 4096
      match c with
      | 1 => after (execCreateGroup f s) s
      | 2 => after (execSetRing f obj s) s
      | 3 => after (execSetProg f obj s) s
      | 4 => after (execEnableGroup f obj [] s) s
      | 5 => after (execDisableGroup f obj s) s
      | 6 => after (execDestroyGroup f obj s) s
      | 7 => after (execQueryGroup f obj s) s
      | _ => s.colCmd f c obj fun s => s.colEnd f 1
  else s.softW k v

/-- PLT of plate p (Tables 12-5 to 12-10): `DMODE` keeps while `RUN` is 1 or counterproof runs; of the action bits `RESET` goes before
`STOP` and `STOP` before `START`; digests keep during a load (R275, R279). -/
def State.writePlt (s : State) (m p k : Nat) (v : Word) : State :=
  if k = Reg.pltCtrl p then
    let fs := if s.runs p ∨ s.cpfRuns then [F.pltCtrl_bar_stall_us] else [F.pltCtrl_bar_stall_us, F.pltCtrl_dmode]
    let s := s.wr k (softWrite false (s.rd k) v fs)
    if wbit v 2 then s.plateReset p
    else if wbit v 1 then (s.abandonLoad p).plateStop p 2
    else if wbit v 0 then s.startPlate p
    else s
  else if k = Reg.pltLoad p then (if wbit v 0 then after (execLoadGo m p v s) s else s.softW k v)
  else if (ix k (Reg.pltDigest p 0) 8 6).isSome then (if (s.plate p).load.isSome then s else s.softW k v)
  else if let some d := ix k (Reg.pltDisp p 0) 8 8 then after (execDispLimitWrite m p d v s) s
  else s.softW k v

/-- A 64-bit write of v by master m to the register at a key, its address checked already; registers of plates and domains that the
grade has not ignore it (R2), and so does an offset with no register (R8, R21). -/
def State.regWrite (s : State) (m k : Nat) (v : Word) : State :=
  if s.grade = .b60 ∧ perPlateKey k then s
  else if Reg.mbxTx 0 ≤ k ∧ k < Reg.mbxTx 512 then s.mbxWrite m ((k - Reg.mbxTx 0) / 64) ((k - Reg.mbxTx 0) % 64) v
  else if Reg.umtCcImem ≤ k ∧ k < Reg.umtCcImem + 0x10000 then s.writeUmt m k v
  else if (findReg k).isNone then s
  else match pltOf k with
    | some p => s.writePlt m p k v
    | none =>
      match k / 2 ^ 24 with
      | 0 => s.writeTop m k v
      | 1 => s.writeHif m k v
      | 2 => s.writeXlt m k v
      | 3 => s.writeVfm m k v
      | 4 => s.writeWqe k v
      | 5 => s.writeQpe k v
      | 6 => s.writeUmt m k v
      | 7 => s.writeFab m k v
      | 8 => s.writeMac m k v
      | 9 => s.writeTim m k v
      | 10 => s.writeCip k v
      | 12 => s.writeIcu m k v
      | 13 => s.writePwr m k v
      | 14 => s.writeMon m k v
      | 15 => s.writePrf m k v
      | 16 => s.writeCpf k v
      | 17 => s.writeCol k v
      | _ => s.softW k v

/-! ### Reads -/

/-- A read of n bytes from key k on, its address checked already: the bytes, and what the read leaves: RC fields wholly covered
cleared, the fraction that a read of `TIM_NOW` latches (R223), the source that a read of `ICU_CLAIMt` claims (R487). A read across
an 8-byte boundary returns 0 and leaves all as it is (R6). -/
def State.regRead (s : State) (k n : Nat) : State × List Byte :=
  if 8 < k % 8 + n then (s, List.replicate n 0)
  else
    let r := k / 8 * 8
    let cut (w : Nat) : List Byte := ((leBytes 8 w).drop (k % 8)).take n
    if r = Reg.timNow then (s.wf Reg.timNowFrac F.timNowFrac_frac (s.frac / 2 ^ 16), cut s.time)
    else if let some t := ix r (Reg.icuClaim 0) 32 4 then ((s.icuClaim t).1, cut (s.icuClaim t).2)
    else match findReg r with
      | some d => (s.wr r (readClears (k % 8) n (s.rd r) d.flds), cut (softRead (s.view r) d.flds).toNat)
      | none => (s, List.replicate n 0)

end Sys2Proof.Machine
end

