-- ==== Sys2Proof/Machine/Bus.lean ====
section
/-! DEFINITION. Accesses that reach the device by address (00_scope.md R6-R10, 01_architecture.md R19-R25, 02_attach_ports.md
R33-R39, R56, 04_tenancy.md R83): requests of on-chip masters, the host's registers and its window onto HBM. -/

namespace Sys2Proof.Machine

/-! ### Register space on the on-chip network -/

/-- The warning of a partial write (R7, Table 22-7). -/
def State.evPartial (s : State) (m a : Nat) : State :=
  let k := a - regBase
  s.raise .warning 0 1 (fn := s.masterFn m) (inst := if (pltOf k).isSome then 0xFF else k / 2 ^ 24) (arg0 := m % 4096) (arg1 := a)

/-- Blocks of registers that lie in the counterproof scope (17_reproducibility.md R400). -/
def scopeKey (k : Nat) : Bool :=
  (pltOf k).isSome || [2, 4, 5, 6, 10, 17].contains (k / 2 ^ 24)

/-- Whether a master stands outside the counterproof scope and writes into it: a control core, the proof manager, the counterproof
unit (Table 17-4). -/
def outsider (m : Nat) : Bool := isCore m || isUnit m

/-- A write of bytes at a DPA of the scope by a master outside it: an input, which the lead records and a follower takes only from
the trace (R403, R404). -/
def State.intoScope (s : State) (m a : Nat) (bs : List Byte) (act : State → State) : State :=
  if outsider m ∧ (a < hbmEnd ∨ (winPlate a).isSome ∨ scopeKey (a - regBase)) then
    if s.leads then s.letIn (m % 256) 0x09 (leBytes 8 a ++ bs) act
    else if s.follows ∨ s.cpf.halted then s
    else act s
  else act s

/-- n bytes of register space read by a master, or 0 where its checks turn it away. -/
def State.busRead (s : State) (m a n : Nat) : State × List Byte :=
  match s.check m a with
  | some t => (t, List.replicate n 0)
  | none => s.regRead (a - regBase) n

/-- Bytes written to register space by a master: 8 bytes at an aligned offset are a write, anything else a partial write (R6, R7). -/
def State.busWrite (s : State) (m a : Nat) (bs : List Byte) : State :=
  match s.check m a with
  | some t => t
  | none =>
    if bs.length = 8 ∧ a % 8 = 0 then
      s.intoScope m a bs fun s => s.regWrite m (a - regBase) (BitVec.ofNat 64 (leNat bs))
    else s.evPartial m a

/-! ### The host's view of registers -/

/-- What an offset of PF BAR0 shows (Table 2-5): a register key; an MSI-X table offset; a pending-bit offset. -/
inductive BarReg where
  | reg (k : Nat)
  | table (o : Nat)
  | pba (o : Nat)
  | unmapped
  deriving DecidableEq, Repr

/-- PF BAR0 (Table 2-5). -/
def bar0Of (o : Nat) : BarReg :=
  if o < 0x2400000 then .reg (o / 0x200000 * 2 ^ 24 + o % 0x200000)
  else if o < 0x2408000 then .table (o - 0x2400000)
  else if 0x2480000 ≤ o ∧ o < 0x2480100 then .pba (o - 0x2480000)
  else if 0x3000000 ≤ o ∧ o < 0x4000000 then .reg (0x20000000 + (o - 0x3000000) / 0x40000 * 0x100000 + o % 0x40000)
  else .unmapped

/-- The mailbox channel in slot i of VF n's page (R473). -/
def State.mbxSlot (s : State) (n i : Nat) : Option Nat :=
  ((List.range 512).filter fun c => s.mbxEn c && (decide (s.mbxSender c = n) || decide (s.mbxReceiver c = n)))[i]?

/-- What an 8-byte entry of VF n's register page shows (Table 4-4 and the chapters it names), and whether the VF only reads it;
none for a reserved offset. -/
def State.pageOf (s : State) (n o : Nat) : Option (BarReg × Bool) :=
  let r (k : Nat) : Option (BarReg × Bool) := some (.reg k, false)
  let ro (k : Nat) : Option (BarReg × Bool) := some (.reg k, true)
  if o < 0x20 then ro (Reg.vfmFnCtrl n + o)
  else if o = 0x100 then r (Reg.xltFnRoot n)
  else if o = 0x108 then r (Reg.xltInvCmd n)
  else if o = 0x110 then r (Reg.xltInvStatus n)
  else if o = 0x200 then ro (Reg.vfmDlogBase n 0)
  else if o = 0x208 then r (Reg.vfmDlogCmd n)
  else if 0x400 ≤ o ∧ o < 0x500 then ro (Reg.vfmMeter n 0 + (o - 0x400))
  else if 0x1000 ≤ o ∧ o < 0x1100 then r (Reg.wqeCmd n + (o - 0x1000))
  else if 0x4000 ≤ o ∧ o < 0x4100 then r (Reg.qpeCmd n + (o - 0x4000))
  else if 0x5000 ≤ o ∧ o < 0x5100 then r (Reg.colCmd n + (o - 0x5000))
  else if 0x6000 ≤ o ∧ o < 0x6100 then r (Reg.prfCmd n + (o - 0x6000))
  else if 0x7000 ≤ o ∧ o < 0x7200 then
    (s.mbxSlot n ((o - 0x7000) / 64)).map fun c => (.reg (Reg.mbxTx c + (o - 0x7000) % 64), false)
  else if o = 0x7400 then r (Reg.pwrPref n)
  else if o = 0x7800 then r (Reg.monLog n)
  else if o = 0x7808 then r (Reg.monLogIdx n)
  else if 0x8000 ≤ o ∧ o < 0x8400 then some (.table (o - 0x8000), false)
  else if 0x9000 ≤ o ∧ o < 0x9008 then some (.pba (o - 0x9000), true)
  else none

/-- 64-bit word of a function's MSI-X table at an offset: the message address, or its data with the vector's mask in bit 32 (R492). -/
def State.msixWord (s : State) (f o : Nat) : Nat :=
  let e := s.msixEnt f (o / 16)
  if o % 16 < 8 then e.addr else e.data + b2n e.mask * 2 ^ 32

/-- A 64-bit write of an entry of a function's MSI-X table; a vector no longer masked sends what it holds pending (R494). -/
def State.msixWrite (s : State) (f o : Nat) (v : Word) : State :=
  let e := s.msixEnt f (o / 16)
  let e := if o % 16 < 8 then { e with addr := v.toNat } else { e with data := fld v 31 0, mask := wbit v 32 }
  let t : State := { s with icu.msix := mput s.icu.msix (f * 2048 + o / 16) e }
  after (execMsixUnmask f (o / 16) t) t

/-- 64 pending bits of a function. -/
def State.pbaWord (s : State) (f o : Nat) : Nat :=
  (List.range 64).foldl (fun a i => a + b2n (s.msixEnt f (o / 8 * 64 + i)).pend * 2 ^ i) 0

/-- n bytes that function f reads from what a BAR shows. -/
def State.barRead (s : State) (f : Nat) (b : BarReg) (o n : Nat) : State × List Byte :=
  let cut (w : Nat) : List Byte := if 8 < o % 8 + n then List.replicate n 0 else ((leBytes 8 w).drop (o % 8)).take n
  match b with
  | .reg k =>
    if f = 0 then s.busRead 0 (regBase + k) n
    else if s.mapped (regBase + k) then s.regRead k n
    else (s.evUnmapped f (regBase + k), List.replicate n 0)
  | .table t => (s, cut (s.msixWord f (t / 8 * 8)))
  | .pba t => (s, cut (s.pbaWord f (t / 8 * 8)))
  | .unmapped => (s.evUnmapped f o, List.replicate n 0)

/-- A 64-bit write by function f to what a BAR shows. -/
def State.barWrite (s : State) (f : Nat) (b : BarReg) (o : Nat) (v : Word) : State :=
  match b with
  | .reg k =>
    if f = 0 then s.busWrite 0 (regBase + k) (leBytes 8 v.toNat)
    else if s.mapped (regBase + k) then s.regWrite f k v
    else s.evUnmapped f (regBase + k)
  | .table t => s.msixWrite f (t / 8 * 8) v
  | .pba _ => s
  | .unmapped => s.evUnmapped f o

/-- A memory request of the host to function f over a link half: refused with UR before `READY`, in D3hot, and for a VF that VF Enable
does not show (R536); a posted one is then dropped. An input of the counterproof scope (R403). -/
def State.hostReq (s : State) (n h f : Nat) (posted : Bool) (kind : Nat) (args : List Nat) (data : List Byte) (act : State → State) :
    State :=
  if ¬ s.linkUp n h then s
  else if ¬ s.ready ∨ (s.pci f).d3hot ∨ (1 ≤ f ∧ f ≤ 1024 ∧ ¬ s.icu.vfEnable) then (if posted then s else s.cpl n h 2 [])
  else s.letIn (n * 2 + h) 2 (Config.tlpBytes kind args data) act

/-- REGISTER_READ (R6, R9, R33, R83): n bytes of a register read by a master, by the PF through BAR0, or by VF k through its page. -/
def execRegisterRead (m : Nat) (t : RegTgt) (n : Nat) (s : State) : Res :=
  .next <|
    if n ≠ 1 ∧ n ≠ 2 ∧ n ≠ 4 ∧ n ≠ 8 then s
    else match t with
    | .dpa a =>
      if a < regBase then s
      else
        let r := s.busRead m a n
        r.1.emit .resp [m, a, b2n (s.check m a).isSome] r.2
    | .bar0 o => s.hostReq 0 0 0 false 17 [o, n] [] fun s =>
        let r := s.barRead 0 (bar0Of o) o n
        r.1.cpl 0 0 0 r.2
    | .page k o =>
      if k = 0 ∨ 1024 < k then s
      else s.hostReq 0 0 k false 17 [k, o, n] [] fun s =>
        match s.pageOf k (o / 8 * 8) with
        | some (.reg key, _) =>
          let r := s.barRead k (.reg (key + o % 8)) o n
          r.1.cpl 0 0 0 r.2
        | some (b, _) =>
          let r := s.barRead k b o n
          r.1.cpl 0 0 0 r.2
        | none => s.cpl 0 0 0 (List.replicate n 0)

/-- A write of n bytes by a target: `act` where it is a 64-bit write of a register, `part` where it is a partial one. -/
def State.regTarget (s : State) (m : Nat) (t : RegTgt) (data : List Byte) (act : BarReg → Nat → Nat → State → State)
    (part : Nat → Nat → State → State) (n : Nat) : State :=
  match t with
  | .dpa a => if a < regBase then s else if n = 8 ∧ a % 8 = 0 then act (.reg (a - regBase)) 0x1000 a s else part m a s
  | .bar0 o => s.hostReq 0 0 0 true 18 [o, n] data fun s =>
      if n = 8 ∧ o % 8 = 0 then act (bar0Of o) 0 o s
      else match bar0Of o with
        | .reg k => part 0 (regBase + k) s
        | .unmapped => s.evUnmapped 0 o
        | _ => s
  | .page k o =>
    if k = 0 ∨ 1024 < k then s
    else s.hostReq 0 0 k true 18 [k, o, n] data fun s =>
      match s.pageOf k (o / 8 * 8) with
      | some (b, ro) =>
        if n = 8 ∧ o % 8 = 0 then (if ro then s else act b k o s)
        else match b with
          | .reg key => part k (regBase + key + o % 8) s
          | _ => s
      | none => s

/-- REGISTER_WRITE (R2, R6, R8-R10, R21, R33, R77, R83, R140, R193, R239, R275, R391, R397, R473): a 64-bit aligned write. -/
def execRegisterWrite (m : Nat) (t : RegTgt) (v : Word) (s : State) : Res :=
  .next <|
    s.regTarget m t (leBytes 8 v.toNat)
      (fun b f o s => match b with
        | .reg k => if f = 0x1000 then s.busWrite m (regBase + k) (leBytes 8 v.toNat) else s.barWrite f b o v
        | _ => s.barWrite f b o v)
      (fun m a s => if (s.check m a).isSome then (s.check m a).getD s else s.evPartial m a) 8

/-- PARTIAL_WRITE (R7): a write of n bytes that is not 64 bits at an 8-byte-aligned offset. -/
def execPartialWrite (m : Nat) (t : RegTgt) (n : Nat) (s : State) : Res :=
  .next <|
    s.regTarget m t [] (fun _ _ _ s => s)
      (fun m a s =>
        if m ≤ 1024 ∧ 1 ≤ m then (if s.mapped a then s.evPartial m a else s.evUnmapped m a)
        else match s.check m a with
          | some u => u
          | none => s.evPartial m a) n

/-- BLOCK_LOCK (R10, R30): the lock bit of a block is set; the HIF lock is the control cores' alone. -/
def execBlockLock (m blk : Nat) (s : State) : Res :=
  .next <|
    match lockBit blk with
    | some (r, f) => s.sw m r fun s => s.wf r f 1
    | none => if blk = 1 ∧ isCore m then { s with top.hifLock := true } else s

/-! ### Requests to memory -/

/-- What an AtomicOp on n bytes leaves, from the old value and its operand (Table 2-2). -/
def atomicNew (op : AtomicOp) (n old v : Nat) : Nat :=
  match op with
  | .fetchAdd => (old + v) % 2 ^ (8 * n)
  | .swap => v % 2 ^ (8 * n)
  | .cas c => if old = c % 2 ^ (8 * n) then v % 2 ^ (8 * n) else old

/-- Bytes of HBM that an access of n bytes counts: whole 32-byte words (Table 4-5). -/
def hbmWords (a n : Nat) : Nat := if n = 0 then 0 else ((a + n - 1) / 32 + 1 - a / 32) * 32

/-- HBM traffic of a master metered to the function it acts for (R89). -/
def State.hbmMeter (s : State) (m i a n : Nat) : State :=
  match s.actsFor m with
  | some f => if a < hbmEnd then s.meter f i (hbmWords a n) else s
  | none => s

/-- Whether a window access must wait for a plate's zeroing (R79). -/
def State.zeroing (s : State) (a : Nat) : Bool :=
  match winPlate a with
  | some p => (s.plate p).resetting
  | none => false

/-- n bytes at a DPA as a master reads them: a word of a plate's memories with a double-bit error reads 0 (R264). -/
def State.reqBytes (s : State) (a n : Nat) (e : Env) : List Byte :=
  ((s.devBytes a n e.host).zipIdx).map fun x => if (winPlate a).isSome && e.dbe.contains ((a + x.2) / 8) then 0 else x.1

/-- The errors that reading n bytes at a DPA finds in a plate's memories, reported and counted (R264). -/
def State.reqErrors (s : State) (a n : Nat) (e : Env) : State :=
  match winPlate a with
  | some p => (e.dbe.filter fun w => decide (a / 8 ≤ w) && decide (w ≤ (a + n - 1) / 8)).foldl (fun t w => t.evEcc (w * 8)) (s.countSbe p e.sbe)
  | none => s

/-- MEMORY_REQUEST (R2, R19-R23, R39, R58, R80, R85, R264, R280, R423): a request of master m for n bytes at a DPA: a read, a write of
`data`, or an AtomicOp with operand `data`. One that is turned away returns 0 and changes nothing; one to a plate that is being zeroed
waits. -/
def execMemoryRequest (m : Nat) (acc : Access) (op : AtomicOp) (a n : Nat) (data : List Byte) (e : Env) (s : State) : Res :=
  .next <|
    let wr := decide (acc ≠ .read)
    let n := if acc = .write then data.length else n
    if n = 0 then s
    else if regBase ≤ a then
      match acc with
      | .write => (s.busWrite m a data).emit .resp [m, a, b2n (s.check m a).isSome]
      | _ =>
        let r := s.busRead m a n
        r.1.emit .resp [m, a, b2n (s.check m a).isSome] r.2
    else match s.dpaCheck m a n wr with
    | some t => t.emit .resp [m, a, 1] (if acc = .write then [] else List.replicate n 0)
    | none =>
      if s.zeroing a then s
      else
        let rd (t : State) : State := ((t.reqErrors a n e).cxlReqs 0 a n).hbmMeter m 4 a n
        match acc with
        | .read => (rd s).emit .resp [m, a, 0] (s.reqBytes a n e)
        | .write => s.intoScope m a data fun s => ((s.devStore a data).hbmMeter m 5 a n).emit .resp [m, a, 0]
        | .atomic =>
          let old := s.reqBytes a n e
          let new := leBytes n (atomicNew op n (leNat old) (leNat data))
          s.intoScope m a new fun s => (((rd s).devStore a new).hbmMeter m 5 a n).emit .resp [m, a, 0] old

/-! ### The host's window (R34-R38, R56) -/

/-- Link half and function of a window. -/
def winFn : Bar2 → Nat × Nat × Nat
  | .pf => (0, 0, 0)
  | .vf n => (0, 0, n)
  | .port n h => (n, h, portFn n h)

/-- The segment of a port function's window that an offset lies in (R35). -/
def State.winSeg (s : State) (f off : Nat) : Nat := off * 4096 / 2 ^ (s.pci f).bar2

/-- How a window offset of n bytes maps: the master ID, the DPA, whether it lies in the window's range, whether writes are allowed. -/
def State.winMap (s : State) (w : Bar2) (off n : Nat) : Nat × Nat × Bool × Bool :=
  match w with
  | .pf =>
    let a := s.rf Reg.hifWinBase F.hifWinBase_base * 2 ^ 26 + off
    (0, a, decide (a + n ≤ hbmEnd), true)
  | .vf k =>
    let r := s.part k
    (k, r.1 + off, decide (r.1 + off + n ≤ r.2), true)
  | .port p h =>
    let o := Reg.hifInbOwner p (s.winSeg (portFn p h) off)
    (s.rf o F.hifInbOwner_master, off, decide (off + n ≤ hbmEnd) && decide (off + n ≤ 2 ^ (s.pci (portFn p h)).bar2),
      s.on o F.hifInbOwner_wr_en)

/-- Whether a window is one that the module has. -/
def winIs : Bar2 → Bool
  | .pf => true
  | .vf n => decide (1 ≤ n) && decide (n ≤ 1024)
  | .port n h => decide (n < 4) && decide (h < 2) && !(decide (n = 0) && decide (h = 0))

/-- The numbers that name a window. -/
def winArgs : Bar2 → List Nat
  | .pf => [0]
  | .vf n => [1, n]
  | .port n h => [2, n, h]

/-- The checks of a window access: refused by its segment or by R23, or unmapped; none where it goes on. -/
def State.winCheck (s : State) (w : Bar2) (off n : Nat) (wr : Bool) : Option State :=
  let (m, a, inside, wrOk) := s.winMap w off n
  if m = 0xFFF ∨ (wr ∧ ¬ wrOk) then some (s.evViolation m a)
  else if ¬ inside then some (s.evUnmapped m a)
  else s.dpaCheck m a n wr

/-- Whether a window access meets a page whose flip is under way (R41). -/
def State.winWaits (s : State) (a n : Nat) : Bool := (pagesOf a n).any s.flipping

/-- Bytes with those that the byte enables select replaced. -/
def mergeBytes : List Byte → List Byte → List Bool → List Byte
  | o :: os, d :: ds, e :: es => (if e then d else o) :: mergeBytes os ds es
  | os, _, _ => os

/-- HOST_BAR2_WRITE (R34-R36, R39, R43, R56, R85): a memory write of any byte-enable pattern. -/
def execHostBar2Write (w : Bar2) (off : Nat) (data : List Byte) (be : List Bool) (s : State) : Res :=
  .next <|
    let (n, h, f) := winFn w
    if ¬ winIs w ∨ ¬ be.contains true ∨ be.length ≠ data.length then s
    else s.hostReq n h f true 19 (winArgs w ++ [off] ++ be.map b2n) data fun s =>
      match s.winCheck w off data.length true with
      | some t => t
      | none =>
        let (m, a, _, _) := s.winMap w off data.length
        if s.winWaits a data.length then s
        else
          let t := (s.store a (mergeBytes (s.bytes a data.length) data be)).hbmMeter m 5 a data.length
          match s.actsFor m with
          | some g => t.meter g 3 data.length
          | none => t

/-- A completion's data in pieces of at most 256 B (R37). -/
def pieces256 : Nat → List Byte → List (List Byte)
  | 0, _ => []
  | k + 1, l => if l.length ≤ 256 then [l] else l.take 256 :: pieces256 k (l.drop 256)

/-- HOST_BAR2_READ (R34, R35, R37, R39, R56): a read of at most 4,096 B is answered in completions of at most 256 B. -/
def execHostBar2Read (w : Bar2) (off n : Nat) (s : State) : Res :=
  .next <|
    let (p, h, f) := winFn w
    if ¬ winIs w ∨ 4096 < n then s
    else s.hostReq p h f false 20 (winArgs w ++ [off, n]) [] fun s =>
      let answer (t : State) (bs : List Byte) : State := (pieces256 17 bs).foldl (fun t b => t.cpl p h 0 b) t
      match s.winCheck w off n false with
      | some t => answer t (List.replicate n 0)
      | none =>
        let (m, a, _, _) := s.winMap w off n
        if s.winWaits a n then s
        else
          let t := s.hbmMeter m 4 a n
          let t := match s.actsFor m with
            | some g => t.meter g 3 n
            | none => t
          answer t (s.bytes a n)

/-- HOST_ATOMICOP (R34, R35, R38, R56): FetchAdd and Swap on 4 or 8 bytes, CAS on 4, 8 or 16, at a multiple of their size; others are
unsupported requests. -/
def execHostAtomicop (w : Bar2) (op : AtomicOp) (off n v : Nat) (s : State) : Res :=
  .next <|
    let (p, h, f) := winFn w
    if ¬ winIs w then s
    else s.hostReq p h f false 21 (winArgs w ++ [off, n, v] ++ (match op with | .fetchAdd => [0] | .swap => [1] | .cas c => [2, c])) [] fun s =>
      let isCas : Bool := match op with | .cas _ => true | _ => false
      if ¬ (n = 4 ∨ n = 8 ∨ (n = 16 ∧ isCas)) ∨ off % n ≠ 0 then s.cpl p h 2 []
      else match s.winCheck w off n true with
        | some t => t.cpl p h 0 (List.replicate n 0)
        | none =>
          let (m, a, _, _) := s.winMap w off n
          if s.winWaits a n then s
          else
            let old := s.bytes a n
            let t := (s.store a (leBytes n (atomicNew op n (leNat old) v))).hbmMeter m 5 a n
            let t := match s.actsFor m with
              | some g => t.meter g 3 n
              | none => t
            t.cpl p h 0 old

end Sys2Proof.Machine
end

