-- ==== Sys2Proof/Machine/Flags.lean ====
section
/-! DEFINITION. The sticky flags of the cores and the rounding modes (13_burin_isa.md Tables 13-3 and 13-4,
15_arithmetic.md R339-R345), and the stochastic-rounding generator (R342). -/

namespace Sys2Proof.Machine

/-- A set of flags, as `FLAGS[4:0]` holds it. -/
abbrev Flags := Nat

/-- The flags (R315): IV [4], DZ [3], OF [2], UF [1], IX [0]. -/
def Flags.iv : Flags := 16
@[inherit_doc Flags.iv] def Flags.dz : Flags := 8
@[inherit_doc Flags.iv] def Flags.of : Flags := 4
@[inherit_doc Flags.iv] def Flags.uf : Flags := 2
@[inherit_doc Flags.iv] def Flags.ix : Flags := 1

/-- The flags of both (R345). -/
def Flags.or (a b : Flags) : Flags := a ||| b

/-- A flag when the condition holds. -/
def Flags.when (c : Bool) (f : Flags) : Flags := if c then f else 0

/-- Rounding modes (R339, R341). -/
inductive RMode where
  | rne | rtz | rup | rdn | sr
  deriving DecidableEq, Repr

/-- `MODE.RND`; 5-7 are treated as 0 (Table 13-4). -/
def RMode.ofMode : Nat → RMode
  | 1 => .rtz
  | 2 => .rup
  | 3 => .rdn
  | 4 => .sr
  | _ => .rne

/-- The mode an instruction's `RND` field selects under a MODE (R285). -/
def RMode.ofField (mode : Nat) : Nat → RMode
  | 1 => .rne
  | 2 => .rtz
  | 3 => .rup
  | 4 => .rdn
  | 5 => .sr
  | _ => .ofMode (mode % 8)

/-- How an instruction rounds: the mode, `DAZ` and `FTZ` (R344). -/
structure Rnd where
  mode : RMode
  daz : Bool
  ftz : Bool
  deriving DecidableEq, Repr

/-- The rounding under a MODE with an instruction's `RND` field. -/
def Rnd.ofMode (mode field : Nat) : Rnd := ⟨.ofField mode field, nbit mode 4, nbit mode 3⟩

/-- Whether rounding draws (R343). -/
def Rnd.draws (r : Rnd) : Bool := decide (r.mode = .sr)

/-! ### The generator (R342) -/

/-- The state after a draw. -/
def srNext (x : Nat) : Nat :=
  let x := if x = 0 then 0x9E3779B97F4A7C15 else x
  let x := x ^^^ (x * 2 ^ 13 % 2 ^ 64)
  let x := x ^^^ (x / 2 ^ 7)
  x ^^^ (x * 2 ^ 17 % 2 ^ 64)

/-- The draw that leaves this state: bits [63:40] of the product. -/
def srDraw (x : Nat) : Nat := x * 0x2545F4914F6CDD1D % 2 ^ 64 / 2 ^ 40

/-- n draws and the state after them; where rounding does not draw, zeros and the same state. -/
def srTake (on : Bool) : Nat → Nat → List Nat × Nat
  | 0, x => ([], x)
  | n + 1, x =>
    if on then
      let y := srNext x
      let r := srTake on n y
      (srDraw y :: r.1, r.2)
    else (0 :: (srTake on n x).1, x)

end Sys2Proof.Machine
end

