-- ==== Sys2Proof/Machine/Float.lean ====
section
/-! DEFINITION. Number formats and arithmetic (15_arithmetic.md): every result is the exact result, rounded once. An
exact magnitude is m * 2^e, with a flag that says whether the value lies above it by less than one unit of m (quotients
and roots are cut off 128 bits down). -/

namespace Sys2Proof.Machine

/-- How a format spends the all-ones exponent (R334). -/
inductive FKind where
  | ieee | e4m3 | e2m1
  deriving DecidableEq, Repr

/-- A floating-point format (Table 15-1): exponent and mantissa bits. -/
structure Fmt where
  ebits : Nat
  mbits : Nat
  kind : FKind := .ieee
  deriving DecidableEq, Repr

/-- FP64 (Table 15-1). -/
def Fmt.fp64 : Fmt := ⟨11, 52, .ieee⟩
/-- FP32. -/
def Fmt.fp32 : Fmt := ⟨8, 23, .ieee⟩
/-- FP16. -/
def Fmt.fp16 : Fmt := ⟨5, 10, .ieee⟩
/-- BF16. -/
def Fmt.bf16 : Fmt := ⟨8, 7, .ieee⟩
/-- E5M2. -/
def Fmt.e5m2 : Fmt := ⟨5, 2, .ieee⟩
/-- E4M3. -/
def Fmt.e4m3 : Fmt := ⟨4, 3, .e4m3⟩
/-- E2M1. -/
def Fmt.e2m1 : Fmt := ⟨2, 1, .e2m1⟩

/-- The bias. -/
def Fmt.bias (f : Fmt) : Int := (2 ^ (f.ebits - 1) : Nat) - 1

/-- The exponent of the smallest normal. -/
def Fmt.emin (f : Fmt) : Int := 1 - f.bias

/-- The exponent of the smallest subnormal. -/
def Fmt.qmin (f : Fmt) : Int := f.emin - f.mbits

/-- The code of the largest finite magnitude M. -/
def Fmt.maxCode (f : Fmt) : Nat :=
  match f.kind with
  | .ieee => (2 ^ f.ebits - 1) * 2 ^ f.mbits - 1
  | .e4m3 => 0x7E
  | .e2m1 => 7

/-- The code of +infinity, of the formats that have one. -/
def Fmt.infCode (f : Fmt) : Nat := (2 ^ f.ebits - 1) * 2 ^ f.mbits

/-- The weight of the sign bit. -/
def Fmt.sign (f : Fmt) : Nat := 2 ^ (f.ebits + f.mbits)

/-- The canonical NaN (R335). -/
def Fmt.nan (f : Fmt) : Nat :=
  match f.kind with
  | .ieee => f.infCode + 2 ^ (f.mbits - 1)
  | _ => 0x7F

/-- A code with a sign. -/
def Fmt.signed (f : Fmt) (neg : Bool) (c : Nat) : Nat := if neg then f.sign + c else c

/-- A value: NaN (signalling or not), infinity, or a sign and m * 2^e. -/
inductive FVal where
  | nan (sig : Bool)
  | inf (neg : Bool)
  | fin (neg : Bool) (m : Nat) (e : Int)
  deriving DecidableEq, Repr

/-- The value of a code (R334, R335). -/
def Fmt.dec (f : Fmt) (b : Nat) : FVal :=
  let neg := nbit b (f.ebits + f.mbits)
  let ex := b / 2 ^ f.mbits % 2 ^ f.ebits
  let m := b % 2 ^ f.mbits
  if f.kind = .ieee ∧ ex = 2 ^ f.ebits - 1 then (if m = 0 then .inf neg else .nan (!nbit m (f.mbits - 1)))
  else if f.kind = .e4m3 ∧ b % 128 = 127 then .nan false
  else if ex = 0 then .fin neg m f.qmin
  else .fin neg (m + 2 ^ f.mbits) (f.qmin + (ex - 1 : Nat))

/-- Whether a code is subnormal. -/
def Fmt.subnormal (f : Fmt) (b : Nat) : Bool := decide (b / 2 ^ f.mbits % 2 ^ f.ebits = 0) && decide (b % 2 ^ f.mbits ≠ 0)

/-- An operand as an instruction reads it, under `DAZ` where it applies (R344). -/
def Fmt.read (f : Fmt) (daz : Bool) (b : Nat) : FVal :=
  if daz ∧ f.subnormal b then .fin (nbit b (f.ebits + f.mbits)) 0 f.qmin else f.dec b

/-- Whether a value is a signalling NaN. -/
def FVal.snan : FVal → Bool
  | .nan s => s
  | _ => false

/-- Whether a value is a NaN. -/
def FVal.isNan : FVal → Bool
  | .nan _ => true
  | _ => false

/-! ### Rounding (R338-R341, R344) -/

/-- The magnitude rounded to a multiple of 2^q, in units of 2^q, and whether that differs from the exact value. -/
def roundAt (mode : RMode) (neg : Bool) (draw m : Nat) (e : Int) (more : Bool) (q : Int) : Nat × Bool :=
  if q ≤ e then (m * 2 ^ (e - q).toNat, more)
  else
    let u := 2 ^ (q - e).toNat
    let k := m / u
    let r := m % u
    let inexact := decide (r ≠ 0) || more
    let up : Bool :=
      match mode with
      | .rne => decide (u < 2 * r) || (decide (2 * r = u) && (more || decide (k % 2 = 1)))
      | .rtz => false
      | .rup => inexact && !neg
      | .rdn => inexact && neg
      | .sr => decide (draw < 2 ^ 24 * r / u)
    (if up then k + 1 else k, inexact)

/-- The result of an overflow (Table 15-2). -/
def Fmt.overflow (f : Fmt) (mode : RMode) (neg : Bool) : Nat :=
  let inf : Bool :=
    match mode with
    | .rne => true
    | .rtz => false
    | .rup => !neg
    | .rdn => neg
    | .sr => true
  f.signed neg (if f.kind = .ieee ∧ inf then f.infCode else f.maxCode)

/-- A magnitude rounded to the format: its code and the flags (R339-R341, R344). -/
def Fmt.round (f : Fmt) (r : Rnd) (draw : Nat) (neg : Bool) (m : Nat) (e : Int) (more : Bool := false) : Nat × Flags :=
  if m = 0 then (f.signed neg 0, 0)
  else
    let ex : Int := e + m.log2
    let q := max ex f.emin - f.mbits
    let (k, inexact) := roundAt r.mode neg draw m e more q
    let code := (q - f.qmin).toNat * 2 ^ f.mbits + k
    if f.maxCode < code then (f.overflow r.mode neg, Flags.of ||| Flags.ix)
    else
      let tiny := decide (ex < f.emin) &&
        decide ((roundAt r.mode neg draw m e more (ex - f.mbits)).1 < 2 ^ (f.emin - ex + f.mbits).toNat)
      if tiny ∧ r.ftz then (f.signed neg 0, Flags.uf ||| Flags.ix)
      else (f.signed neg code, Flags.when inexact Flags.ix ||| Flags.when (tiny && inexact) Flags.uf)

/-- The sign of an exact zero sum of two terms (IEEE 754-2019). -/
def zeroSign (mode : RMode) (na nb : Bool) : Bool := if na = nb then na else decide (mode = .rdn)

/-- The exact sum of two terms as a sign and a magnitude. -/
def sumExact (mode : RMode) (na : Bool) (ma : Nat) (ea : Int) (nb : Bool) (mb : Nat) (eb : Int) : Bool × Nat × Int :=
  let e := min ea eb
  let a : Int := (ma * 2 ^ (ea - e).toNat : Nat)
  let b : Int := (mb * 2 ^ (eb - e).toNat : Nat)
  let s := (if na then -a else a) + (if nb then -b else b)
  if s = 0 then (zeroSign mode na nb, 0, e) else (decide (s < 0), s.natAbs, e)

/-- A NaN result: canonical (R335, R346). -/
def Fmt.nanRes (f : Fmt) (iv : Bool) : Nat × Flags := (f.nan, Flags.when iv Flags.iv)

/-- a + b, rounded once (R338). -/
def Fmt.add (f : Fmt) (r : Rnd) (draw a b : Nat) : Nat × Flags :=
  match f.read r.daz a, f.read r.daz b with
  | .nan s, y => f.nanRes (s || y.snan)
  | x, .nan s => f.nanRes (s || x.snan)
  | .inf n, .inf k => if n = k then (f.signed n f.infCode, 0) else f.nanRes true
  | .inf n, _ => (f.signed n f.infCode, 0)
  | _, .inf n => (f.signed n f.infCode, 0)
  | .fin na ma ea, .fin nb mb eb =>
    let (n, m, e) := sumExact r.mode na ma ea nb mb eb
    f.round r draw n m e

/-- The code with its sign changed. -/
def Fmt.neg (f : Fmt) (b : Nat) : Nat := if nbit b (f.ebits + f.mbits) then b - f.sign else b + f.sign

/-- The code with its sign cleared. -/
def Fmt.abs (f : Fmt) (b : Nat) : Nat := b % f.sign

/-- a - b, rounded once. -/
def Fmt.sub (f : Fmt) (r : Rnd) (draw a b : Nat) : Nat × Flags := f.add r draw a (f.neg b)

/-- a * b, rounded once. -/
def Fmt.mul (f : Fmt) (r : Rnd) (draw a b : Nat) : Nat × Flags :=
  match f.read r.daz a, f.read r.daz b with
  | .nan s, y => f.nanRes (s || y.snan)
  | x, .nan s => f.nanRes (s || x.snan)
  | .inf n, .inf k => (f.signed (n ^^ k) f.infCode, 0)
  | .inf n, .fin k m _ => if m = 0 then f.nanRes true else (f.signed (n ^^ k) f.infCode, 0)
  | .fin k m _, .inf n => if m = 0 then f.nanRes true else (f.signed (n ^^ k) f.infCode, 0)
  | .fin na ma ea, .fin nb mb eb => f.round r draw (na ^^ nb) (ma * mb) (ea + eb)

/-- a * b + c, rounded once. -/
def Fmt.fma (f : Fmt) (r : Rnd) (draw a b c : Nat) : Nat × Flags :=
  let x := f.read r.daz a
  let y := f.read r.daz b
  let z := f.read r.daz c
  let sig := x.snan || y.snan || z.snan
  -- the product: not a number, or an infinity or a number with its sign
  let prod : FVal × Bool :=
    match x, y with
    | .nan _, _ => (.nan false, false)
    | _, .nan _ => (.nan false, false)
    | .inf n, .inf k => (.inf (n ^^ k), false)
    | .inf n, .fin k m _ => if m = 0 then (.nan false, true) else (.inf (n ^^ k), false)
    | .fin k m _, .inf n => if m = 0 then (.nan false, true) else (.inf (n ^^ k), false)
    | .fin na ma ea, .fin nb mb eb => (.fin (na ^^ nb) (ma * mb) (ea + eb), false)
  match prod.1, z with
  | .nan _, _ => f.nanRes (sig || prod.2)
  | _, .nan _ => f.nanRes (sig || prod.2)
  | .inf n, .inf k => if n = k then (f.signed n f.infCode, 0) else f.nanRes true
  | .inf n, _ => (f.signed n f.infCode, 0)
  | _, .inf n => (f.signed n f.infCode, 0)
  | .fin na ma ea, .fin nb mb eb =>
    let (n, m, e) := sumExact r.mode na ma ea nb mb eb
    f.round r draw n m e

/-- a / b, rounded once. -/
def Fmt.div (f : Fmt) (r : Rnd) (draw a b : Nat) : Nat × Flags :=
  match f.read r.daz a, f.read r.daz b with
  | .nan s, y => f.nanRes (s || y.snan)
  | x, .nan s => f.nanRes (s || x.snan)
  | .inf _, .inf _ => f.nanRes true
  | .inf n, .fin k _ _ => (f.signed (n ^^ k) f.infCode, 0)
  | .fin n _ _, .inf k => (f.signed (n ^^ k) 0, 0)
  | .fin na ma ea, .fin nb mb eb =>
    if mb = 0 then (if ma = 0 then f.nanRes true else (f.signed (na ^^ nb) f.infCode, Flags.dz))
    else
      let sh := 128 + mb.log2
      f.round r draw (na ^^ nb) (ma * 2 ^ sh / mb) (ea - eb - sh) (decide (ma * 2 ^ sh % mb ≠ 0))

/-- The integer square root, bit by bit. -/
def isqrtAux (n r : Nat) : Nat → Nat
  | 0 => r
  | b + 1 => let t := r + 2 ^ b; if t * t ≤ n then isqrtAux n t b else isqrtAux n r b

/-- The largest r with r * r at most n. -/
def isqrt (n : Nat) : Nat := isqrtAux n 0 (n.log2 / 2 + 1)

/-- The square root, rounded once. -/
def Fmt.sqrt (f : Fmt) (r : Rnd) (draw a : Nat) : Nat × Flags :=
  match f.read r.daz a with
  | .nan s => f.nanRes s
  | .inf n => if n then f.nanRes true else (f.infCode, 0)
  | .fin n m e =>
    if m = 0 then (f.signed n 0, 0)
    else if n then f.nanRes true
    else
      let m := m * 2 ^ (e % 2).toNat * 2 ^ 256
      let q := isqrt m
      f.round r draw false q ((e - e % 2) / 2 - 128) (decide (q * q ≠ m))

/-! ### Comparison (R345, R346) -/

/-- Whether a finite or infinite value lies below another; -0 equals +0. -/
def FVal.lt : FVal → FVal → Bool
  | .nan _, _ => false
  | _, .nan _ => false
  | .inf a, .inf b => a && !b
  | .inf a, .fin _ _ _ => a
  | .fin _ _ _, .inf b => !b
  | .fin na ma ea, .fin nb mb eb =>
    let e := min ea eb
    let a : Int := (ma * 2 ^ (ea - e).toNat : Nat)
    let b : Int := (mb * 2 ^ (eb - e).toNat : Nat)
    decide ((if na then -a else a) < (if nb then -b else b))

/-- Whether two values are equal; -0 equals +0. -/
def FVal.eq (a b : FVal) : Bool := !a.isNan && !b.isNan && !a.lt b && !b.lt a

/-- The sign of a value. -/
def FVal.sgn : FVal → Bool
  | .nan _ => false
  | .inf n => n
  | .fin n _ _ => n

/-- The code of a value an operand was read as: of a NaN the canonical one, of a subnormal read as zero that zero. -/
def Fmt.codeOf (f : Fmt) (daz : Bool) (b : Nat) : Nat :=
  match f.read daz b with
  | .nan _ => f.nan
  | .inf _ => b
  | .fin n m _ => if m = 0 then f.signed n 0 else b

/-- minimumNumber, or maximumNumber, of two operands (R346): -0 lies below +0. -/
def Fmt.minmax (f : Fmt) (mx daz : Bool) (a b : Nat) : Nat × Flags :=
  let x := f.read daz a
  let y := f.read daz b
  let iv := Flags.when (x.snan || y.snan) Flags.iv
  if x.isNan then (f.codeOf daz b, iv)
  else if y.isNan then (f.codeOf daz a, iv)
  else
    let xLow := x.lt y || (x.eq y && x.sgn)
    (f.codeOf daz (if xLow = mx then b else a), iv)

/-- Comparisons. -/
inductive Cmp where
  | eq | lt | le | un
  deriving DecidableEq, Repr

/-- A comparison and its flags: EQ and UN are quiet, LT and LE signalling (R345). -/
def Fmt.cmp (f : Fmt) (c : Cmp) (daz : Bool) (a b : Nat) : Bool × Flags :=
  let x := f.read daz a
  let y := f.read daz b
  let quiet := Flags.when (x.snan || y.snan) Flags.iv
  let loud := Flags.when (x.isNan || y.isNan) Flags.iv
  match c with
  | .eq => (x.eq y, quiet)
  | .lt => (x.lt y, loud)
  | .le => (x.lt y || x.eq y, loud)
  | .un => (x.isNan || y.isNan, quiet)

/-! ### Conversions (R347, R348) -/

/-- A value rounded to another format (R347): infinities saturate in E4M3 with IV. The flags are those of the value's own
NaN and of the rounding. -/
def Fmt.ofVal (f : Fmt) (r : Rnd) (draw : Nat) : FVal → Nat × Flags
  | .nan s => f.nanRes s
  | .inf n => if f.kind = .ieee then (f.signed n f.infCode, 0) else (f.signed n f.maxCode, Flags.iv)
  | .fin n m e => f.round r draw n m e

/-- Whether `DAZ` and `FTZ` apply to values of a format (R344). -/
def Fmt.flushes (f : Fmt) : Bool := decide (7 ≤ f.mbits)

/-- A value rounded to a two's complement integer of n bits (R348). -/
def toInt (r : Rnd) (draw n : Nat) : FVal → Nat × Flags
  | .nan _ => (0, Flags.iv)
  | .inf neg => (wrap n (if neg then -(2 ^ (n - 1) : Nat) else (2 ^ (n - 1) : Nat) - 1), Flags.iv)
  | .fin neg m e =>
    let (k, inexact) := roundAt r.mode neg draw m e false 0
    let v : Int := if neg then -(k : Int) else k
    let c := satS n v
    if c ≠ v then (wrap n c, Flags.iv) else (wrap n v, Flags.when inexact Flags.ix)

/-- The value of an n-bit two's complement integer. -/
def ofInt (n v : Nat) : FVal := .fin (decide (sgn n v < 0)) (sgn n v).natAbs 0

end Sys2Proof.Machine
end

