-- ==== Sys2Proof/Machine/BurinOps.lean ====
section
/-! DEFINITION. What the instructions of a bundle share (13_burin_isa.md): what a slot reads and what it comes to, memory
accesses, exceptions, loops and the advance to the next bundle. -/

namespace Sys2Proof.Machine

/-! ### What a slot sees and what it does -/

/-- What an instruction reads: the state and its core before the bundle; the state after the S slot's stores; the mode in
force; the draws the instruction makes; the number of its first free value. -/
structure Ctx where
  s : State
  after : State
  c : Core
  x : CoreSt
  e : Env
  mode : Nat
  draws : List Nat
  free : Nat

/-- A before exception: code, EADDR, INFO (Table 13-9). -/
structure Exc where
  code : Nat
  addr : Nat
  info : Nat := 0
  deriving DecidableEq, Repr

/-- Where a bundle goes on: in sequence; a branch to a target or past its delay slot; a loop armed, or skipped; HALT; ERET;
BREAK or TRAP; SETMODE. -/
inductive Flow where
  | seq
  | branch (target : Option Nat)
  | loop (n v : Nat)
  | halt
  | eret
  | after (code info : Nat)
  | setMode (v : Nat)
  deriving DecidableEq, Repr

/-- What an instruction comes to: an exception, with the events its accesses raise; a stall; or its effect, its flags, the
free values it takes and its flow. -/
structure Eff where
  exc : Option Exc := none
  ev : State → State := id
  stall : Bool := false
  flags : Flags := 0
  frees : Nat := 0
  run : State → State := id
  flow : Flow := .seq

/-- Scalar register n as it stood. -/
def Ctx.sr (k : Ctx) (n : Nat) : Nat := (k.x.sr n).toNat

/-- Vector register n as it stood. -/
def Ctx.vr (k : Ctx) (n : Nat) : Nat := k.x.vr n

/-- A change of the core at commitment. -/
def Ctx.upd (k : Ctx) (f : CoreSt → CoreSt) (t : State) : State := t.setCore k.c (f (t.core k.c))

/-- The effect of writing scalar register n. -/
def Ctx.toS (k : Ctx) (n v : Nat) (fl : Flags := 0) : Eff :=
  { flags := fl, run := k.upd fun x => x.setS n (BitVec.ofNat 64 v) }

/-- The effect of writing vector register n. -/
def Ctx.toV (k : Ctx) (n v : Nat) (fl : Flags := 0) : Eff := { flags := fl, run := k.upd fun x => x.setV n v }

/-- The effect of writing mask register n. -/
def Ctx.toM (k : Ctx) (n v : Nat) (fl : Flags := 0) : Eff := { flags := fl, run := k.upd fun x => x.setM n v }

/-- How the instruction rounds. -/
def Ctx.rnd (k : Ctx) (w : Nat) : Rnd := Rnd.ofMode k.mode (rndF w)

/-- The first draw. -/
def Ctx.draw (k : Ctx) : Nat := k.draws.headD 0

/-- The kind of a core. -/
def kindOf : Core → CoreKind
  | .seq _ => .seq
  | .burin _ _ => .burin
  | .tport _ => .tport

/-- The master ID of a core's accesses (Table 4-1). -/
def coreMaster : Core → Nat
  | .seq p => 0x840 + p
  | .burin p _ => 0x840 + p
  | .tport i => 0x880 + i

/-! ### Memory (R297-R300) -/

/-- The segment of an address. -/
def segOf (a : Nat) : Nat := a / 2 ^ 60

/-- Whether n bytes at an address lie in a segment the core reaches (Tables 13-7 and 13-11). -/
def inSegment (c : Core) (a n : Nat) : Bool :=
  let o := a % 2 ^ 60
  match segOf a, c with
  | 0, .burin _ _ => decide (o + n ≤ lsSize)
  | 0, .tport _ => decide (o + n ≤ 4096)
  | 1, .burin _ _ => decide (o + n ≤ pmSize)
  | 1, .seq _ => decide (o + n ≤ pmSize)
  | 2, _ => decide (o + n ≤ 2 ^ 40)
  | _, _ => false

/-- Whether an address names a transport core's scratch. -/
def isScratch (c : Core) (a : Nat) : Bool :=
  match c with
  | .tport _ => decide (segOf a = 0)
  | _ => false

/-- The DPA of an address that lies in a segment. -/
def dpaOf (c : Core) (a : Nat) : Nat :=
  match segOf a, c with
  | 0, .burin p b => lsBase p b + a % 2 ^ 60
  | 1, .burin p _ => winBase p + a % 2 ^ 60
  | 1, .seq p => winBase p + a % 2 ^ 60
  | _, _ => a % 2 ^ 60

/-- The exception that an access of n bytes at an address, aligned to al, meets, and the events it raises; none where it may
go on. -/
def Ctx.bad (k : Ctx) (a n al : Nat) (wr : Bool) : Option (Exc × (State → State)) :=
  if a % al ≠ 0 then some (⟨2, a, 0⟩, id)
  else if ¬ inSegment k.c a n then some (⟨3, a, 0⟩, id)
  else
    let d := dpaOf k.c a
    let m := coreMaster k.c
    if segOf a = 2 ∧ (k.s.dpaCheck m d n wr).isSome then
      some (⟨4, a, b2n ((lineStarts d n).all fun y => k.s.mapped y)⟩, fun t => (t.dpaCheck m d n wr).getD t)
    else if isScratch k.c a ∨ wr then none
    else match dbeIn k.e d n with
      | some w => some (⟨5, a, 0⟩, fun t => t.evEcc w)
      | none => none

/-- A list of accesses of a slot (R306, R329): the lowest code of any, the address of the first that faults, and every
event. -/
def Ctx.bads (k : Ctx) (al : Nat) (wr : Bool) (l : List (Nat × Nat)) : Option Eff :=
  match l.filterMap fun y => k.bad y.1 y.2 al wr with
  | [] => none
  | b :: bs =>
    let code := (b :: bs).foldl (fun m y => min m y.1.code) b.1.code
    let info := (((b :: bs).find? fun y => decide (y.1.code = code)).map (·.1.info)).getD 0
    some { exc := some ⟨code, b.1.addr, info⟩, ev := fun t => (b :: bs).foldl (fun t y => y.2 t) t }

/-- A byte of a transport core's scratch: undefined until it is written in the event (R314). -/
def State.scratchByte (s : State) (i o : Nat) : Byte :=
  match mget s.plt.scratch (i * 4096 + o) with
  | some b => b
  | none => BitVec.ofNat 8 (Config.freeValue ((mget s.plt.scratchFree i).getD 0 + o)).toNat

/-- Whether a DPA lies in register space. -/
def isRegDpa (d : Nat) : Bool := decide (regBase ≤ d)

/-- n bytes at an address, as memory stood in the state given. -/
def Ctx.load (k : Ctx) (s : State) (a n : Nat) : List Byte :=
  match k.c with
  | .tport i =>
    if segOf a = 0 then (List.range n).map fun j => s.scratchByte i (a % 2 ^ 60 + j)
    else if isRegDpa (dpaOf k.c a) then (s.busRead (coreMaster k.c) (dpaOf k.c a) n).2
    else s.devBytes (dpaOf k.c a) n k.e.host
  | _ =>
    let d := dpaOf k.c a
    if isRegDpa d then (s.busRead (coreMaster k.c) d n).2 else s.devBytes d n k.e.host

/-- The function whose meters a core's accesses of HBM count for, if any. -/
def State.coreFn (s : State) : Core → Option Nat
  | .tport _ => none
  | .seq p => if s.plateOwner p ≤ 1024 then some (s.plateOwner p) else none
  | .burin p _ => if s.plateOwner p ≤ 1024 then some (s.plateOwner p) else none

/-- What a load leaves behind: registers that a read clears, requests to the host's caches, bytes counted (R6, R39, R89). -/
def Ctx.loaded (k : Ctx) (a n : Nat) (t : State) : State :=
  let d := dpaOf k.c a
  if isScratch k.c a then t
  else if isRegDpa d then (t.busRead (coreMaster k.c) d n).1
  else if d < hbmEnd then
    match t.coreFn k.c with
    | some f => (t.cxlReqs 0 d n).meter f 4 (cdiv n 32 * 32)
    | none => t.cxlReqs 0 d n
  else t

/-- Bytes stored at an address. -/
def Ctx.store (k : Ctx) (a : Nat) (bs : List Byte) (t : State) : State :=
  let d := dpaOf k.c a
  match k.c, segOf a with
  | .tport i, 0 =>
    { t with plt.scratch := (bs.zipIdx).foldl (fun m b => mput m (i * 4096 + a % 2 ^ 60 + b.2) b.1) t.plt.scratch }
  | _, _ =>
    if isRegDpa d then t.busWrite (coreMaster k.c) d bs
    else if d < hbmEnd then
      match t.coreFn k.c with
      | some f => (t.devStore d bs).meter f 5 (cdiv bs.length 32 * 32)
      | none => t.devStore d bs
    else t.store d bs

/-! ### Fetching -/

/-- One past the last PC of a core's instruction memory. -/
def pcEnd : Core → Nat
  | .tport _ => 0x10000
  | _ => 0x40000

/-- The two words of the bundle at a PC. -/
def State.bundleAt (s : State) (c : Core) (pc : Nat) : Nat × Nat :=
  match c with
  | .tport _ =>
    let m := (mget s.qpe.ccBank (s.rf Reg.umtCcCtrl F.umtCcCtrl_active)).getD []
    let bs := (List.range 16).map fun i => dget m 0 (pc + i)
    (leNat (bs.take 8), leNat (bs.drop 8))
  | .seq p => (s.ldN (imBase p + pc) 8, s.ldN (imBase p + pc + 8) 8)
  | .burin p _ => (s.ldN (imBase p + pc) 8, s.ldN (imBase p + pc + 8) 8)

/-- The word of a bundle that reads with a double-bit error, if one does. -/
def fetchDbe (c : Core) (pc : Nat) (e : Env) : Option Nat :=
  match corePlate c with
  | some p => dbeIn e (imBase p + pc) 16
  | none => none

/-! ### Loops (R294-R296) -/

/-- Fields of a loop register. -/
def loopStart (v : Word) : Nat := fld v 13 0
@[inherit_doc loopStart] def loopEnd (v : Word) : Nat := fld v 27 14
@[inherit_doc loopStart] def loopCount (v : Word) : Nat := fld v 63 32

/-- Whether a loop is active. -/
def loopOn (v : Word) : Bool := decide (loopCount v ≠ 0)

/-- Whether a bundle index is the last of an active loop. -/
def lastOf (x : CoreSt) (i : Nat) : Bool :=
  (loopOn x.loop0 && decide (loopEnd x.loop0 = i)) || (loopOn x.loop1 && decide (loopEnd x.loop1 = i))

/-- A loop register at its END bundle: `new` is what the bundle left in it, `wr` whether the bundle wrote it. Its value
afterwards, and where execution goes back to. -/
def loopBack (new : Word) (wr : Bool) : Word × Option Nat :=
  let n := if wr then loopCount new else loopCount new - 1
  (setFld new 63 32 n, if n = 0 then none else some (loopStart new * 16))

/-- The loops after the bundle with index i, given which were active with that END before it and which the bundle wrote; and
the PC of a loop-back. -/
def loopsAfter (old new : CoreSt) (i : Nat) (wr0 wr1 : Bool) : CoreSt × Option Nat :=
  let e1 := loopOn old.loop1 && decide (loopEnd old.loop1 = i)
  let e0 := loopOn old.loop0 && decide (loopEnd old.loop0 = i)
  let r1 := loopBack new.loop1 wr1
  let x := if e1 then { new with loop1 := r1.1 } else new
  if e1 ∧ r1.2.isSome then (x, r1.2)
  else if e0 then ({ x with loop0 := (loopBack x.loop0 wr0).1 }, (loopBack x.loop0 wr0).2)
  else (x, none)

/-! ### Exceptions (R306-R310) -/

/-- `ECAUSE` (Table 13-5). -/
def ecause (info old : Nat) (after slotV : Bool) (shadow : Nat) (ds : Bool) (code : Nat) : Word :=
  BitVec.ofNat 64 (info % 2 ^ 32 * 2 ^ 32 + old % 2 ^ 16 * 2 ^ 16 + b2n after * 2 ^ 12 + b2n slotV * 2 ^ 11 + shadow % 4 * 2 ^ 9 +
    b2n ds * 2 ^ 8 + code)

/-- The record of an exception that stops a plate (R308, Tables 13-13, 13-14). -/
def State.plateExc (s : State) (c : Core) (p pc code : Nat) (ds : Bool) (shadow : Nat) (double : Bool) (addr : Nat) : State :=
  let who := match c with | .burin _ b => b | _ => 2 ^ 16
  let v := pc % 2 ^ 18 * 2 ^ 32 + code * 2 ^ 24 + b2n ds * 2 ^ 23 + shadow % 4 * 2 ^ 21 + b2n double * 2 ^ 20 + who
  (((s.wr (Reg.pltExc p) (BitVec.ofNat 64 v)).wr (Reg.pltExcAddr p) (BitVec.ofNat 64 addr)).pst p F.pltStatus_exc 1).plateStop p 3

/-- Taking an exception (R306-R309): the record, then the handler, or, where it is not handled, the end of the plate's
program; a transport core abandons its event. -/
def State.takeExc (s : State) (c : Core) (pc : Nat) (ds : Bool) (shadow old : Nat) (after slotV : Bool) (code addr info : Nat) : State :=
  let x := s.core c
  let rec_ (y : CoreSt) : CoreSt :=
    { y with epc := BitVec.ofNat 64 pc, ecause := ecause info old after slotV shadow ds code, eaddr := BitVec.ofNat 64 addr }
  match c, corePlate c with
  | .tport i, _ => s.ccAbandon i
  | _, some p =>
    if nbit x.evec.toNat 63 ∧ ¬ x.handler then
      s.setCore c { rec_ x with pc := fld x.evec 13 0 * 16, handler := true, shadow := 0, delay := none, alone := false }
    else
      let s := if x.handler then s else s.setCore c (rec_ x)
      s.plateExc c p pc code ds shadow x.handler addr
  | _, none => s

/-- A before exception of the bundle at the core's PC (Table 13-12). -/
def State.before (s : State) (c : Core) (slotV : Bool) (z : Exc) : State :=
  let x := s.core c
  match x.delay with
  | some (b, _) => s.takeExc c b true 0 0 false slotV z.code z.addr z.info
  | none => s.takeExc c x.pc x.alone x.shadow (if x.shadow = 0 then 0 else x.oldMode.toNat) false slotV z.code z.addr z.info

/-- ERET (R309, R310): the core resumes as `EPC` and `ECAUSE` say. -/
def eretTo (x : CoreSt) : CoreSt :=
  { x with pc := fld x.epc 17 4 * 16, handler := false, alone := nbit x.ecause.toNat 8, shadow := fld x.ecause 10 9,
           oldMode := BitVec.ofNat 64 (fld x.ecause 31 16), delay := none }

/-! ### Going on -/

/-- Where a bundle that is done leaves its core: the loops, the shadow, the delay slot and the PC. `old` is the core before
the bundle. -/
def State.advance (s : State) (c : Core) (old : CoreSt) (f : Flow) (wr0 wr1 : Bool) : State :=
  let x := s.core c
  let i := old.pc / 16
  let sh := old.shadow - 1
  let lp := if old.handler then (x, none) else loopsAfter old x i wr0 wr1
  let y := lp.1
  let next := match old.delay with
    | some (_, t) => t
    | none => lp.2.getD (old.pc + 16)
  let base : CoreSt := { y with pc := next, shadow := sh, delay := none, alone := false }
  match f with
  | .seq => s.setCore c base
  | .branch t => s.setCore c { base with pc := old.pc + 16, delay := some (old.pc, t.getD (old.pc + 32)) }
  | .loop n v =>
    let w := BitVec.ofNat 64 v
    let z : CoreSt := if n = 0 then { base with loop0 := w } else { base with loop1 := w }
    s.setCore c { z with pc := if loopOn w then old.pc + 16 else (loopEnd w + 1) * 16 }
  | .halt => (s.setCore c base).haltCore c
  | .eret => s.setCore c (eretTo y)
  | .setMode v => s.setCore c { base with mode := BitVec.ofNat 64 (y.mode.toNat / 1024 * 1024 + v % 1024), shadow := 2, oldMode := old.mode }
  | .after code info =>
    (s.setCore c base).takeExc c next false sh (if sh = 0 then 0 else old.oldMode.toNat) true false code old.pc info

end Sys2Proof.Machine
end

