-- ==== Sys2Proof/Machine/SemScalar.lean ====
section
/-! DEFINITION. What the scalar instructions do (14_burin_opcodes.md R317-R320): integer, floating point, memory and
atomics. -/

namespace Sys2Proof.Machine

/-! ### Integer (Table 14-1) -/

/-- The signed value of a 64-bit word. -/
def s64 (v : Nat) : Int := sgn 64 v

/-- A two-operand instruction. -/
def Ctx.int2 (k : Ctx) (w : Nat) (f : Nat → Nat → Nat) : Eff := k.toS (rD w) (f (k.sr (rA w)) (k.sr (rB w)) % 2 ^ 64)

/-- An instruction with an immediate. -/
def Ctx.intI (k : Ctx) (w : Nat) (f : Nat → Nat → Nat) : Eff := k.toS (rD w) (f (k.sr (rA w)) (immS w) % 2 ^ 64)

/-- NOP. -/
def semNop (_ : Ctx) (_ : Nat) : Eff := {}
/-- ADD. -/
def semAdd (k : Ctx) (w : Nat) : Eff := k.int2 w fun a b => a + b
/-- SUB. -/
def semSub (k : Ctx) (w : Nat) : Eff := k.int2 w fun a b => a + 2 ^ 64 - b
/-- MUL. -/
def semMul (k : Ctx) (w : Nat) : Eff := k.int2 w fun a b => a * b
/-- MULH. -/
def semMulh (k : Ctx) (w : Nat) : Eff := k.int2 w fun a b => wrap 128 (s64 a * s64 b) / 2 ^ 64
/-- MULHU. -/
def semMulhu (k : Ctx) (w : Nat) : Eff := k.int2 w fun a b => a * b / 2 ^ 64

/-- Signed division, rounded toward zero, with its corners. -/
def divS (a b : Nat) : Nat := if b = 0 then 2 ^ 64 - 1 else wrap 64 ((s64 a).tdiv (s64 b))
/-- Unsigned division. -/
def divU (a b : Nat) : Nat := if b = 0 then 2 ^ 64 - 1 else a / b
/-- Signed remainder. -/
def remS (a b : Nat) : Nat := if b = 0 then a else wrap 64 ((s64 a).tmod (s64 b))
/-- Unsigned remainder. -/
def remU (a b : Nat) : Nat := if b = 0 then a else a % b

/-- DIV. -/
def semDiv (k : Ctx) (w : Nat) : Eff := k.int2 w divS
/-- DIVU. -/
def semDivu (k : Ctx) (w : Nat) : Eff := k.int2 w divU
/-- REM. -/
def semRem (k : Ctx) (w : Nat) : Eff := k.int2 w remS
/-- REMU. -/
def semRemu (k : Ctx) (w : Nat) : Eff := k.int2 w remU
/-- AND. -/
def semAnd (k : Ctx) (w : Nat) : Eff := k.int2 w Nat.land
/-- OR. -/
def semOr (k : Ctx) (w : Nat) : Eff := k.int2 w Nat.lor
/-- XOR. -/
def semXor (k : Ctx) (w : Nat) : Eff := k.int2 w Nat.xor

/-- A left shift, a logical right shift and an arithmetic one of n bits, by an amount below n. -/
def shl (n a i : Nat) : Nat := a * 2 ^ i % 2 ^ n
@[inherit_doc shl] def shr (_n a i : Nat) : Nat := a / 2 ^ i
@[inherit_doc shl] def sra (n a i : Nat) : Nat := wrap n (sgn n a / (2 ^ i : Nat))

/-- SHL. -/
def semShl (k : Ctx) (w : Nat) : Eff := k.int2 w fun a b => shl 64 a (b % 64)
/-- SHR. -/
def semShr (k : Ctx) (w : Nat) : Eff := k.int2 w fun a b => shr 64 a (b % 64)
/-- SRA. -/
def semSra (k : Ctx) (w : Nat) : Eff := k.int2 w fun a b => sra 64 a (b % 64)
/-- SLT. -/
def semSlt (k : Ctx) (w : Nat) : Eff := k.int2 w fun a b => b2n (decide (s64 a < s64 b))
/-- SLTU. -/
def semSltu (k : Ctx) (w : Nat) : Eff := k.int2 w fun a b => b2n (decide (a < b))
/-- MIN. -/
def semMin (k : Ctx) (w : Nat) : Eff := k.int2 w fun a b => if s64 a ≤ s64 b then a else b
/-- MAX. -/
def semMax (k : Ctx) (w : Nat) : Eff := k.int2 w fun a b => if s64 a ≤ s64 b then b else a

/-- Leading zero bits of 64. -/
def clz (a : Nat) : Nat := if a = 0 then 64 else 63 - a.log2
/-- Set bits among n. -/
def popc (n a : Nat) : Nat := ((List.range n).filter fun i => nbit a i).length

/-- CLZ. -/
def semClz (k : Ctx) (w : Nat) : Eff := k.int2 w fun a _ => clz a
/-- POPC. -/
def semPopc (k : Ctx) (w : Nat) : Eff := k.int2 w fun a _ => popc 64 a
/-- ADDI. -/
def semAddi (k : Ctx) (w : Nat) : Eff := k.intI w fun a b => a + b
/-- ANDI. -/
def semAndi (k : Ctx) (w : Nat) : Eff := k.intI w Nat.land
/-- ORI. -/
def semOri (k : Ctx) (w : Nat) : Eff := k.intI w Nat.lor
/-- XORI. -/
def semXori (k : Ctx) (w : Nat) : Eff := k.intI w Nat.xor
/-- SHLI. -/
def semShli (k : Ctx) (w : Nat) : Eff := k.intI w fun a b => shl 64 a (b % 64)
/-- SHRI. -/
def semShri (k : Ctx) (w : Nat) : Eff := k.intI w fun a b => shr 64 a (b % 64)
/-- SRAI. -/
def semSrai (k : Ctx) (w : Nat) : Eff := k.intI w fun a b => sra 64 a (b % 64)
/-- SLTI. -/
def semSlti (k : Ctx) (w : Nat) : Eff := k.intI w fun a b => b2n (decide (s64 a < s64 b))
/-- LI. -/
def semLi (k : Ctx) (w : Nat) : Eff := k.toS (rD w) (imm48 w)
/-- LIH. -/
def semLih (k : Ctx) (w : Nat) : Eff := k.toS (rD w) (imm32 w * 2 ^ 32 + k.sr (rA w) % 2 ^ 32)

/-! ### Floating point (Table 14-2) -/

/-- The format of a scalar FP type. -/
def fpFmt (t : Nat) : Fmt := if t = 8 then .fp64 else .fp32
/-- The bits of an operand that a type of this many bits takes. -/
def fpOp (t v : Nat) : Nat := if t = 8 then v else v % 2 ^ 32

/-- A rounding instruction of one, two or three operands. -/
def Ctx.fp (k : Ctx) (w : Nat) (f : Fmt → Rnd → Nat → Nat → Nat → Nat → Nat × Flags) : Eff :=
  let t := typR w
  let r := f (fpFmt t) (k.rnd w) k.draw (fpOp t (k.sr (rA w))) (fpOp t (k.sr (rB w))) (fpOp t (k.sr (rC w)))
  k.toS (rD w) r.1 r.2

/-- FADD. -/
def semFadd (k : Ctx) (w : Nat) : Eff := k.fp w fun f r d a b _ => f.add r d a b
/-- FSUB. -/
def semFsub (k : Ctx) (w : Nat) : Eff := k.fp w fun f r d a b _ => f.sub r d a b
/-- FMUL. -/
def semFmul (k : Ctx) (w : Nat) : Eff := k.fp w fun f r d a b _ => f.mul r d a b
/-- FFMA. -/
def semFfma (k : Ctx) (w : Nat) : Eff := k.fp w fun f r d a b c => f.fma r d a b c
/-- FDIV. -/
def semFdiv (k : Ctx) (w : Nat) : Eff := k.fp w fun f r d a b _ => f.div r d a b
/-- FSQRT. -/
def semFsqrt (k : Ctx) (w : Nat) : Eff := k.fp w fun f r d a _ _ => f.sqrt r d a
/-- FMIN. -/
def semFmin (k : Ctx) (w : Nat) : Eff := k.fp w fun f r _ a b _ => f.minmax false r.daz a b
/-- FMAX. -/
def semFmax (k : Ctx) (w : Nat) : Eff := k.fp w fun f r _ a b _ => f.minmax true r.daz a b

/-- A comparison. -/
def Ctx.fcmp (k : Ctx) (w : Nat) (c : Cmp) : Eff :=
  k.fp w fun f r _ a b _ => (b2n (f.cmp c r.daz a b).1, (f.cmp c r.daz a b).2)

/-- FCMPEQ. -/
def semFcmpeq (k : Ctx) (w : Nat) : Eff := k.fcmp w .eq
/-- FCMPLT. -/
def semFcmplt (k : Ctx) (w : Nat) : Eff := k.fcmp w .lt
/-- FCMPLE. -/
def semFcmple (k : Ctx) (w : Nat) : Eff := k.fcmp w .le

/-- The format of an element type that has one. -/
def Elt.fmt : Elt → Option Fmt
  | .f64 => some .fp64
  | .f32 => some .fp32
  | .f16 => some .fp16
  | .bf16 => some .bf16
  | .e4m3 => some .e4m3
  | .e5m2 => some .e5m2
  | _ => none

/-- A conversion of one element (R344, R347, R348): between formats and integers; between integers it saturates, with IV out of
range but for INT8 (R348). -/
def convert (a b : Elt) (r : Rnd) (draw v : Nat) : Nat × Flags :=
  match a.fmt, b.fmt with
  | some f, some g => g.ofVal { r with ftz := r.ftz && g.flushes } draw (f.read (r.daz && f.flushes) v)
  | some f, none => toInt r draw b.width (f.read (r.daz && f.flushes) v)
  | none, some g => g.ofVal { r with ftz := r.ftz && g.flushes } draw (ofInt a.width v)
  | none, none =>
    let x := sgn a.width v
    let y := satS b.width x
    (wrap b.width y, Flags.when (decide (x ≠ y) && decide (b ≠ .i8)) Flags.iv)

/-- FCVT: an INT32 result is sign-extended, an FP32 result zero-extended (R318). -/
def semFcvt (k : Ctx) (w : Nat) : Eff :=
  match Elt.ofCode (typR w), Elt.ofCode (rC w) with
  | some a, some b =>
    let r := convert a b (k.rnd w) k.draw (k.sr (rA w) % 2 ^ a.width)
    k.toS (rD w) (if b = .i32 then wrap 64 (sgn 32 r.1) else r.1) r.2
  | _, _ => {}

/-! ### Memory (Table 14-3) -/

/-- The address of a format M word (R297). -/
def Ctx.addr (k : Ctx) (w : Nat) : Nat := wrap 64 ((k.sr (rA w) + k.sr (rB w) * 2 ^ shM w : Nat) + dispM w)

/-- A scalar load. -/
def Ctx.ld (k : Ctx) (w : Nat) (signed : Bool) : Eff :=
  let n := scalarSize (typM w)
  let a := k.addr w
  match k.bads n false [(a, n)] with
  | some e => e
  | none =>
    let v := leNat (k.load k.s a n)
    let v := if signed then wrap 64 (sgn (8 * n) v) else v
    { run := fun t => k.upd (fun x => x.setS (rD w) (BitVec.ofNat 64 v)) (k.loaded a n t) }

/-- LD. -/
def semLd (k : Ctx) (w : Nat) : Eff := k.ld w true
/-- LDU. -/
def semLdu (k : Ctx) (w : Nat) : Eff := k.ld w false

/-- ST. -/
def semSt (k : Ctx) (w : Nat) : Eff :=
  let n := scalarSize (typM w)
  let a := k.addr w
  match k.bads n true [(a, n)] with
  | some e => e
  | none => { run := k.store a (leBytes n (k.sr (rD w))) }

/-- An atomic (R320): the old value goes to sD; what memory holds then is f of it. -/
def Ctx.atomic (k : Ctx) (w : Nat) (f : Nat → Nat) : Eff :=
  let a := (k.sr (rA w) + immS w) % 2 ^ 64
  if a % 8 = 0 ∧ segOf a = 2 ∧ inSegment k.c a 8 then { exc := some ⟨4, a, 1⟩ }
  else match k.bads 8 false [(a, 8)] with
    | some e => e
    | none =>
      let old := leNat (k.load k.s a 8)
      { run := fun t => k.upd (fun x => x.setS (rD w) (BitVec.ofNat 64 old)) (k.store a (leBytes 8 (f old)) t) }

/-- AADD. -/
def semAadd (k : Ctx) (w : Nat) : Eff := k.atomic w fun old => old + k.sr (rB w)
/-- ASWAP. -/
def semAswap (k : Ctx) (w : Nat) : Eff := k.atomic w fun _ => k.sr (rB w)
/-- ACAS. -/
def semAcas (k : Ctx) (w : Nat) : Eff := k.atomic w fun old => if old = k.sr (rD w) then k.sr (rB w) else old
/-- AFADD: RNE whatever `MODE` says, and no flag. -/
def semAfadd (k : Ctx) (w : Nat) : Eff := k.atomic w fun old => (Fmt.fp64.add ⟨.rne, false, false⟩ 0 old (k.sr (rB w))).1

end Sys2Proof.Machine
end

