-- ==== Sys2Proof/Machine/SemControl.lean ====
section
/-! DEFINITION. What the control, barrier and claim instructions do (13_burin_isa.md R290-R296, R305, R309-R313,
14_burin_opcodes.md R321, R322). -/

namespace Sys2Proof.Machine

/-! ### Placement (Table 13-6, R292-R295): what makes an instruction illegal where it stands -/

/-- The target of a relative branch. -/
def Ctx.relTarget (k : Ctx) (w : Nat) : Int := (k.x.pc : Int) + 16 * sgn 32 (imm32 w)

/-- Whether a target lies in instruction memory. -/
def targetOk (t : Int) : Bool := decide (0 ≤ t) && decide (t ≤ 0x3FFF0)

/-- Whether a branch may stand where it does, and its target is one. -/
def Ctx.branchOk (k : Ctx) (w : Nat) : Bool :=
  let i := k.x.pc / 16
  k.x.delay.isNone && decide (k.x.shadow = 0) && !lastOf k.x i && !lastOf k.x (i + 1) &&
    (if opc w = 0x47 then decide (k.sr (rA w) % 16 = 0) && targetOk (k.sr (rA w)) else targetOk (k.relTarget w))

/-- Whether a LOOP may stand where it does. -/
def Ctx.loopOk (k : Ctx) (w : Nat) : Bool :=
  let i := k.x.pc / 16
  let en := i + nbits (imm32 w) 13 0
  k.x.delay.isNone && !k.x.handler && decide (en ≤ 16383) &&
    (if rD w = 1 then !loopOn k.x.loop0 || (decide (loopStart k.x.loop0 ≤ i + 1) && decide (en ≤ loopEnd k.x.loop0))
     else !loopOn k.x.loop1)

/-- Whether an S-slot instruction is allowed where it stands, beside a V slot. -/
def Ctx.placed (k : Ctx) (sw vw : Nat) : Bool :=
  if isBranch sw then k.branchOk sw
  else if opc sw = 0x48 then k.loopOk sw
  else if opc sw = 0x49 then k.x.delay.isNone && decide (k.x.shadow = 0)
  else if opc sw = 0x51 then decide (k.x.shadow = 0) && k.x.handler && decide (vw = 0x8000000000000000)
  else true

/-! ### Branches -/

/-- A conditional branch. -/
def Ctx.cond (k : Ctx) (w : Nat) (p : Nat → Nat → Bool) : Eff :=
  { flow := .branch (if p (k.sr (bA w)) (k.sr (bB w)) then some (k.relTarget w).toNat else none) }

/-- BEQ. -/
def semBeq (k : Ctx) (w : Nat) : Eff := k.cond w fun a b => decide (a = b)
/-- BNE. -/
def semBne (k : Ctx) (w : Nat) : Eff := k.cond w fun a b => decide (a ≠ b)
/-- BLT. -/
def semBlt (k : Ctx) (w : Nat) : Eff := k.cond w fun a b => decide (s64 a < s64 b)
/-- BGE. -/
def semBge (k : Ctx) (w : Nat) : Eff := k.cond w fun a b => decide (s64 b ≤ s64 a)
/-- BLTU. -/
def semBltu (k : Ctx) (w : Nat) : Eff := k.cond w fun a b => decide (a < b)
/-- BGEU. -/
def semBgeu (k : Ctx) (w : Nat) : Eff := k.cond w fun a b => decide (b ≤ a)

/-- CALL: the register that field `A` names takes PC + 32. -/
def semCall (k : Ctx) (w : Nat) : Eff :=
  { k.toS (bA w) (k.x.pc + 32) with flow := .branch (some (k.relTarget w).toNat) }

/-- JR. -/
def semJr (k : Ctx) (w : Nat) : Eff :=
  { k.toS (rD w) (k.x.pc + 32) with flow := .branch (some (k.sr (rA w))) }

/-- LOOP (R294, R295). -/
def semLoop (k : Ctx) (w : Nat) : Eff :=
  let i := k.x.pc / 16
  let n := if rA w = 0 then nbits (imm32 w) 31 16 else k.sr (rA w) % 2 ^ 32
  { flow := .loop (rD w) (i + 1 + (i + nbits (imm32 w) 13 0) * 2 ^ 14 + n * 2 ^ 32) }

/-- SETMODE (R291). -/
def semSetmode (k : Ctx) (w : Nat) : Eff :=
  { flow := .setMode ((if fmtOf w = 1 then imm32 w else k.sr (rA w)) % 1024) }

/-! ### Control registers (R290, Table 13-3) -/

/-- What a control register reads; `CYCLE` depends on the core's clock, so it is a free value. -/
def Ctx.crd (k : Ctx) (n : Nat) : Nat :=
  match n with
  | 0 => k.x.mode.toNat
  | 1 => k.x.flags.toNat
  | 2 => k.x.loop0.toNat
  | 3 => k.x.loop1.toNat
  | 4 => k.x.epc.toNat
  | 5 => k.x.ecause.toNat
  | 6 => k.x.eaddr.toNat
  | 7 => k.x.evec.toNat
  | 8 => k.x.srseed.toNat
  | 9 => (Config.freeValue k.free).toNat
  | _ => k.s.time % 2 ^ 64

/-- CRD. -/
def semCrd (k : Ctx) (w : Nat) : Eff := { k.toS (rD w) (k.crd (crOf w)) with frees := b2n (decide (crOf w = 9)) }

/-- A control register written; a transport core has no EVEC. -/
def crWrite (c : Core) (x : CoreSt) (n : Nat) (v : Word) : CoreSt :=
  match n with
  | 1 => { x with flags := BitVec.ofNat 64 (v.toNat % 32) }
  | 2 => { x with loop0 := v }
  | 3 => { x with loop1 := v }
  | 4 => { x with epc := v }
  | 5 => { x with ecause := v }
  | 6 => { x with eaddr := v }
  | 7 => if kindOf c = .tport then x else { x with evec := v }
  | 8 => { x with srseed := v }
  | _ => x

/-- CWR. -/
def semCwr (k : Ctx) (w : Nat) : Eff := { run := k.upd fun x => crWrite k.c x (crOf w) (BitVec.ofNat 64 (k.sr (rA w))) }

/-- MSYNC: every earlier store of the core is visible already (R300). -/
def semMsync (_ : Ctx) (_ : Nat) : Eff := {}

/-- PHASE (R305): a NOP but in the sequencer. -/
def semPhase (k : Ctx) (w : Nat) : Eff :=
  match k.c with
  | .seq p => { run := fun t => t.setPlate p { t.plate p with phase := imm32 w % 16 } }
  | _ => {}

/-- HALT (R313). -/
def semHalt (_ : Ctx) (_ : Nat) : Eff := { flow := .halt }
/-- BREAK. -/
def semBreak (_ : Ctx) (w : Nat) : Eff := { flow := .after 8 (imm32 w) }
/-- TRAP. -/
def semTrap (_ : Ctx) (w : Nat) : Eff := { flow := .after 9 (imm32 w) }
/-- ERET (R309, R310). -/
def semEret (_ : Ctx) (_ : Nat) : Eff := { flow := .eret }

/-! ### Barriers and claims (R268-R271, R322) -/

/-- The plate of a core and the number its barriers know it by. -/
def barId : Core → Option (Nat × Nat)
  | .seq p => some (p, 32)
  | .burin p b => some (p, b)
  | .tport _ => none

/-- BARW. -/
def semBarw (k : Ctx) (w : Nat) : Eff :=
  match barId k.c with
  | some (p, i) => { run := fun t => t.barArrive p (imm32 w % 8) i }
  | none => {}

/-- BARMASK. -/
def semBarmask (k : Ctx) (w : Nat) : Eff :=
  match corePlate k.c with
  | some p => { run := fun t => t.barNarrow p (imm32 w % 8) (k.sr (rA w)) }
  | none => {}

/-- BARGEN. -/
def semBargen (k : Ctx) (w : Nat) : Eff :=
  match corePlate k.c with
  | some p => k.toS (rD w) ((k.s.bar p (imm32 w % 8)).gen % 2 ^ 32)
  | none => {}

/-- CLAIM. -/
def semClaim (k : Ctx) (w : Nat) : Eff :=
  match k.c with
  | .burin p b => { run := fun t => let r := t.claim p (imm32 w % 8) b; k.upd (fun x => x.setS (rD w) (BitVec.ofNat 64 r.2)) r.1 }
  | _ => k.toS (rD w) 0xFFFFFFFF

end Sys2Proof.Machine
end

