-- ==== Sys2Proof/Machine/SemVector.lean ====
section
/-! DEFINITION. What the vector arithmetic, compare, mask, reduction, binned-sum and move instructions do
(14_burin_opcodes.md R323-R325, R327, R328; 15_arithmetic.md R354-R357). -/

namespace Sys2Proof.Machine

/-! ### Elements and masks (R288, R323) -/

/-- Element i of w bits. -/
def eltAt (w v i : Nat) : Nat := v / 2 ^ (w * i) % 2 ^ w

/-- Elements packed into a register. -/
def packElts (w : Nat) (l : List Nat) : Nat := l.foldr (fun x a => x % 2 ^ w + a * 2 ^ w) 0

/-- The element type of a format R word. -/
def eltR (w : Nat) : Elt := (Elt.ofCode (typR w)).getD .i64

/-- Elements of a register. -/
def countOf (t : Elt) : Nat := 2048 / t.width

/-- Whether element i of w bits is active under a mask register or none. -/
def activeBy (mv : Bool) (m w i : Nat) : Bool := !mv || nbit m (i * w / 32)

/-- Whether element i of a format R word is active. -/
def Ctx.active (k : Ctx) (word w i : Nat) : Bool := activeBy (mvR word) (k.x.mr (mR word)) w i

/-- Elements 0 to n - 1 of a result: f of the element's number and draw where it is active, else the old element; and the
flags of all. -/
def mapElts (w n : Nat) (act : Nat → Bool) (old : Nat) (draws : List Nat) (f : Nat → Nat → Nat × Flags) : Nat × Flags :=
  let r := (List.range n).foldl (fun (a : List Nat × Flags × List Nat) i =>
    if act i then
      let y := f i (a.2.2.headD 0)
      (y.1 :: a.1, a.2.1 ||| y.2, a.2.2.drop 1)
    else (eltAt w old i :: a.1, a.2)) ([], 0, draws)
  (packElts w r.1.reverse, r.2.1)

/-- An element-wise instruction. -/
def Ctx.elementwise (k : Ctx) (word : Nat) (f : Nat → Nat → Nat → Nat → Nat × Flags) : Eff :=
  let w := (eltR word).width
  let a := k.vr (rA word)
  let b := k.vr (rB word)
  let c := k.vr (rC word)
  let r := mapElts w (2048 / w) (k.active word w) (k.vr (rD word)) k.draws fun i d => f d (eltAt w a i) (eltAt w b i) (eltAt w c i)
  k.toV (rD word) r.1 r.2

/-- The FP format of a word's type, if it has one. -/
def fmtR (word : Nat) : Option Fmt := (eltR word).fmt

/-- An instruction that is FP arithmetic or wrapping integer arithmetic. -/
def Ctx.arith (k : Ctx) (word : Nat) (fp : Fmt → Rnd → Nat → Nat → Nat → Nat → Nat × Flags) (int : Nat → Nat → Nat → Nat) : Eff :=
  let w := (eltR word).width
  match fmtR word with
  | some f => k.elementwise word fun d a b c => fp f (k.rnd word) d a b c
  | none => k.elementwise word fun _ a b _ => (int w a b % 2 ^ w, 0)

/-- VNOP. -/
def semVnop (_ : Ctx) (_ : Nat) : Eff := {}
/-- VADD. -/
def semVadd (k : Ctx) (w : Nat) : Eff := k.arith w (fun f r d a b _ => f.add r d a b) fun _ a b => a + b
/-- VSUB. -/
def semVsub (k : Ctx) (w : Nat) : Eff := k.arith w (fun f r d a b _ => f.sub r d a b) fun n a b => a + 2 ^ n - b
/-- VMUL. -/
def semVmul (k : Ctx) (w : Nat) : Eff := k.arith w (fun f r d a b _ => f.mul r d a b) fun _ a b => a * b
/-- VFMA. -/
def semVfma (k : Ctx) (w : Nat) : Eff := k.arith w (fun f r d a b c => f.fma r d a b c) fun _ a _ => a
/-- VMIN. -/
def semVmin (k : Ctx) (w : Nat) : Eff :=
  k.arith w (fun f r _ a b _ => f.minmax false r.daz a b) fun n a b => if sgn n a ≤ sgn n b then a else b
/-- VMAX. -/
def semVmax (k : Ctx) (w : Nat) : Eff :=
  k.arith w (fun f r _ a b _ => f.minmax true r.daz a b) fun n a b => if sgn n a ≤ sgn n b then b else a
/-- VABS: the sign bit only. -/
def semVabs (k : Ctx) (w : Nat) : Eff := k.arith w (fun f _ _ a _ _ => (f.abs a, 0)) fun _ a _ => a
/-- VNEG: the sign bit only. -/
def semVneg (k : Ctx) (w : Nat) : Eff := k.arith w (fun f _ _ a _ _ => (f.neg a, 0)) fun _ a _ => a
/-- VDIV. -/
def semVdiv (k : Ctx) (w : Nat) : Eff := k.arith w (fun f r d a b _ => f.div r d a b) fun _ a _ => a
/-- VSQRT. -/
def semVsqrt (k : Ctx) (w : Nat) : Eff := k.arith w (fun f r d a _ _ => f.sqrt r d a) fun _ a _ => a

/-- A bit-wise or shift instruction. -/
def Ctx.bits2 (k : Ctx) (word : Nat) (f : Nat → Nat → Nat → Nat) : Eff :=
  k.elementwise word fun _ a b _ => (f (eltR word).width a b, 0)

/-- VAND. -/
def semVand (k : Ctx) (w : Nat) : Eff := k.bits2 w fun _ => Nat.land
/-- VOR. -/
def semVor (k : Ctx) (w : Nat) : Eff := k.bits2 w fun _ => Nat.lor
/-- VXOR. -/
def semVxor (k : Ctx) (w : Nat) : Eff := k.bits2 w fun _ => Nat.xor
/-- VSHL. -/
def semVshl (k : Ctx) (w : Nat) : Eff := k.bits2 w fun n a b => shl n a (b % n)
/-- VSHR. -/
def semVshr (k : Ctx) (w : Nat) : Eff := k.bits2 w fun n a b => shr n a (b % n)
/-- VSRA. -/
def semVsra (k : Ctx) (w : Nat) : Eff := k.bits2 w fun n a b => sra n a (b % n)

/-! ### Compares and masks (R325) -/

/-- A compare: the bits of the active elements replaced, two alike for a 64-bit element. -/
def Ctx.vcmp (k : Ctx) (word : Nat) (c : Cmp) : Eff :=
  let t := eltR word
  let w := t.width
  let a := k.vr (rA word)
  let b := k.vr (rB word)
  let test (i : Nat) : Bool × Flags :=
    let x := eltAt w a i
    let y := eltAt w b i
    match t.fmt with
    | some f => f.cmp c (k.rnd word).daz x y
    | none =>
      (match c with
      | .eq => (decide (x = y), 0)
      | .lt => (decide (sgn w x < sgn w y), 0)
      | .le => (decide (sgn w x ≤ sgn w y), 0)
      | .un => (false, 0))
  let r := mapElts (w / 32) (2048 / w) (k.active word w) (k.x.mr (rD word)) [] fun i _ =>
    (if (test i).1 then 2 ^ (w / 32) - 1 else 0, (test i).2)
  k.toM (rD word) r.1 r.2

/-- VCMPEQ. -/
def semVcmpeq (k : Ctx) (w : Nat) : Eff := k.vcmp w .eq
/-- VCMPLT. -/
def semVcmplt (k : Ctx) (w : Nat) : Eff := k.vcmp w .lt
/-- VCMPLE. -/
def semVcmple (k : Ctx) (w : Nat) : Eff := k.vcmp w .le
/-- VCMPUN. -/
def semVcmpun (k : Ctx) (w : Nat) : Eff := k.vcmp w .un
/-- MAND. -/
def semMand (k : Ctx) (w : Nat) : Eff := k.toM (rD w) (Nat.land (k.x.mr (rA w)) (k.x.mr (rB w)))
/-- MOR. -/
def semMor (k : Ctx) (w : Nat) : Eff := k.toM (rD w) (Nat.lor (k.x.mr (rA w)) (k.x.mr (rB w)))
/-- MXOR. -/
def semMxor (k : Ctx) (w : Nat) : Eff := k.toM (rD w) (Nat.xor (k.x.mr (rA w)) (k.x.mr (rB w)))
/-- MNOT. -/
def semMnot (k : Ctx) (w : Nat) : Eff := k.toM (rD w) (2 ^ 64 - 1 - k.x.mr (rA w))
/-- MSET. -/
def semMset (k : Ctx) (w : Nat) : Eff := k.toM (rD w) (k.sr (rA w))
/-- MGET. -/
def semMget (k : Ctx) (w : Nat) : Eff := k.toS (rD w) (k.x.mr (rA w))
/-- MPOPC. -/
def semMpopc (k : Ctx) (w : Nat) : Eff := k.toS (rD w) (popc 64 (k.x.mr (rA w)))

/-! ### Reductions (R327) -/

/-- A level of the tree: neighbours combined, with a draw for each node. -/
def treeLevel (f : Nat → Nat → Nat → Nat × Flags) : List Nat → List Nat → List Nat × Flags × List Nat
  | a :: b :: l, ds =>
    let y := f (ds.headD 0) a b
    let r := treeLevel f l (ds.drop 1)
    (y.1 :: r.1, y.2 ||| r.2.1, r.2.2)
  | l, ds => (l, 0, ds)

/-- The tree over a power of two of elements. -/
def tree (f : Nat → Nat → Nat → Nat × Flags) : Nat → List Nat → List Nat → Nat × Flags
  | 0, l, _ => (l.headD 0, 0)
  | n + 1, l, ds =>
    let r := treeLevel f l ds
    let t := tree f n r.1 r.2.2
    (t.1, r.2.1 ||| t.2)

/-- VREDADD: inactive elements enter as +0. -/
def semVredadd (k : Ctx) (word : Nat) : Eff :=
  let w := (eltR word).width
  let a := k.vr (rA word)
  let l := (List.range (2048 / w)).map fun i => if k.active word w i then eltAt w a i else 0
  let r := match fmtR word with
    | some f => tree (fun d x y => f.add (k.rnd word) d x y) 6 l k.draws
    | none => tree (fun _ x y => ((x + y) % 2 ^ w, 0)) 6 l []
  k.toV (rD word) r.1 r.2

/-- VREDMAX and VREDMIN over the active elements; with none, the value that loses to every other. -/
def Ctx.vred (k : Ctx) (word : Nat) (mx : Bool) : Eff :=
  let w := (eltR word).width
  let a := k.vr (rA word)
  let l := ((List.range (2048 / w)).filter (k.active word w)).map fun i => eltAt w a i
  match fmtR word with
  | some f =>
    let daz := (k.rnd word).daz
    let sig := Flags.when (l.any fun x => (f.read daz x).snan) Flags.iv
    (match l with
    | [] => k.toV (rD word) (f.signed mx f.infCode)
    | x :: xs => k.toV (rD word) (xs.foldl (fun m y => (f.minmax mx daz m y).1) (f.codeOf daz x)) sig)
  | none =>
    let z := if mx then 2 ^ (w - 1) else 2 ^ (w - 1) - 1
    k.toV (rD word) (l.foldl (fun m y => if (decide (sgn w m ≤ sgn w y)) = mx then y else m) z)

/-- VREDMAX. -/
def semVredmax (k : Ctx) (w : Nat) : Eff := k.vred w true
/-- VREDMIN. -/
def semVredmin (k : Ctx) (w : Nat) : Eff := k.vred w false

/-! ### Binned sums (R354-R357) -/

/-- Bits of a binned sum's integer. -/
def bsBits : Nat := 1984

/-- `COUNT`, the flag bits and N of a binned sum. -/
def bsCount (v : Nat) : Nat := v / 2 ^ 24 % 2 ^ 40
@[inherit_doc bsCount] def bsFlags (v : Nat) : Nat := v % 16
@[inherit_doc bsCount] def bsN (v : Nat) : Nat := v / 2 ^ 64 % 2 ^ bsBits

/-- A binned sum of its parts. -/
def bsMake (count fl n : Nat) : Nat := min count (2 ^ 40 - 1) * 2 ^ 24 + fl % 16 + n % 2 ^ bsBits * 2 ^ 64

/-- One value added (R355). -/
def bsAdd (f : Fmt) (v x : Nat) : Nat × Flags :=
  let c := bsCount v + 1
  match f.dec x with
  | .nan s => (bsMake c (Nat.lor (bsFlags v) 1) (bsN v), Flags.when s Flags.iv)
  | .inf neg => (bsMake c (Nat.lor (bsFlags v) (if neg then 4 else 2)) (bsN v), 0)
  | .fin neg m e =>
    let q : Int := e + 920
    let t := if 0 ≤ q then m * 2 ^ q.toNat else m / 2 ^ (-q).toNat
    let lost := decide (q < 0) && decide (m % 2 ^ (-q).toNat ≠ 0)
    let n := if neg then bsN v + 2 ^ bsBits - t % 2 ^ bsBits else bsN v + t
    (bsMake c (Nat.lor (bsFlags v) (if lost then 8 else 0)) n, 0)

/-- VBADD. -/
def semVbadd (k : Ctx) (word : Nat) : Eff :=
  let t := eltR word
  let w := t.width
  let a := k.vr (rA word)
  let f := t.fmt.getD .fp64
  let r := ((List.range (2048 / w)).filter (k.active word w)).foldl (fun (y : Nat × Flags) i =>
    let z := bsAdd f y.1 (eltAt w a i)
    (z.1, y.2 ||| z.2)) (k.vr (rD word), 0)
  -- with no active element only the reserved bits go
  k.toV (rD word) (bsMake (bsCount r.1) (bsFlags r.1) (bsN r.1)) r.2

/-- VBMRG (R356). -/
def semVbmrg (k : Ctx) (word : Nat) : Eff :=
  let a := k.vr (rA word)
  let d := k.vr (rD word)
  k.toV (rD word) (bsMake (bsCount a + bsCount d) (Nat.lor (bsFlags a) (bsFlags d)) (bsN a + bsN d))

/-- VBRND (R357, R346). -/
def semVbrnd (k : Ctx) (word : Nat) : Eff :=
  let v := k.vr (rA word)
  let f := (fmtR word).getD .fp64
  let r := { k.rnd word with ftz := false }
  let fl := bsFlags v
  if nbit fl 0 ∨ (nbit fl 1 ∧ nbit fl 2) ∨ 2 ^ 39 ≤ bsCount v then k.toV (rD word) f.nan
  else if nbit fl 1 then k.toV (rD word) f.infCode
  else if nbit fl 2 then k.toV (rD word) (f.signed true f.infCode)
  else
    let n := sgn bsBits (bsN v)
    if n = 0 then
      k.toV (rD word) (f.signed (decide (r.mode = .rdn)) 0) (if nbit fl 3 then Flags.uf ||| Flags.ix else 0)
    else
      let y := f.round r k.draw (decide (n < 0)) n.natAbs (-920)
      k.toV (rD word) y.1 (y.2 ||| Flags.when (nbit fl 3) Flags.ix)

/-! ### Moves and permutes (R328) -/

/-- VMOV. -/
def semVmov (k : Ctx) (w : Nat) : Eff := k.elementwise w fun _ a _ _ => (a, 0)

/-- VSEL: every element is written. -/
def semVsel (k : Ctx) (word : Nat) : Eff :=
  let w := (eltR word).width
  let a := k.vr (rA word)
  let r := mapElts w (2048 / w) (k.active word w) (k.vr (rB word)) [] fun i _ => (eltAt w a i, 0)
  k.toV (rD word) r.1

/-- VPERM. -/
def semVperm (k : Ctx) (word : Nat) : Eff :=
  let w := (eltR word).width
  k.elementwise word fun _ _ b _ => (eltAt w (k.vr (rA word)) (b % (2048 / w)), 0)

/-- VBCAST. -/
def semVbcast (k : Ctx) (word : Nat) : Eff := k.elementwise word fun _ _ _ _ => (k.sr (rA word) % 2 ^ (eltR word).width, 0)

/-- VEXT. -/
def semVext (k : Ctx) (word : Nat) : Eff :=
  let w := (eltR word).width
  k.toS (rD word) (eltAt w (k.vr (rA word)) (k.sr (rB word) % (2048 / w)))

/-- VINS. -/
def semVins (k : Ctx) (word : Nat) : Eff :=
  let w := (eltR word).width
  let i := k.sr (rB word) % (2048 / w)
  let d := k.vr (rD word)
  k.toV (rD word) (d - eltAt w d i * 2 ^ (w * i) + k.sr (rA word) % 2 ^ w * 2 ^ (w * i))

end Sys2Proof.Machine
end

