-- ==== Sys2Proof/Machine/SemConvert.lean ====
section
/-! DEFINITION. What the conversion, block-scaling, vector-memory, matrix, transfer and collective-issue instructions do
(14_burin_opcodes.md R326, R329-R332; 15_arithmetic.md R348-R353; 13_burin_isa.md R301-R304). -/

namespace Sys2Proof.Machine

/-! ### Conversion and block scaling (R326, R347-R351) -/

/-- The element type in field `C`. -/
def eltC (w : Nat) : Elt := (Elt.ofCode (rC w)).getD .i64

/-- n results of w bits, each from its number and draw, with the flags of all. -/
def genElts (w n : Nat) (draws : List Nat) (f : Nat → Nat → Nat × Flags) : Nat × Flags :=
  mapElts w n (fun _ => true) 0 draws f

/-- A part of a register replaced: q-th of parts of `bits` bits. -/
def putPart (old bits q v : Nat) : Nat := old - eltAt bits old q * 2 ^ (bits * q) + v % 2 ^ bits * 2 ^ (bits * q)

/-- VCVT. -/
def semVcvt (k : Ctx) (word : Nat) : Eff :=
  let a := eltR word
  let b := eltC word
  let q := mR word
  let src := k.vr (rA word)
  let one (i d : Nat) : Nat × Flags := convert a b (k.rnd word) d (eltAt a.width src i)
  if b.width < a.width then
    let n := 2048 / a.width
    let r := genElts b.width n k.draws one
    k.toV (rD word) (putPart (k.vr (rD word)) (n * b.width) q r.1) r.2
  else
    let n := 2048 / b.width
    let r := genElts b.width n k.draws fun i d => one (q * n + i) d
    k.toV (rD word) r.1 r.2

/-- The scale of a block of wide elements (R349), and whether IV is raised. -/
def blockScale (f : Fmt) (daz : Bool) (bs8 : Bool) (l : List Nat) : Nat × Flags :=
  let vs := l.map (f.read daz)
  if vs.any fun v => match v with | .fin _ _ _ => false | _ => true then (0xFF, Flags.iv)
  else
    -- magnitudes as multiples of the smallest subnormal
    let m : Nat := vs.foldl (fun (a : Nat) (v : FVal) => match v with | .fin _ m e => max a (m * 2 ^ (e - f.qmin).toNat) | _ => a) 0
    if m = 0 then (127, 0)
    else
      -- the smallest e with m * 2^qmin <= top * 2^e
      let top : Nat := if bs8 then 448 else 6
      let fits (e : Int) : Bool :=
        let x := e - f.qmin
        if 0 ≤ x then decide (m ≤ top * 2 ^ x.toNat) else decide (m * 2 ^ (-x).toNat ≤ top)
      let e0 : Int := (m.log2 : Int) + f.qmin - (if bs8 then 9 else 3)
      let e : Int := if fits e0 then e0 else if fits (e0 + 1) then e0 + 1 else e0 + 2
      ((min 254 (max 0 (e + 127))).toNat, 0)

/-- VSCALE. -/
def semVscale (k : Ctx) (word : Nat) : Eff :=
  let t := eltR word
  let f := t.fmt.getD .fp32
  let a := k.vr (rA word)
  let r := (List.range (2048 / t.width / 32)).foldl (fun (y : Nat × Flags) j =>
    let z := blockScale f (k.rnd word).daz (decide (eltC word = .bs8)) ((List.range 32).map fun i => eltAt t.width a (32 * j + i))
    (y.1 + z.1 * 2 ^ (8 * j), y.2 ||| z.2)) (0, 0)
  k.toS (rD word) r.1 r.2

/-- The element format of a block type. -/
def blkFmt (t : Elt) : Fmt := if t = .bs8 then .e4m3 else .e2m1

/-- VQNT (R350). A NaN has no E2M1 code that the spec states, an infinity neither: those codes are free values. -/
def semVqnt (k : Ctx) (word : Nat) : Eff :=
  let t := eltR word
  let f := t.fmt.getD .fp32
  let b := eltC word
  let g := blkFmt b
  let n := 2048 / t.width
  let a := k.vr (rA word)
  let scales := k.sr (rB word)
  let r := { k.rnd word with ftz := false }
  let one (i d : Nat) : Nat × Flags :=
    let sc := scales / 2 ^ (8 * (i / 32)) % 256
    if sc = 0xFF then (if b = .bs8 then 0x7F else 0, Flags.iv)
    else match f.read r.daz (eltAt t.width a i) with
      | .fin neg m e => g.round r d neg m (e - ((sc : Int) - 127))
      | v => if b = .bs8 then g.ofVal r d v else ((Config.freeValue (k.free + i)).toNat % 16, Flags.when v.snan Flags.iv)
  let y := genElts b.width n k.draws one
  { k.toV (rD word) (putPart (k.vr (rD word)) (n * b.width) (mR word) y.1) y.2 with frees := n }

/-- VDQ (R351). -/
def semVdq (k : Ctx) (word : Nat) : Eff :=
  let t := eltR word
  let f := t.fmt.getD .fp32
  let b := eltC word
  let g := blkFmt b
  let n := 2048 / t.width
  let a := k.vr (rA word)
  let scales := k.sr (rB word)
  let one (i d : Nat) : Nat × Flags :=
    let sc := scales / 2 ^ (8 * (i / 32)) % 256
    if sc = 0xFF then (f.nan, Flags.iv)
    else match g.dec (eltAt b.width a (mR word * n + i)) with
      | .fin neg m e => f.round (k.rnd word) d neg m (e + ((sc : Int) - 127))
      | _ => (f.nan, 0)
  let y := genElts t.width n k.draws one
  k.toV (rD word) y.1 y.2

/-! ### Vector memory (R329) -/

/-- The accesses of a whole-register load or store of n bytes: the 4-byte slots that are active. -/
def Ctx.slots (k : Ctx) (word a n : Nat) : List (Nat × Nat) :=
  ((List.range (n / 4)).filter fun i => activeBy (mvM word) (k.x.mr (mM word)) 32 (i % 64)).map fun i => (a + 4 * i, 4)

/-- The first exception of a whole-register access: its alignment, then its active slots. -/
def Ctx.wholeBad (k : Ctx) (word a n : Nat) (wr : Bool) : Option Eff :=
  let l := k.slots word a n
  if l = [] then none
  else if a % 64 ≠ 0 then some { exc := some ⟨2, a, 0⟩ }
  else k.bads 4 wr l

/-- Bytes of a register with its active slots read anew. -/
def Ctx.readSlots (k : Ctx) (word a old : Nat) : Nat :=
  packElts 32 ((List.range 64).map fun i =>
    if activeBy (mvM word) (k.x.mr (mM word)) 32 i then leNat (k.load k.s (a + 4 * i) 4) else eltAt 32 old i)

/-- What the loads of a list of accesses leave behind. -/
def Ctx.loadedAll (k : Ctx) (l : List (Nat × Nat)) (t : State) : State := l.foldl (fun t y => k.loaded y.1 y.2 t) t

/-- VLD. -/
def semVld (k : Ctx) (word : Nat) : Eff :=
  let a := k.addr word
  match k.wholeBad word a 256 false with
  | some e => e
  | none =>
    let v := k.readSlots word a (k.vr (rD word))
    { run := fun t => k.upd (fun x => x.setV (rD word) v) (k.loadedAll (k.slots word a 256) t) }

/-- VLD2. -/
def semVld2 (k : Ctx) (word : Nat) : Eff :=
  let a := k.addr word
  match k.wholeBad word a 512 false with
  | some e => e
  | none =>
    let v := k.readSlots word a (k.vr (rD word))
    let u := k.readSlots word (a + 256) (k.vr (rD word + 1))
    { run := fun t => k.upd (fun x => (x.setV (rD word) v).setV (rD word + 1) u) (k.loadedAll (k.slots word a 512) t) }

/-- VST. -/
def semVst (k : Ctx) (word : Nat) : Eff :=
  let a := k.addr word
  match k.wholeBad word a 256 true with
  | some e => e
  | none =>
    let v := k.vr (rD word)
    { run := fun t => (k.slots word a 256).foldl (fun t y => k.store y.1 (leBytes 4 (eltAt 32 v ((y.1 - a) / 4))) t) t }

/-- The element type of a format M word. -/
def eltM (w : Nat) : Elt := (Elt.ofCode (typM w)).getD .i64

/-- The address of element i of a strided, or an indexed, access. -/
def Ctx.eltAddr (k : Ctx) (word : Nat) (indexed : Bool) (i : Nat) : Nat :=
  let w := (eltM word).width
  let base : Int := (k.sr (rA word) : Int) + dispM word
  wrap 64 (if indexed then base + eltAt 32 (k.vr (rB word)) (i * w / 32) else base + i * k.sr (rB word))

/-- The active elements of a strided or indexed access. -/
def Ctx.eltsOn (k : Ctx) (word : Nat) : List Nat :=
  let w := (eltM word).width
  (List.range (2048 / w)).filter fun i => activeBy (mvM word) (k.x.mr (mM word)) w i

/-- A strided or indexed load. -/
def Ctx.gather (k : Ctx) (word : Nat) (indexed : Bool) : Eff :=
  let w := (eltM word).width
  let l := (k.eltsOn word).map fun i => (k.eltAddr word indexed i, w / 8)
  match k.bads (w / 8) false l with
  | some e => e
  | none =>
    let r := mapElts w (2048 / w) (fun i => activeBy (mvM word) (k.x.mr (mM word)) w i) (k.vr (rD word)) [] fun i _ =>
      (leNat (k.load k.s (k.eltAddr word indexed i) (w / 8)), 0)
    { run := fun t => k.upd (fun x => x.setV (rD word) r.1) (k.loadedAll l t) }

/-- A strided or indexed store: the highest-numbered element's bytes remain. -/
def Ctx.scatter (k : Ctx) (word : Nat) (indexed : Bool) : Eff :=
  let w := (eltM word).width
  match k.bads (w / 8) true ((k.eltsOn word).map fun i => (k.eltAddr word indexed i, w / 8)) with
  | some e => e
  | none =>
    let v := k.vr (rD word)
    { run := fun t => (k.eltsOn word).foldl (fun t i => k.store (k.eltAddr word indexed i) (leBytes (w / 8) (eltAt w v i)) t) t }

/-- VLDS. -/
def semVlds (k : Ctx) (w : Nat) : Eff := k.gather w false
/-- VSTS. -/
def semVsts (k : Ctx) (w : Nat) : Eff := k.scatter w false
/-- VGATH. -/
def semVgath (k : Ctx) (w : Nat) : Eff := k.gather w true
/-- VSCAT. -/
def semVscat (k : Ctx) (w : Nat) : Eff := k.scatter w true

/-! ### Matrix (R330, R331, R352, R353) -/

/-- Element i of a matrix operand that begins at register n. -/
def Ctx.mat (k : Ctx) (w n i : Nat) : Nat := eltAt w (k.vr (n + i * w / 2048)) (i % (2048 / w))

/-- The value of a code of a matrix type. -/
def matVal (t : Elt) (v : Nat) : FVal :=
  match t with
  | .bs8 => Fmt.e4m3.dec v
  | .bs4 => Fmt.e2m1.dec v
  | .i8 => ofInt 8 v
  | t => (t.fmt.getD .fp32).dec v

/-- What a product is: not a number (with IV), an infinity, or a number. -/
def mulVal (x y : FVal) : FVal × Bool :=
  match x, y with
  | .nan a, b => (.nan false, a || b.snan)
  | a, .nan b => (.nan false, b || a.snan)
  | .inf n, .inf m => (.inf (n ^^ m), false)
  | .inf n, .fin m a _ => if a = 0 then (.nan false, true) else (.inf (n ^^ m), false)
  | .fin m a _, .inf n => if a = 0 then (.nan false, true) else (.inf (n ^^ m), false)
  | .fin n a e, .fin m b d => (.fin (n ^^ m) (a * b) (e + d), false)

/-- The terms of a dot product gathered: whether a NaN, +infinity, -infinity is among them, IV, and the exact sum in units of
2^lo. -/
structure Dot where
  nan : Bool := false
  pinf : Bool := false
  ninf : Bool := false
  iv : Bool := false
  sum : Int := 0

/-- One more term; lo is at most any term's exponent. -/
def Dot.add (d : Dot) (lo : Int) (x : FVal × Bool) : Dot :=
  let d := { d with iv := d.iv || x.2 }
  match x.1 with
  | .nan s => { d with nan := true, iv := d.iv || s }
  | .inf n => if n then { d with ninf := true } else { d with pinf := true }
  | .fin n m e =>
    let v : Int := (m * 2 ^ (e - lo).toNat : Nat)
    { d with sum := d.sum + if n then -v else v }

/-- acc + dot rounded once to FP32 (R352, R353); sc: the scales' product as an exponent, none where one is 0xFF. -/
def dotRound (r : Rnd) (draw acc : Nat) (terms : List (FVal × Bool)) (sc : Option Int) : Nat × Flags :=
  let f := Fmt.fp32
  match sc with
  | none => (f.nan, Flags.iv)
  | some z =>
    let shift (x : FVal) : FVal := match x with | .fin n m e => .fin n m (e + z) | y => y
    let all := (f.dec acc, false) :: terms.map fun x => (shift x.1, x.2)
    let lo := all.foldl (fun (m : Int) x => match x.1 with | .fin _ _ e => min m e | _ => m) 0
    let d := all.foldl (fun d x => Dot.add d lo x) ({} : Dot)
    let iv := Flags.when (d.iv || (d.pinf && d.ninf)) Flags.iv
    if d.nan ∨ (d.pinf ∧ d.ninf) then (f.nan, iv)
    else if d.pinf then (f.infCode, iv)
    else if d.ninf then (f.signed true f.infCode, iv)
    else if d.sum = 0 then (f.signed (decide (r.mode = .rdn)) 0, iv)
    else
      let y := f.round r draw (decide (d.sum < 0)) d.sum.natAbs lo
      (y.1, y.2 ||| iv)

/-- MMA. -/
def semMma (k : Ctx) (word : Nat) : Eff :=
  let t := eltR word
  let w := t.width
  let r := { k.rnd word with daz := false, ftz := false }
  let scales := k.vr (rC word)
  let blk := isBlk t
  let row (i : Nat) : List FVal := (List.range 32).map fun j => matVal t (k.mat w (rA word) (32 * i + j))
  let col (j : Nat) : List FVal := (List.range 32).map fun i => matVal t (k.mat w (rB word) (32 * j + i))
  let rows := (List.range 32).map row
  let cols := (List.range 32).map col
  let scale (i j : Nat) : Option Int :=
    if blk then
      let a := eltAt 8 scales i
      let b := eltAt 8 scales (32 + j)
      if a = 0xFF ∨ b = 0xFF then none else some ((a : Int) + b - 254)
    else some 0
  let out := (List.range 1024).map fun n =>
    dotRound r (k.draws.getD n 0) (k.x.accE (rD word) (n / 32) (n % 32))
      (((rows.getD (n / 32) []).zip (cols.getD (n % 32) [])).map fun y => mulVal y.1 y.2) (scale (n / 32) (n % 32))
  { flags := out.foldl (fun a y => a ||| y.2) 0, run := k.upd fun x => x.setAcc (rD word) 0 (out.map (·.1)) }

/-- ACCZ. -/
def semAccz (k : Ctx) (w : Nat) : Eff := { run := k.upd fun x => x.setAcc (rD w) 0 (List.replicate 1024 0) }

/-- ACCGET. -/
def semAccget (k : Ctx) (w : Nat) : Eff :=
  k.toV (rD w) (packElts 32 ((List.range 64).map fun n => k.x.accE (rA w) (2 * rC w + n / 32) (n % 32)))

/-- ACCPUT. -/
def semAccput (k : Ctx) (w : Nat) : Eff :=
  let a := k.vr (rA w)
  { run := k.upd fun x => x.setAcc (rD w) (2 * rC w * 32) ((List.range 64).map fun n => eltAt 32 a n) }

/-- The exception of a 4 KiB access of an accumulator, which reaches segments 0 and 1. -/
def Ctx.accBad (k : Ctx) (a : Nat) (wr : Bool) : Option Eff :=
  if a % 64 = 0 ∧ 2 ≤ segOf a then some { exc := some ⟨3, a, 0⟩ } else k.bads 64 wr [(a, 4096)]

/-- ACCLD. -/
def semAccld (k : Ctx) (w : Nat) : Eff :=
  let a := k.addr w
  match k.accBad a false with
  | some e => e
  | none =>
    let bs := k.load k.s a 4096
    { run := k.upd fun x => x.setAcc (rD w) 0 ((List.range 1024).map fun n => leNat ((bs.drop (4 * n)).take 4)) }

/-- ACCST. -/
def semAccst (k : Ctx) (w : Nat) : Eff :=
  let a := k.addr w
  match k.accBad a true with
  | some e => e
  | none => { run := k.store a ((List.range 1024).flatMap fun n => leBytes 4 (k.x.accE (rD w) (n / 32) (n % 32))) }

/-! ### Transfers (R301-R303) -/

/-- The number of a queue. -/
def queueOf (w : Nat) : Nat := imm32 w % 4

/-- XPOST: the descriptor is read after the S slot's stores, checked, and appended; a full queue stalls. -/
def semXpost (k : Ctx) (w : Nat) : Eff :=
  match corePlate k.c with
  | none => {}
  | some p =>
    let a := k.sr (rA w)
    let q := k.s.mq p (queueOf w)
    if a % 64 = 0 ∧ segOf a ≠ 1 then { exc := some ⟨3, a, 0⟩ }
    else match k.bads 64 false [(a, 64)] with
      | some e => e
      | none =>
        let d := wordsOf 8 (k.load k.after a 64)
        if dFaults d ≠ 0 then { exc := some ⟨7, a, dFaults d⟩ }
        else if 16 ≤ q.q.length then { stall := true }
        else
          let n := (q.ended + q.q.length + 1) % 2 ^ 32
          { run := fun t =>
              k.upd (fun x => x.setS (rD w) (BitVec.ofNat 64 n))
                (t.setMq p (queueOf w) { t.mq p (queueOf w) with q := (t.mq p (queueOf w)).q ++ [d.take 5] }) }

/-- XCOUNT. -/
def semXcount (k : Ctx) (w : Nat) : Eff :=
  match corePlate k.c with
  | some p => k.toS (rD w) (k.s.mq p (queueOf w)).ended
  | none => {}

/-- XWAIT. -/
def semXwait (k : Ctx) (w : Nat) : Eff :=
  match corePlate k.c with
  | some p => { stall := decide (2 ^ 31 ≤ ((k.s.mq p (queueOf w)).ended + 2 ^ 64 - k.sr (rA w)) % 2 ^ 32) }
  | none => {}

/-- XERR. -/
def semXerr (k : Ctx) (w : Nat) : Eff :=
  match corePlate k.c with
  | some p => k.toS (rD w) (b2n (k.s.mq p (queueOf w)).err)
  | none => {}

/-- XCLR. -/
def semXclr (k : Ctx) (w : Nat) : Eff :=
  match corePlate k.c with
  | some p => { run := fun t => t.setMq p (queueOf w) { t.mq p (queueOf w) with err := false } }
  | none => {}

/-! ### Collective issue (R304) -/

/-- The lowest ticket that plate p does not hold. -/
def State.freeTicket (s : State) (p : Nat) : Option Nat := (List.range 16).find? fun t => (mget (s.plate p).tickets t).isNone

/-- CISSUE: the descriptor is read after the S slot's stores; with 16 tickets held, or the group's queue full, it stalls. -/
def semCissue (k : Ctx) (w : Nat) : Eff :=
  match corePlate k.c with
  | none => {}
  | some p =>
    let a := k.sr (rA w)
    if a % 64 = 0 ∧ 2 ≤ segOf a then { exc := some ⟨3, a, 0⟩ }
    else match k.bads 64 false [(a, 64)] with
      | some e => e
      | none =>
        match k.after.freeTicket p with
        | none => { stall := true }
        | some n =>
          let ws := wordsOf 8 (k.load k.after a 64)
          let hold (st : Option Nat) (t : State) : State :=
            k.upd (fun x => x.setS (rD w) (BitVec.ofNat 64 n)) (t.setPlate p { t.plate p with tickets := mput (t.plate p).tickets n { status := st } })
          if ws.getD 7 0 ≠ 0 then { run := hold (some 0x01) }
          else match k.after.submit (k.after.plateOwner p) ws (.ticket p n) k.e.host with
            | .full _ => { stall := true }
            | .refused st _ => { run := hold (some st) }
            | .taken _ => { run := fun t =>
                match (hold none t).submit (t.plateOwner p) ws (.ticket p n) k.e.host with
                | .taken u => u
                | _ => hold none t }

/-- CWAIT: a ticket that is not held answers `ST_MALFORMED` at once. -/
def semCwait (k : Ctx) (w : Nat) : Eff :=
  match corePlate k.c with
  | none => {}
  | some p =>
    match mget (k.s.plate p).tickets (k.sr (rA w)) with
    | none => k.toS (rD w) 0x01
    | some t =>
      match t.status with
      | none => { stall := true }
      | some st =>
        { run := fun u => k.upd (fun x => x.setS (rD w) (BitVec.ofNat 64 st))
            (u.setPlate p { u.plate p with tickets := mdel (u.plate p).tickets (k.sr (rA w)) }) }

end Sys2Proof.Machine
end

