-- ==== Sys2Proof/Machine/Bundle.lean ====
section
/-! DEFINITION. The execution of a bundle (13_burin_isa.md R283-R314): which opcodes mean what, the draws a slot makes, the
order in which a bundle's exceptions, effects and flow apply, and the row of an instruction. -/

namespace Sys2Proof.Machine

/-! ### Opcodes -/

/-- What an opcode of the S slot comes to (14_burin_opcodes.md). -/
def semS (o : Nat) : Ctx → Nat → Eff :=
  match o with
  | 0x00 => semNop
  | 0x01 => semAdd
  | 0x02 => semSub
  | 0x03 => semMul
  | 0x04 => semMulh
  | 0x05 => semMulhu
  | 0x06 => semDiv
  | 0x07 => semDivu
  | 0x08 => semRem
  | 0x09 => semRemu
  | 0x0A => semAnd
  | 0x0B => semOr
  | 0x0C => semXor
  | 0x0D => semShl
  | 0x0E => semShr
  | 0x0F => semSra
  | 0x10 => semSlt
  | 0x11 => semSltu
  | 0x12 => semMin
  | 0x13 => semMax
  | 0x14 => semClz
  | 0x15 => semPopc
  | 0x18 => semAddi
  | 0x19 => semAndi
  | 0x1A => semOri
  | 0x1B => semXori
  | 0x1C => semShli
  | 0x1D => semShri
  | 0x1E => semSrai
  | 0x1F => semSlti
  | 0x20 => semLi
  | 0x21 => semLih
  | 0x28 => semFadd
  | 0x29 => semFsub
  | 0x2A => semFmul
  | 0x2B => semFfma
  | 0x2C => semFdiv
  | 0x2D => semFsqrt
  | 0x2E => semFmin
  | 0x2F => semFmax
  | 0x30 => semFcmpeq
  | 0x31 => semFcmplt
  | 0x32 => semFcmple
  | 0x33 => semFcvt
  | 0x38 => semLd
  | 0x39 => semLdu
  | 0x3A => semSt
  | 0x3C => semAadd
  | 0x3D => semAswap
  | 0x3E => semAcas
  | 0x3F => semAfadd
  | 0x40 => semBeq
  | 0x41 => semBne
  | 0x42 => semBlt
  | 0x43 => semBge
  | 0x44 => semBltu
  | 0x45 => semBgeu
  | 0x46 => semCall
  | 0x47 => semJr
  | 0x48 => semLoop
  | 0x49 => semSetmode
  | 0x4A => semCrd
  | 0x4B => semCwr
  | 0x4C => semMsync
  | 0x4D => semPhase
  | 0x4E => semHalt
  | 0x4F => semBreak
  | 0x50 => semTrap
  | 0x51 => semEret
  | 0x58 => semBarw
  | 0x59 => semBarmask
  | 0x5A => semBargen
  | 0x5B => semClaim
  | _ => fun _ _ => {}

/-- What an opcode of the V slot comes to. -/
def semV (o : Nat) : Ctx → Nat → Eff :=
  match o with
  | 0x80 => semVnop
  | 0x81 => semVadd
  | 0x82 => semVsub
  | 0x83 => semVmul
  | 0x84 => semVfma
  | 0x85 => semVmin
  | 0x86 => semVmax
  | 0x87 => semVabs
  | 0x88 => semVneg
  | 0x89 => semVdiv
  | 0x8A => semVsqrt
  | 0x8C => semVand
  | 0x8D => semVor
  | 0x8E => semVxor
  | 0x8F => semVshl
  | 0x90 => semVshr
  | 0x91 => semVsra
  | 0x94 => semVcmpeq
  | 0x95 => semVcmplt
  | 0x96 => semVcmple
  | 0x97 => semVcmpun
  | 0x98 => semVcvt
  | 0x99 => semVscale
  | 0x9A => semVqnt
  | 0x9B => semVdq
  | 0x9C => semVredadd
  | 0x9D => semVredmax
  | 0x9E => semVredmin
  | 0xA0 => semVmov
  | 0xA1 => semVsel
  | 0xA2 => semVperm
  | 0xA3 => semVbcast
  | 0xA4 => semVext
  | 0xA5 => semVins
  | 0xA8 => semMand
  | 0xA9 => semMor
  | 0xAA => semMxor
  | 0xAB => semMnot
  | 0xAC => semMset
  | 0xAD => semMget
  | 0xAE => semMpopc
  | 0xB0 => semVbadd
  | 0xB1 => semVbmrg
  | 0xB2 => semVbrnd
  | 0xB8 => semVld
  | 0xB9 => semVst
  | 0xBA => semVlds
  | 0xBB => semVsts
  | 0xBC => semVgath
  | 0xBD => semVscat
  | 0xBE => semVld2
  | 0xC0 => semMma
  | 0xC1 => semAccz
  | 0xC2 => semAccget
  | 0xC3 => semAccput
  | 0xC4 => semAccld
  | 0xC5 => semAccst
  | 0xD0 => semXpost
  | 0xD1 => semXcount
  | 0xD2 => semXwait
  | 0xD3 => semXerr
  | 0xD4 => semXclr
  | 0xD8 => semCissue
  | 0xD9 => semCwait
  | _ => fun _ _ => {}
/-! ### Draws (R343) -/

/-- Active elements of a format R word of w-bit elements. -/
def Ctx.activeCount (k : Ctx) (word w : Nat) : Nat := ((List.range (2048 / w)).filter fun i => k.active word w i).length

/-- Draws that a word makes when its rounding is stochastic (R343). -/
def Ctx.drawCount (k : Ctx) (word : Nat) : Nat :=
  let o := opc word
  let t := (Elt.ofCode (typR word)).getD .i64
  let u := (Elt.ofCode (rC word)).getD .i64
  let fp (y : Elt) : Bool := !ints.contains y
  if 0x28 ≤ o ∧ o ≤ 0x2D then 1
  else if o = 0x33 then b2n (fp t || fp u)
  else if (0x81 ≤ o ∧ o ≤ 0x84) ∨ o = 0x89 ∨ o = 0x8A then if fp t then k.activeCount word t.width else 0
  else if o = 0x98 then if fp t || fp u then 2048 / max t.width u.width else 0
  else if o = 0x9A ∨ o = 0x9B then 2048 / t.width
  else if o = 0x9C then if fp t then 2048 / t.width - 1 else 0
  else if o = 0xB2 then 1
  else if o = 0xC0 then 1024
  else 0

/-- The draws of a word, and the generator's state after them. -/
def Ctx.take (k : Ctx) (word seed : Nat) : List Nat × Nat :=
  srTake (k.rnd word).draws (if (k.rnd word).draws then k.drawCount word else 0) seed

/-! ### A bundle -/

/-- The mode a bundle runs under (R291). -/
def modeOf (x : CoreSt) : Nat := (if x.shadow = 0 then x.mode else x.oldMode).toNat

/-- The flags whose raising takes FPTRAP; none in a handler (R307). -/
def trapsOf (x : CoreSt) : Nat := if x.handler then 0 else modeOf x / 32 % 32

/-- The exception of a slot: its own, or FPTRAP for flags it would raise, of which a code below 6 goes first (R306). -/
def slotExc (x : CoreSt) (both : Flags) (r : Eff) : Option Exc :=
  match r.exc with
  | some z => some z
  | none => if Nat.land r.flags (trapsOf x) ≠ 0 then some ⟨6, x.pc, both⟩ else none

/-- An ILLEGAL of the bundle at a core's PC. -/
def illegal (x : CoreSt) : Exc := ⟨1, x.pc, 0⟩

/-- The bundle at a core's PC, its two words given, executes (R286, R287, R306). -/
def State.runBundle (s : State) (c : Core) (e : Env) (sw vw : Nat) : State :=
  let x := s.core c
  let kind := kindOf c
  let vw := if x.alone then 0x8000000000000000 else vw
  let k : Ctx := { s := s, after := s, c := c, x := x, e := e, mode := modeOf x, draws := [], free := s.free }
  if ¬ wordOk kind false sw ∨ ¬ k.placed sw vw ∨ ¬ pairOk sw vw then s.before c false (illegal x)
  else if ¬ wordOk kind true vw then s.before c true (illegal x)
  else
    let d1 := k.take sw x.srseed.toNat
    let d2 := k.take vw d1.2
    let a := semS (opc sw) { k with draws := d1.1 } sw
    let t := a.run s
    let b := semV (opc vw) { k with after := t, draws := d2.1, free := s.free + a.frees } vw
    let both := Flags.or a.flags b.flags
    match slotExc x both a with
    | some z => (b.ev (a.ev s)).before c false z
    | none =>
      match slotExc x both b with
      | some z => (b.ev (a.ev s)).before c true z
      | none =>
        if a.stall ∨ b.stall then s
        else
          let t := t.setCore c { t.core c with srseed := BitVec.ofNat 64 d2.2 }
          let t := if opc sw = 0x4B ∧ crOf sw = 8 then a.run t else t
          let t := b.run t
          let y := t.core c
          let t := t.setCore c { y with flags := BitVec.ofNat 64 (Nat.lor y.flags.toNat both) }
          let t := { t with free := t.free + a.frees + b.frees }
          t.advance c x (match a.flow with | .seq => b.flow | f => f) (decide (opc sw = 0x4B ∧ crOf sw = 2))
            (decide (opc sw = 0x4B ∧ crOf sw = 3))

/-! ### The start of an event on a transport core (R314) -/

/-- Whether a transport core runs a program loaded in place of the default. -/
def State.customCc (s : State) : Bool := (mget s.qpe.ccBank (s.rf Reg.umtCcCtrl F.umtCcCtrl_active)).isSome

/-- The DPA of the state that QP n keeps for the program: 64 bytes of its 256-byte context, at a place not stated. -/
def State.ccStateAt (s : State) (n : Nat) : Nat :=
  (s.rd Reg.qpeCtxBase).toNat / 2 ^ 26 * 2 ^ 26 + 256 * n + 64 * Config.ccStateSlot.toNat

/-- A transport core as its oldest event starts it (R314, Table 7-6). -/
def State.ccCore (s : State) (v : CcEvent) : CoreSt :=
  let w (n x : Nat) (y : CoreSt) : CoreSt := y.setS n (BitVec.ofNat 64 x)
  let y : CoreSt := w 2 v.kind (w 1 v.qp { run := .running })
  let y := if v.kind = 1 then w 5 v.acked (w 4 v.ce (w 3 v.owd y)) else y
  w 8 (s.lineRate (((mget s.qpe.qps v.qp).bind (·.port)).getD 0)) (w 7 (0x2000000000000000 + s.ccStateAt v.qp) (w 6 s.time y))

/-- The start of the oldest event of a transport core that is idle and has one. -/
def State.ccBegin (s : State) (i : Nat) : State :=
  match mget s.plt.cores (Core.key (.tport i)), s.ccQueue i with
  | none, v :: _ =>
    if s.customCc then
      let a := s.ccStateAt v.qp
      { s with free := s.free + 4096, plt.cores := mput s.plt.cores (Core.key (.tport i)) (s.ccCore v),
               plt.scratchFree := mput s.plt.scratchFree i s.free,
               plt.ccState := mput s.plt.ccState i (a, s.devBytes a 64 []) }
    else s
  | _, _ => s

/-! ### The row of an instruction -/

/-- Whether the row of an opcode names a bundle: its slot holds the opcode, and a branch executed again alone has no V slot
(Table 13-12). -/
def named (o : Nat) (alone : Bool) (sw vw : Nat) : Bool :=
  if o < 0x80 then decide (opc sw = o) else !alone && decide (opc vw = o)

/-- Whether some row names a bundle. -/
def nameable (alone : Bool) (sw vw : Nat) : Bool := sDefined (opc sw) || (!alone && vDefined (opc vw))

/-- The row of an opcode: the bundle at the core's PC executes where it holds the opcode in its slot. A PC past instruction
memory, and a bundle that no row names, are taken by whichever row comes (R286, R306). A core that does not run executes
nothing. -/
def State.isaRow (s : State) (o : Nat) (c : Core) (e : Env) : State :=
  let t := match c with | .tport i => s.ccBegin i | _ => s
  let x := t.core c
  if x.run ≠ .running then s
  else if pcEnd c ≤ x.pc then t.before c false ⟨10, x.pc, 0⟩
  else
    let w := t.bundleAt c x.pc
    let held := named o x.alone w.1 w.2 || !nameable x.alone w.1 w.2
    if ¬ held then s
    else
      let t := match corePlate c with | some p => t.countSbe p e.sbe | none => t
      match fetchDbe c x.pc e, corePlate c with
      | some d, some p => (t.evEcc d).plateStop p 3
      | _, _ => t.runBundle c e w.1 w.2

end Sys2Proof.Machine
end

