-- ==== Sys2Proof/Machine/IsaControl.lean ====
section
/-! DEFINITION. The rows of branches, control and barriers (13_burin_isa.md, 14_burin_opcodes.md R292-R322, 12_plates.md R271). -/

namespace Sys2Proof.Machine

/-- BEQ (R292): the bundle at the core's PC, which holds it, executes. -/
def execBeq (c : Core) (e : Env) (s : State) : Res := .next (s.isaRow 0x40 c e)

/-- BNE (R292): the bundle at the core's PC, which holds it, executes. -/
def execBne (c : Core) (e : Env) (s : State) : Res := .next (s.isaRow 0x41 c e)

/-- BLT (R292): the bundle at the core's PC, which holds it, executes. -/
def execBlt (c : Core) (e : Env) (s : State) : Res := .next (s.isaRow 0x42 c e)

/-- BGE (R292): the bundle at the core's PC, which holds it, executes. -/
def execBge (c : Core) (e : Env) (s : State) : Res := .next (s.isaRow 0x43 c e)

/-- BLTU (R292): the bundle at the core's PC, which holds it, executes. -/
def execBltu (c : Core) (e : Env) (s : State) : Res := .next (s.isaRow 0x44 c e)

/-- BGEU (R292): the bundle at the core's PC, which holds it, executes. -/
def execBgeu (c : Core) (e : Env) (s : State) : Res := .next (s.isaRow 0x45 c e)

/-- CALL (R292): the bundle at the core's PC, which holds it, executes. -/
def execCall (c : Core) (e : Env) (s : State) : Res := .next (s.isaRow 0x46 c e)

/-- JR (R292): the bundle at the core's PC, which holds it, executes. -/
def execJr (c : Core) (e : Env) (s : State) : Res := .next (s.isaRow 0x47 c e)

/-- LOOP (R294): the bundle at the core's PC, which holds it, executes. -/
def execLoop (c : Core) (e : Env) (s : State) : Res := .next (s.isaRow 0x48 c e)

/-- SETMODE (R291): the bundle at the core's PC, which holds it, executes. -/
def execSetmode (c : Core) (e : Env) (s : State) : Res := .next (s.isaRow 0x49 c e)

/-- CRD (R290): the bundle at the core's PC, which holds it, executes. -/
def execCrd (c : Core) (e : Env) (s : State) : Res := .next (s.isaRow 0x4A c e)

/-- CWR (R290): the bundle at the core's PC, which holds it, executes. -/
def execCwr (c : Core) (e : Env) (s : State) : Res := .next (s.isaRow 0x4B c e)

/-- MSYNC (R300): the bundle at the core's PC, which holds it, executes. -/
def execMsync (c : Core) (e : Env) (s : State) : Res := .next (s.isaRow 0x4C c e)

/-- PHASE (R305): the bundle at the core's PC, which holds it, executes. -/
def execPhase (c : Core) (e : Env) (s : State) : Res := .next (s.isaRow 0x4D c e)

/-- HALT (R313): the bundle at the core's PC, which holds it, executes. -/
def execHalt (c : Core) (e : Env) (s : State) : Res := .next (s.isaRow 0x4E c e)

/-- BREAK (R306): the bundle at the core's PC, which holds it, executes. -/
def execBrk (c : Core) (e : Env) (s : State) : Res := .next (s.isaRow 0x4F c e)

/-- TRAP (R306): the bundle at the core's PC, which holds it, executes. -/
def execTrap (c : Core) (e : Env) (s : State) : Res := .next (s.isaRow 0x50 c e)

/-- ERET (R309): the bundle at the core's PC, which holds it, executes. -/
def execEret (c : Core) (e : Env) (s : State) : Res := .next (s.isaRow 0x51 c e)

/-- BARW (R322): the bundle at the core's PC, which holds it, executes. -/
def execBarw (c : Core) (e : Env) (s : State) : Res := .next (s.isaRow 0x58 c e)

/-- BARMASK (R322): the bundle at the core's PC, which holds it, executes. -/
def execBarmask (c : Core) (e : Env) (s : State) : Res := .next (s.isaRow 0x59 c e)

/-- BARGEN (R322): the bundle at the core's PC, which holds it, executes. -/
def execBargen (c : Core) (e : Env) (s : State) : Res := .next (s.isaRow 0x5A c e)

/-- CLAIM (R271): the bundle at the core's PC, which holds it, executes. -/
def execClaim (c : Core) (e : Env) (s : State) : Res := .next (s.isaRow 0x5B c e)

end Sys2Proof.Machine
end

