-- ==== Sys2Proof/Machine/IsaScalar.lean ====
section
/-! DEFINITION. The rows of scalar arithmetic and scalar memory (14_burin_opcodes.md R317-R320). -/

namespace Sys2Proof.Machine

/-- NOP (R317): the bundle at the core's PC, which holds it, executes. -/
def execNop (c : Core) (e : Env) (s : State) : Res := .next (s.isaRow 0x00 c e)

/-- ADD (R317): the bundle at the core's PC, which holds it, executes. -/
def execAdd (c : Core) (e : Env) (s : State) : Res := .next (s.isaRow 0x01 c e)

/-- SUB (R317): the bundle at the core's PC, which holds it, executes. -/
def execSub (c : Core) (e : Env) (s : State) : Res := .next (s.isaRow 0x02 c e)

/-- MUL (R317): the bundle at the core's PC, which holds it, executes. -/
def execMul (c : Core) (e : Env) (s : State) : Res := .next (s.isaRow 0x03 c e)

/-- MULH (R317): the bundle at the core's PC, which holds it, executes. -/
def execMulh (c : Core) (e : Env) (s : State) : Res := .next (s.isaRow 0x04 c e)

/-- MULHU (R317): the bundle at the core's PC, which holds it, executes. -/
def execMulhu (c : Core) (e : Env) (s : State) : Res := .next (s.isaRow 0x05 c e)

/-- DIV (R317): the bundle at the core's PC, which holds it, executes. -/
def execDiv (c : Core) (e : Env) (s : State) : Res := .next (s.isaRow 0x06 c e)

/-- DIVU (R317): the bundle at the core's PC, which holds it, executes. -/
def execDivu (c : Core) (e : Env) (s : State) : Res := .next (s.isaRow 0x07 c e)

/-- REM (R317): the bundle at the core's PC, which holds it, executes. -/
def execRem (c : Core) (e : Env) (s : State) : Res := .next (s.isaRow 0x08 c e)

/-- REMU (R317): the bundle at the core's PC, which holds it, executes. -/
def execRemu (c : Core) (e : Env) (s : State) : Res := .next (s.isaRow 0x09 c e)

/-- AND (R317): the bundle at the core's PC, which holds it, executes. -/
def execAnd (c : Core) (e : Env) (s : State) : Res := .next (s.isaRow 0x0A c e)

/-- OR (R317): the bundle at the core's PC, which holds it, executes. -/
def execOr (c : Core) (e : Env) (s : State) : Res := .next (s.isaRow 0x0B c e)

/-- XOR (R317): the bundle at the core's PC, which holds it, executes. -/
def execXor (c : Core) (e : Env) (s : State) : Res := .next (s.isaRow 0x0C c e)

/-- SHL (R317): the bundle at the core's PC, which holds it, executes. -/
def execShl (c : Core) (e : Env) (s : State) : Res := .next (s.isaRow 0x0D c e)

/-- SHR (R317): the bundle at the core's PC, which holds it, executes. -/
def execShr (c : Core) (e : Env) (s : State) : Res := .next (s.isaRow 0x0E c e)

/-- SRA (R317): the bundle at the core's PC, which holds it, executes. -/
def execSra (c : Core) (e : Env) (s : State) : Res := .next (s.isaRow 0x0F c e)

/-- SLT (R317): the bundle at the core's PC, which holds it, executes. -/
def execSlt (c : Core) (e : Env) (s : State) : Res := .next (s.isaRow 0x10 c e)

/-- SLTU (R317): the bundle at the core's PC, which holds it, executes. -/
def execSltu (c : Core) (e : Env) (s : State) : Res := .next (s.isaRow 0x11 c e)

/-- MIN (R317): the bundle at the core's PC, which holds it, executes. -/
def execMin (c : Core) (e : Env) (s : State) : Res := .next (s.isaRow 0x12 c e)

/-- MAX (R317): the bundle at the core's PC, which holds it, executes. -/
def execMax (c : Core) (e : Env) (s : State) : Res := .next (s.isaRow 0x13 c e)

/-- CLZ (R317): the bundle at the core's PC, which holds it, executes. -/
def execClz (c : Core) (e : Env) (s : State) : Res := .next (s.isaRow 0x14 c e)

/-- POPC (R317): the bundle at the core's PC, which holds it, executes. -/
def execPopc (c : Core) (e : Env) (s : State) : Res := .next (s.isaRow 0x15 c e)

/-- ADDI (R317): the bundle at the core's PC, which holds it, executes. -/
def execAddi (c : Core) (e : Env) (s : State) : Res := .next (s.isaRow 0x18 c e)

/-- ANDI (R317): the bundle at the core's PC, which holds it, executes. -/
def execAndi (c : Core) (e : Env) (s : State) : Res := .next (s.isaRow 0x19 c e)

/-- ORI (R317): the bundle at the core's PC, which holds it, executes. -/
def execOri (c : Core) (e : Env) (s : State) : Res := .next (s.isaRow 0x1A c e)

/-- XORI (R317): the bundle at the core's PC, which holds it, executes. -/
def execXori (c : Core) (e : Env) (s : State) : Res := .next (s.isaRow 0x1B c e)

/-- SHLI (R317): the bundle at the core's PC, which holds it, executes. -/
def execShli (c : Core) (e : Env) (s : State) : Res := .next (s.isaRow 0x1C c e)

/-- SHRI (R317): the bundle at the core's PC, which holds it, executes. -/
def execShri (c : Core) (e : Env) (s : State) : Res := .next (s.isaRow 0x1D c e)

/-- SRAI (R317): the bundle at the core's PC, which holds it, executes. -/
def execSrai (c : Core) (e : Env) (s : State) : Res := .next (s.isaRow 0x1E c e)

/-- SLTI (R317): the bundle at the core's PC, which holds it, executes. -/
def execSlti (c : Core) (e : Env) (s : State) : Res := .next (s.isaRow 0x1F c e)

/-- LI (R317): the bundle at the core's PC, which holds it, executes. -/
def execLi (c : Core) (e : Env) (s : State) : Res := .next (s.isaRow 0x20 c e)

/-- LIH (R317): the bundle at the core's PC, which holds it, executes. -/
def execLih (c : Core) (e : Env) (s : State) : Res := .next (s.isaRow 0x21 c e)

/-- FADD (R318): the bundle at the core's PC, which holds it, executes. -/
def execFadd (c : Core) (e : Env) (s : State) : Res := .next (s.isaRow 0x28 c e)

/-- FSUB (R318): the bundle at the core's PC, which holds it, executes. -/
def execFsub (c : Core) (e : Env) (s : State) : Res := .next (s.isaRow 0x29 c e)

/-- FMUL (R318): the bundle at the core's PC, which holds it, executes. -/
def execFmul (c : Core) (e : Env) (s : State) : Res := .next (s.isaRow 0x2A c e)

/-- FFMA (R318): the bundle at the core's PC, which holds it, executes. -/
def execFfma (c : Core) (e : Env) (s : State) : Res := .next (s.isaRow 0x2B c e)

/-- FDIV (R318): the bundle at the core's PC, which holds it, executes. -/
def execFdiv (c : Core) (e : Env) (s : State) : Res := .next (s.isaRow 0x2C c e)

/-- FSQRT (R318): the bundle at the core's PC, which holds it, executes. -/
def execFsqrt (c : Core) (e : Env) (s : State) : Res := .next (s.isaRow 0x2D c e)

/-- FMIN (R318): the bundle at the core's PC, which holds it, executes. -/
def execFmin (c : Core) (e : Env) (s : State) : Res := .next (s.isaRow 0x2E c e)

/-- FMAX (R318): the bundle at the core's PC, which holds it, executes. -/
def execFmax (c : Core) (e : Env) (s : State) : Res := .next (s.isaRow 0x2F c e)

/-- FCMPEQ (R318): the bundle at the core's PC, which holds it, executes. -/
def execFcmpeq (c : Core) (e : Env) (s : State) : Res := .next (s.isaRow 0x30 c e)

/-- FCMPLT (R318): the bundle at the core's PC, which holds it, executes. -/
def execFcmplt (c : Core) (e : Env) (s : State) : Res := .next (s.isaRow 0x31 c e)

/-- FCMPLE (R318): the bundle at the core's PC, which holds it, executes. -/
def execFcmple (c : Core) (e : Env) (s : State) : Res := .next (s.isaRow 0x32 c e)

/-- FCVT (R318): the bundle at the core's PC, which holds it, executes. -/
def execFcvt (c : Core) (e : Env) (s : State) : Res := .next (s.isaRow 0x33 c e)

/-- LD (R319): the bundle at the core's PC, which holds it, executes. -/
def execLd (c : Core) (e : Env) (s : State) : Res := .next (s.isaRow 0x38 c e)

/-- LDU (R319): the bundle at the core's PC, which holds it, executes. -/
def execLdu (c : Core) (e : Env) (s : State) : Res := .next (s.isaRow 0x39 c e)

/-- ST (R319): the bundle at the core's PC, which holds it, executes. -/
def execSt (c : Core) (e : Env) (s : State) : Res := .next (s.isaRow 0x3A c e)

/-- AADD (R320): the bundle at the core's PC, which holds it, executes. -/
def execAadd (c : Core) (e : Env) (s : State) : Res := .next (s.isaRow 0x3C c e)

/-- ASWAP (R320): the bundle at the core's PC, which holds it, executes. -/
def execAswap (c : Core) (e : Env) (s : State) : Res := .next (s.isaRow 0x3D c e)

/-- ACAS (R320): the bundle at the core's PC, which holds it, executes. -/
def execAcas (c : Core) (e : Env) (s : State) : Res := .next (s.isaRow 0x3E c e)

/-- AFADD (R320): the bundle at the core's PC, which holds it, executes. -/
def execAfadd (c : Core) (e : Env) (s : State) : Res := .next (s.isaRow 0x3F c e)

end Sys2Proof.Machine
end

