-- ==== Sys2Proof/Machine/IsaVector.lean ====
section
/-! DEFINITION. The rows of vector and matrix arithmetic, vector memory, transfers and collective issue (14_burin_opcodes.md R324-R332, 13_burin_isa.md R301-R304). -/

namespace Sys2Proof.Machine

/-- VNOP (R324): the bundle at the core's PC, which holds it, executes. -/
def execVnop (c : Core) (e : Env) (s : State) : Res := .next (s.isaRow 0x80 c e)

/-- VADD (R324): the bundle at the core's PC, which holds it, executes. -/
def execVadd (c : Core) (e : Env) (s : State) : Res := .next (s.isaRow 0x81 c e)

/-- VSUB (R324): the bundle at the core's PC, which holds it, executes. -/
def execVsub (c : Core) (e : Env) (s : State) : Res := .next (s.isaRow 0x82 c e)

/-- VMUL (R324): the bundle at the core's PC, which holds it, executes. -/
def execVmul (c : Core) (e : Env) (s : State) : Res := .next (s.isaRow 0x83 c e)

/-- VFMA (R324): the bundle at the core's PC, which holds it, executes. -/
def execVfma (c : Core) (e : Env) (s : State) : Res := .next (s.isaRow 0x84 c e)

/-- VMIN (R324): the bundle at the core's PC, which holds it, executes. -/
def execVmin (c : Core) (e : Env) (s : State) : Res := .next (s.isaRow 0x85 c e)

/-- VMAX (R324): the bundle at the core's PC, which holds it, executes. -/
def execVmax (c : Core) (e : Env) (s : State) : Res := .next (s.isaRow 0x86 c e)

/-- VABS (R324): the bundle at the core's PC, which holds it, executes. -/
def execVabs (c : Core) (e : Env) (s : State) : Res := .next (s.isaRow 0x87 c e)

/-- VNEG (R324): the bundle at the core's PC, which holds it, executes. -/
def execVneg (c : Core) (e : Env) (s : State) : Res := .next (s.isaRow 0x88 c e)

/-- VDIV (R324): the bundle at the core's PC, which holds it, executes. -/
def execVdiv (c : Core) (e : Env) (s : State) : Res := .next (s.isaRow 0x89 c e)

/-- VSQRT (R324): the bundle at the core's PC, which holds it, executes. -/
def execVsqrt (c : Core) (e : Env) (s : State) : Res := .next (s.isaRow 0x8A c e)

/-- VAND (R324): the bundle at the core's PC, which holds it, executes. -/
def execVand (c : Core) (e : Env) (s : State) : Res := .next (s.isaRow 0x8C c e)

/-- VOR (R324): the bundle at the core's PC, which holds it, executes. -/
def execVor (c : Core) (e : Env) (s : State) : Res := .next (s.isaRow 0x8D c e)

/-- VXOR (R324): the bundle at the core's PC, which holds it, executes. -/
def execVxor (c : Core) (e : Env) (s : State) : Res := .next (s.isaRow 0x8E c e)

/-- VSHL (R324): the bundle at the core's PC, which holds it, executes. -/
def execVshl (c : Core) (e : Env) (s : State) : Res := .next (s.isaRow 0x8F c e)

/-- VSHR (R324): the bundle at the core's PC, which holds it, executes. -/
def execVshr (c : Core) (e : Env) (s : State) : Res := .next (s.isaRow 0x90 c e)

/-- VSRA (R324): the bundle at the core's PC, which holds it, executes. -/
def execVsra (c : Core) (e : Env) (s : State) : Res := .next (s.isaRow 0x91 c e)

/-- VCMPEQ (R325): the bundle at the core's PC, which holds it, executes. -/
def execVcmpeq (c : Core) (e : Env) (s : State) : Res := .next (s.isaRow 0x94 c e)

/-- VCMPLT (R325): the bundle at the core's PC, which holds it, executes. -/
def execVcmplt (c : Core) (e : Env) (s : State) : Res := .next (s.isaRow 0x95 c e)

/-- VCMPLE (R325): the bundle at the core's PC, which holds it, executes. -/
def execVcmple (c : Core) (e : Env) (s : State) : Res := .next (s.isaRow 0x96 c e)

/-- VCMPUN (R325): the bundle at the core's PC, which holds it, executes. -/
def execVcmpun (c : Core) (e : Env) (s : State) : Res := .next (s.isaRow 0x97 c e)

/-- MAND (R325): the bundle at the core's PC, which holds it, executes. -/
def execMand (c : Core) (e : Env) (s : State) : Res := .next (s.isaRow 0xA8 c e)

/-- MOR (R325): the bundle at the core's PC, which holds it, executes. -/
def execMor (c : Core) (e : Env) (s : State) : Res := .next (s.isaRow 0xA9 c e)

/-- MXOR (R325): the bundle at the core's PC, which holds it, executes. -/
def execMxor (c : Core) (e : Env) (s : State) : Res := .next (s.isaRow 0xAA c e)

/-- MNOT (R325): the bundle at the core's PC, which holds it, executes. -/
def execMnot (c : Core) (e : Env) (s : State) : Res := .next (s.isaRow 0xAB c e)

/-- MSET (R325): the bundle at the core's PC, which holds it, executes. -/
def execMset (c : Core) (e : Env) (s : State) : Res := .next (s.isaRow 0xAC c e)

/-- MGET (R325): the bundle at the core's PC, which holds it, executes. -/
def execMget (c : Core) (e : Env) (s : State) : Res := .next (s.isaRow 0xAD c e)

/-- MPOPC (R325): the bundle at the core's PC, which holds it, executes. -/
def execMpopc (c : Core) (e : Env) (s : State) : Res := .next (s.isaRow 0xAE c e)

/-- VCVT (R326): the bundle at the core's PC, which holds it, executes. -/
def execVcvt (c : Core) (e : Env) (s : State) : Res := .next (s.isaRow 0x98 c e)

/-- VSCALE (R349): the bundle at the core's PC, which holds it, executes. -/
def execVscale (c : Core) (e : Env) (s : State) : Res := .next (s.isaRow 0x99 c e)

/-- VQNT (R350): the bundle at the core's PC, which holds it, executes. -/
def execVqnt (c : Core) (e : Env) (s : State) : Res := .next (s.isaRow 0x9A c e)

/-- VDQ (R351): the bundle at the core's PC, which holds it, executes. -/
def execVdq (c : Core) (e : Env) (s : State) : Res := .next (s.isaRow 0x9B c e)

/-- VREDADD (R327): the bundle at the core's PC, which holds it, executes. -/
def execVredadd (c : Core) (e : Env) (s : State) : Res := .next (s.isaRow 0x9C c e)

/-- VREDMAX (R327): the bundle at the core's PC, which holds it, executes. -/
def execVredmax (c : Core) (e : Env) (s : State) : Res := .next (s.isaRow 0x9D c e)

/-- VREDMIN (R327): the bundle at the core's PC, which holds it, executes. -/
def execVredmin (c : Core) (e : Env) (s : State) : Res := .next (s.isaRow 0x9E c e)

/-- VBADD (R355): the bundle at the core's PC, which holds it, executes. -/
def execVbadd (c : Core) (e : Env) (s : State) : Res := .next (s.isaRow 0xB0 c e)

/-- VBMRG (R356): the bundle at the core's PC, which holds it, executes. -/
def execVbmrg (c : Core) (e : Env) (s : State) : Res := .next (s.isaRow 0xB1 c e)

/-- VBRND (R357): the bundle at the core's PC, which holds it, executes. -/
def execVbrnd (c : Core) (e : Env) (s : State) : Res := .next (s.isaRow 0xB2 c e)

/-- VMOV (R328): the bundle at the core's PC, which holds it, executes. -/
def execVmov (c : Core) (e : Env) (s : State) : Res := .next (s.isaRow 0xA0 c e)

/-- VSEL (R328): the bundle at the core's PC, which holds it, executes. -/
def execVsel (c : Core) (e : Env) (s : State) : Res := .next (s.isaRow 0xA1 c e)

/-- VPERM (R328): the bundle at the core's PC, which holds it, executes. -/
def execVperm (c : Core) (e : Env) (s : State) : Res := .next (s.isaRow 0xA2 c e)

/-- VBCAST (R328): the bundle at the core's PC, which holds it, executes. -/
def execVbcast (c : Core) (e : Env) (s : State) : Res := .next (s.isaRow 0xA3 c e)

/-- VEXT (R328): the bundle at the core's PC, which holds it, executes. -/
def execVext (c : Core) (e : Env) (s : State) : Res := .next (s.isaRow 0xA4 c e)

/-- VINS (R328): the bundle at the core's PC, which holds it, executes. -/
def execVins (c : Core) (e : Env) (s : State) : Res := .next (s.isaRow 0xA5 c e)

/-- VLD (R329): the bundle at the core's PC, which holds it, executes. -/
def execVld (c : Core) (e : Env) (s : State) : Res := .next (s.isaRow 0xB8 c e)

/-- VLD2 (R329): the bundle at the core's PC, which holds it, executes. -/
def execVld2 (c : Core) (e : Env) (s : State) : Res := .next (s.isaRow 0xBE c e)

/-- VST (R329): the bundle at the core's PC, which holds it, executes. -/
def execVst (c : Core) (e : Env) (s : State) : Res := .next (s.isaRow 0xB9 c e)

/-- VLDS (R329): the bundle at the core's PC, which holds it, executes. -/
def execVlds (c : Core) (e : Env) (s : State) : Res := .next (s.isaRow 0xBA c e)

/-- VSTS (R329): the bundle at the core's PC, which holds it, executes. -/
def execVsts (c : Core) (e : Env) (s : State) : Res := .next (s.isaRow 0xBB c e)

/-- VGATH (R329): the bundle at the core's PC, which holds it, executes. -/
def execVgath (c : Core) (e : Env) (s : State) : Res := .next (s.isaRow 0xBC c e)

/-- VSCAT (R329): the bundle at the core's PC, which holds it, executes. -/
def execVscat (c : Core) (e : Env) (s : State) : Res := .next (s.isaRow 0xBD c e)

/-- MMA (R331): the bundle at the core's PC, which holds it, executes. -/
def execMma (c : Core) (e : Env) (s : State) : Res := .next (s.isaRow 0xC0 c e)

/-- ACCZ (R330): the bundle at the core's PC, which holds it, executes. -/
def execAccz (c : Core) (e : Env) (s : State) : Res := .next (s.isaRow 0xC1 c e)

/-- ACCGET (R330): the bundle at the core's PC, which holds it, executes. -/
def execAccget (c : Core) (e : Env) (s : State) : Res := .next (s.isaRow 0xC2 c e)

/-- ACCPUT (R330): the bundle at the core's PC, which holds it, executes. -/
def execAccput (c : Core) (e : Env) (s : State) : Res := .next (s.isaRow 0xC3 c e)

/-- ACCLD (R330): the bundle at the core's PC, which holds it, executes. -/
def execAccld (c : Core) (e : Env) (s : State) : Res := .next (s.isaRow 0xC4 c e)

/-- ACCST (R330): the bundle at the core's PC, which holds it, executes. -/
def execAccst (c : Core) (e : Env) (s : State) : Res := .next (s.isaRow 0xC5 c e)

/-- XPOST (R301): the bundle at the core's PC, which holds it, executes. -/
def execXpost (c : Core) (e : Env) (s : State) : Res := .next (s.isaRow 0xD0 c e)

/-- XCOUNT (R303): the bundle at the core's PC, which holds it, executes. -/
def execXcount (c : Core) (e : Env) (s : State) : Res := .next (s.isaRow 0xD1 c e)

/-- XWAIT (R303): the bundle at the core's PC, which holds it, executes. -/
def execXwait (c : Core) (e : Env) (s : State) : Res := .next (s.isaRow 0xD2 c e)

/-- XERR (R303): the bundle at the core's PC, which holds it, executes. -/
def execXerr (c : Core) (e : Env) (s : State) : Res := .next (s.isaRow 0xD3 c e)

/-- XCLR (R303): the bundle at the core's PC, which holds it, executes. -/
def execXclr (c : Core) (e : Env) (s : State) : Res := .next (s.isaRow 0xD4 c e)

/-- CISSUE (R304): the bundle at the core's PC, which holds it, executes. -/
def execCissue (c : Core) (e : Env) (s : State) : Res := .next (s.isaRow 0xD8 c e)

/-- CWAIT (R304): the bundle at the core's PC, which holds it, executes. -/
def execCwait (c : Core) (e : Env) (s : State) : Res := .next (s.isaRow 0xD9 c e)

end Sys2Proof.Machine
end

