-- ==== Sys2Proof/Machine/Replay.lean ====
section
/-! DEFINITION. Counterproof: the trace as a follower takes it (17_reproducibility.md R402-R410, R416, R417). -/

namespace Sys2Proof.Machine

/-- Bytes a record takes in the delay FIFO (Table 17-7). -/
def recBytes (r : TraceRec) : Nat := 16 + up16 r.data.length

/-- The next record of the volume that is replayed, and the read position after it. -/
def State.nextRec (s : State) : Option (TraceRec × Nat) :=
  match s.cpf.vol.bind (mget s.ps.vols ·) with
  | some v => (traceRecOf (v.data.drop s.cpf.readPos)).map fun x => (x.1, s.cpf.readPos + x.2)
  | none => none

/-- A record enters the delay FIFO of 8 MiB (R405, R406): one that comes after its replay cycle, or meets a double-bit error, ends
counterproof, and so does a clock that has drifted by more than 1,250 cycles. -/
def State.fifoTake (s : State) (r : TraceRec) (lc : Option Nat) (dbe : Bool) : State :=
  let held := s.cpf.fifo.foldl (fun a x => a + recBytes x) 0
  if 8388608 < held + recBytes r then s
  else
    let own := s.cpfOwn
    let t : State := { s with cpf.fifo := s.cpf.fifo ++ [r] }
    let drift : Bool := match lc with
      | some c => s.cpfRuns && (decide (c + 1250 < own) || decide (own + 1250 < c))
      | none => false
    if s.cpfRuns ∧ r.cyc + s.cpfDelay < own then t.cpfEnd 5
    else if dbe then t.cpfEnd 4
    else if drift then t.cpfEnd 6
    else t

/-- TRACE_RECORD_ARRIVAL (R405, R406, R416): a record reaches the follower, in a packet that carries lead cycle `lc`; a replaying module
reads its next record from the volume. -/
def execTraceRecordArrival (r : TraceRec) (lc : Nat) (dbe : Bool) (s : State) : Res :=
  .next <|
    let st := s.rf Reg.cpfStatus F.cpfStatus_state
    if st ≠ 1 ∧ st ≠ 2 then s
    else if s.cpfRole = 2 then s.fifoTake r (some lc) dbe
    else if s.cpfRole = 3 then
      match s.nextRec with
      | some (x, pos) =>
        if 8388608 < s.cpf.fifo.foldl (fun a y => a + recBytes y) 0 + recBytes x then s
        else ({ s with cpf.readPos := pos } : State).fifoTake x none dbe
      | none => s
    else s

/-- The kind that EV_CPF_MISMATCH names for an observation (Table 22-7). -/
def mismatchKind (k : Nat) : Nat := if k = 0x10 then 0 else if k = 0x11 then 1 else if k = 0x12 then 2 else 3

/-- Word i of an observation as `CPF_MISMATCH_LEAD` and `CPF_MISMATCH_FOLL` hold it. -/
def obsWord (d : List Byte) (i : Nat) : Word := BitVec.ofNat 64 (leNat ((d.drop (8 * i)).take 8))

/-- Both comparators report a mismatch (Table 17-6): the first of a run is latched. -/
def State.mismatch (s : State) (kind src cyc : Nat) (lead foll : List Byte) : State :=
  let s := (List.range 4).foldl (fun t i =>
    (t.wr (Reg.cpfMismatchLead i) (obsWord lead i)).wr (Reg.cpfMismatchFoll i) (obsWord foll i)) s
  (s.raise .alarm 16 1 (inst := mismatchKind kind) (arg0 := src % 256) (arg1 := cyc)).cpfEnd 2

/-- The verdict of comparators A and B on an observation, `fa` and `fb` saying that one of them judges wrongly (Table 17-6). -/
def State.judge (s : State) (same fa fb : Bool) (kind src cyc : Nat) (lead foll : List Byte) : State :=
  let a := same != fa
  let b := same != fb
  if a ≠ b then s.cpfFault false
  else if a then s
  else s.mismatch kind src cyc lead foll

/-- The lead's observation r against the follower's own of the same stream (R409). -/
def State.compare (s : State) (r : TraceRec) (fa fb : Bool) : State :=
  match s.cpf.own.find? fun o => decide (o.src = r.src) && decide (o.kind = r.kind) with
  | some o =>
    let t : State := { s with cpf.own := s.cpf.own.erase o }
    t.judge (decide (o.cyc = r.cyc) && decide (o.data = r.data)) fa fb r.kind r.src r.cyc r.data o.data
  | none => s.judge false fa fb r.kind r.src r.cyc r.data []

/-- The lead's digest of protected regions against the follower's own (R414): a difference is a warning and ends nothing. -/
def State.compareState (s : State) (r : TraceRec) : State :=
  match s.cpf.own.find? fun o => decide (o.kind = 0x14) && decide (o.data.take 12 = r.data.take 12) with
  | some o =>
    let t : State := { s with cpf.own := s.cpf.own.erase o }
    if o.data = r.data then t
    else t.raise .warning 16 4 (fn := leNat ((r.data.drop 8).take 2)) (arg0 := leNat ((r.data.drop 10).take 2)) (arg1 := leNat (r.data.take 8))
  | none => s

/-- Points that a power decision carries: plate, point, duty. -/
def pointsOf : List Byte → List (Nat × Nat × Nat)
  | p :: o :: d :: l => (p.toNat, o.toNat, d.toNat) :: pointsOf l
  | _ => []

/-- A recorded input applied by the follower (R402, Table 17-4): a packet ejected, a frame, a timebase value, a write into the scope and
a power decision take effect here; a TLP waits for its own command. Credits, grants, link states and notices change nothing that
the follower's scope holds. -/
def State.applyInput (s : State) (r : TraceRec) : State :=
  match r.kind with
  | 0x02 => { s with cpf.inputs := s.cpf.inputs ++ [r] }
  | 0x04 => s.emit .rx [0, r.src] (pkt := some (pktOf r.data))
  | 0x06 =>
    let n := r.src - 16
    (match s.isUmt n r.data with
      | some h => s.umtRx n r.data h
      | none => s.rawRx n r.data (isPtp r.data) (decide (fbe r.data 12 2 = 0x8100)))
  | 0x08 => { s with time := leNat (r.data.take 8) }
  | 0x09 =>
    let a := leNat (r.data.take 8)
    let d := r.data.drop 8
    if regBase ≤ a then s.regWrite 0x800 (a - regBase) (BitVec.ofNat 64 (leNat d)) else s.devStore a d
  | 0x0A => s.applyPoints (pointsOf r.data)
  | _ => s

/-- REPLAY_INPUT (R402, R409, R410, R416): the record at the head of the delay FIFO, once the module's own cycle is the lead's plus
`DELAY`: an input takes effect, an observation is compared, the end record ends a replay. The follower's own observation that the
lead has not made is a mismatch. -/
def execReplayInput (fa fb : Bool) (s : State) : Res :=
  .next <|
    if ¬ s.follows then s
    else match s.cpf.fifo with
      | [] => s
      | r :: l =>
        match s.cpf.own.find? fun o => decide (o.cyc < r.cyc) && decide (o.kind ≠ 0x14) with
        | some o =>
          let t : State := { s with cpf.own := s.cpf.own.erase o }
          t.judge false fa fb o.kind o.src o.cyc [] o.data
        | none =>
          if s.cpfOwn < r.cyc + s.cpfDelay then s
          else
            let s : State := { s with cpf.fifo := l }
            let t :=
              if r.kind = 0x1F then s.cpfEnd 11
              else if r.kind = 0x14 then s.compareState r
              else if 0x10 ≤ r.kind then s.compare r fa fb
              else s.applyInput r
            if t.follows ∧ t.cpfRole = 3 then t.wf Reg.cpfVerified F.cpfVerified_cycle t.verified else t

end Sys2Proof.Machine
end

