-- ==== Sys2Proof/Machine/Dispatch.lean ====
section
/-! DEFINITION. One arm per command: a direct call of its meaning, or a refusal by name. -/

namespace Sys2Proof.Machine

/-- The effect of a command on everything but the queue. -/
def exec (i : Instr) (s : State) : Host.Outcome State Fault Refusal :=
  match i with
  | .registerWrite m t v => Sys2Proof.Machine.execRegisterWrite m t v s
  | .partialWrite m t n => Sys2Proof.Machine.execPartialWrite m t n s
  | .blockLock m blk => Sys2Proof.Machine.execBlockLock m blk s
  | .memoryRequest m acc op a n data e => Sys2Proof.Machine.execMemoryRequest m acc op a n data e s
  | .refclkLost => Sys2Proof.Machine.execRefclkLost s
  | .hostBar2Write w off data be => Sys2Proof.Machine.execHostBar2Write w off data be s
  | .hostBar2Read w off n => Sys2Proof.Machine.execHostBar2Read w off n s
  | .hostAtomicop w op off n v => Sys2Proof.Machine.execHostAtomicop w op off n v s
  | .portFunctionBar0Read port half off n => Sys2Proof.Machine.execPortFunctionBar0Read port half off n s
  | .cxlMemAccess wr a data => Sys2Proof.Machine.execCxlMemAccess wr a data s
  | .biasCmdGo m v => Sys2Proof.Machine.execBiasCmdGo m v s
  | .biasFlipEnd => Sys2Proof.Machine.execBiasFlipEnd s
  | .linkEnWrite m port v => Sys2Proof.Machine.execLinkEnWrite m port v s
  | .linkHalfDown port half => Sys2Proof.Machine.execLinkHalfDown port half s
  | .linkHalfUp port half width rate cxl => Sys2Proof.Machine.execLinkHalfUp port half width rate cxl s
  | .perstN port low => Sys2Proof.Machine.execPerstN port low s
  | .flushReadCompletion id ok cid => Sys2Proof.Machine.execFlushReadCompletion id ok cid s
  | .peerProbeComplete f ok cid => Sys2Proof.Machine.execPeerProbeComplete f ok cid s
  | .peerReadFailure port half cid wqn slot => Sys2Proof.Machine.execPeerReadFailure port half cid wqn slot s
  | .xltDevEnWrite m f v => Sys2Proof.Machine.execXltDevEnWrite m f v s
  | .tableWalkReadDone k f dva acc stream snum host => Sys2Proof.Machine.execTableWalkReadDone k f dva acc stream snum host s
  | .atsTranslationCompletion k ok size out r w => Sys2Proof.Machine.execAtsTranslationCompletion k ok size out r w s
  | .pageRequestResponse k ok => Sys2Proof.Machine.execPageRequestResponse k ok s
  | .xltInvGo m f v => Sys2Proof.Machine.execXltInvGo m f v s
  | .xltInvDrainEnd f => Sys2Proof.Machine.execXltInvDrainEnd f s
  | .atsInvalidateRequest f space lo hi tag => Sys2Proof.Machine.execAtsInvalidateRequest f space lo hi tag s
  | .atsInvalidationComplete f tag => Sys2Proof.Machine.execAtsInvalidationComplete f tag s
  | .vfmGrantWrite m key v => Sys2Proof.Machine.execVfmGrantWrite m key v s
  | .plateOwnerWrite m p v => Sys2Proof.Machine.execPlateOwnerWrite m p v s
  | .dlogBaseWrite m f l v => Sys2Proof.Machine.execDlogBaseWrite m f l v s
  | .dlogHarvestGo m f v => Sys2Proof.Machine.execDlogHarvestGo m f v s
  | .dlogHarvestDone f => Sys2Proof.Machine.execDlogHarvestDone f s
  | .mtrClr m f => Sys2Proof.Machine.execMtrClr m f s
  | .functionLevelReset f => Sys2Proof.Machine.execFunctionLevelReset f s
  | .flrComplete f => Sys2Proof.Machine.execFlrComplete f s
  | .scrub m f => Sys2Proof.Machine.execScrub m f s
  | .scrubDone f => Sys2Proof.Machine.execScrubDone f s
  | .fnEnWrite m f en => Sys2Proof.Machine.execFnEnWrite m f en s
  | .wqPollDue w => Sys2Proof.Machine.execWqPollDue w s
  | .pollWindow => Sys2Proof.Machine.execPollWindow s
  | .wqKick f w => Sys2Proof.Machine.execWqKick f w s
  | .pollReadCompletion w res data => Sys2Proof.Machine.execPollReadCompletion w res data s
  | .schedulerGrant k => Sys2Proof.Machine.execSchedulerGrant k s
  | .nopEntry w => Sys2Proof.Machine.execNopEntry w s
  | .write w ext => Sys2Proof.Machine.execWrite w ext s
  | .read w ext => Sys2Proof.Machine.execRead w ext s
  | .wait w => Sys2Proof.Machine.execWait w s
  | .waitSatisfied w => Sys2Proof.Machine.execWaitSatisfied w s
  | .waitTimeout w => Sys2Proof.Machine.execWaitTimeout w s
  | .fence w => Sys2Proof.Machine.execFence w s
  | .createWq f => Sys2Proof.Machine.execCreateWq f s
  | .modifyWq f obj => Sys2Proof.Machine.execModifyWq f obj s
  | .enableWq f obj => Sys2Proof.Machine.execEnableWq f obj s
  | .disableWq f obj => Sys2Proof.Machine.execDisableWq f obj s
  | .destroyWq f obj => Sys2Proof.Machine.execDestroyWq f obj s
  | .queryWq f obj => Sys2Proof.Machine.execQueryWq f obj s
  | .createCq f => Sys2Proof.Machine.execCreateCq f s
  | .resumeCq f obj => Sys2Proof.Machine.execResumeCq f obj s
  | .destroyCq f obj => Sys2Proof.Machine.execDestroyCq f obj s
  | .queryCq f obj => Sys2Proof.Machine.execQueryCq f obj s
  | .cqHeadReread c res data => Sys2Proof.Machine.execCqHeadReread c res data s
  | .cqArm f v => Sys2Proof.Machine.execCqArm f v s
  | .createQp f obj => Sys2Proof.Machine.execCreateQp f obj s
  | .modifyQp f obj => Sys2Proof.Machine.execModifyQp f obj s
  | .armQp f obj => Sys2Proof.Machine.execArmQp f obj s
  | .resetQp f obj => Sys2Proof.Machine.execResetQp f obj s
  | .destroyQp f obj => Sys2Proof.Machine.execDestroyQp f obj s
  | .qpDrainEnd q => Sys2Proof.Machine.execQpDrainEnd q s
  | .queryQp f obj => Sys2Proof.Machine.execQueryQp f obj s
  | .qpRetireExpiry q => Sys2Proof.Machine.execQpRetireExpiry q s
  | .register f => Sys2Proof.Machine.execRegister f s
  | .deregister f obj => Sys2Proof.Machine.execDeregister f obj s
  | .queryRegion f obj => Sys2Proof.Machine.execQueryRegion f obj s
  | .revoke f v => Sys2Proof.Machine.execRevoke f v s
  | .revokeDrainEnd ix => Sys2Proof.Machine.execRevokeDrainEnd ix s
  | .refusalAggregationEnd ix => Sys2Proof.Machine.execRefusalAggregationEnd ix s
  | .dataReceived p rx ext => Sys2Proof.Machine.execDataReceived p rx ext s
  | .writeVisible q psn ext => Sys2Proof.Machine.execWriteVisible q psn ext s
  | .noticeReceived p rx ext => Sys2Proof.Machine.execNoticeReceived p rx ext s
  | .readReqReceived p rx ext => Sys2Proof.Machine.execReadReqReceived p rx ext s
  | .readRespReceived p rx => Sys2Proof.Machine.execReadRespReceived p rx s
  | .ackReceived p rx => Sys2Proof.Machine.execAckReceived p rx s
  | .connectReceived p rx => Sys2Proof.Machine.execConnectReceived p rx s
  | .acceptReceived p rx => Sys2Proof.Machine.execAcceptReceived p rx s
  | .rejectReceived p rx => Sys2Proof.Machine.execRejectReceived p rx s
  | .abortReceived p rx => Sys2Proof.Machine.execAbortReceived p rx s
  | .ackDelayExpiry q => Sys2Proof.Machine.execAckDelayExpiry q s
  | .retransmitTimeout q => Sys2Proof.Machine.execRetransmitTimeout q s
  | .frameRelease q chk => Sys2Proof.Machine.execFrameRelease q chk s
  | .umtPortEnClear m n => Sys2Proof.Machine.execUmtPortEnClear m n s
  | .ccEventRun core => Sys2Proof.Machine.execCcEventRun core s
  | .ccHandlerAbandon core => Sys2Proof.Machine.execCcHandlerAbandon core s
  | .ccSwap m => Sys2Proof.Machine.execCcSwap m s
  | .fabPortEnWrite m n v => Sys2Proof.Machine.execFabPortEnWrite m n v s
  | .phyLock n => Sys2Proof.Machine.execPhyLock n s
  | .phyLockTimeout n => Sys2Proof.Machine.execPhyLockTimeout n s
  | .trainingCellReceived n c => Sys2Proof.Machine.execTrainingCellReceived n c s
  | .trainingTimeout n => Sys2Proof.Machine.execTrainingTimeout n s
  | .downWaitExpiry n => Sys2Proof.Machine.execDownWaitExpiry n s
  | .dataCellReceived n c => Sys2Proof.Machine.execDataCellReceived n c s
  | .controlCellReceived n c => Sys2Proof.Machine.execControlCellReceived n c s
  | .ackSeqTimeout n => Sys2Proof.Machine.execAckSeqTimeout n s
  | .controlCellDue n => Sys2Proof.Machine.execControlCellDue n s
  | .linkFail n reason => Sys2Proof.Machine.execLinkFail n reason s
  | .packetHeadArrival n => Sys2Proof.Machine.execPacketHeadArrival n s
  | .outputGrant n => Sys2Proof.Machine.execOutputGrant n s
  | .vcHeadTimeout ix vc => Sys2Proof.Machine.execVcHeadTimeout ix vc s
  | .vcStallTimeout ix vc => Sys2Proof.Machine.execVcStallTimeout ix vc s
  | .flipArm m v => Sys2Proof.Machine.execFlipArm m v s
  | .routeFlip => Sys2Proof.Machine.execRouteFlip s
  | .flipDrainDeadline => Sys2Proof.Machine.execFlipDrainDeadline s
  | .faultMapEntryReceived frm e => Sys2Proof.Machine.execFaultMapEntryReceived frm e s
  | .autoRouteWrite => Sys2Proof.Machine.execAutoRouteWrite s
  | .macQuadReconfig m n v => Sys2Proof.Machine.execMacQuadReconfig m n v s
  | .ethLinkChange n up => Sys2Proof.Machine.execEthLinkChange n up s
  | .ethFrameReceived n data => Sys2Proof.Machine.execEthFrameReceived n data s
  | .rawRingEnable m n tx v => Sys2Proof.Machine.execRawRingEnable m n tx v s
  | .rawTxSlot n cut => Sys2Proof.Machine.execRawTxSlot n cut s
  | .txFrameStart n buffered => Sys2Proof.Machine.execTxFrameStart n buffered s
  | .txUnderrun n sent => Sys2Proof.Machine.execTxUnderrun n sent s
  | .ppsInEdge => Sys2Proof.Machine.execPpsInEdge s
  | .ppsOutPulse => Sys2Proof.Machine.execPpsOutPulse s
  | .timNowRead m => Sys2Proof.Machine.execTimNowRead m s
  | .timSet m v => Sys2Proof.Machine.execTimSet m v s
  | .timRateWrite m v => Sys2Proof.Machine.execTimRateWrite m v s
  | .timeSample => Sys2Proof.Machine.execTimeSample s
  | .holdoverExpiry => Sys2Proof.Machine.execHoldoverExpiry s
  | .ptpExchange theta => Sys2Proof.Machine.execPtpExchange theta s
  | .snapArm m v => Sys2Proof.Machine.execSnapArm m v s
  | .snapshotTick => Sys2Proof.Machine.execSnapshotTick s
  | .hatchEntryBoundary n => Sys2Proof.Machine.execHatchEntryBoundary n s
  | .hatchSwapRequest m n v => Sys2Proof.Machine.execHatchSwapRequest m n v s
  | .hatchSwap n => Sys2Proof.Machine.execHatchSwap n s
  | .bucketRefill key => Sys2Proof.Machine.execBucketRefill key s
  | .bucketWrite m key v => Sys2Proof.Machine.execBucketWrite m key v s
  | .install => Sys2Proof.Machine.execInstall s
  | .replace => Sys2Proof.Machine.execReplace s
  | .delete => Sys2Proof.Machine.execDelete s
  | .saDeleteDrainEnd sa => Sys2Proof.Machine.execSaDeleteDrainEnd sa s
  | .query => Sys2Proof.Machine.execQuery s
  | .save => Sys2Proof.Machine.execSave s
  | .restore => Sys2Proof.Machine.execRestore s
  | .setKek => Sys2Proof.Machine.execSetKek s
  | .start m p => Sys2Proof.Machine.execStart m p s
  | .stop m p => Sys2Proof.Machine.execStop m p s
  | .stopDrainEnd p => Sys2Proof.Machine.execStopDrainEnd p s
  | .programEnd p => Sys2Proof.Machine.execProgramEnd p s
  | .plateReset m p => Sys2Proof.Machine.execPlateReset m p s
  | .plateScrubEnd p => Sys2Proof.Machine.execPlateScrubEnd p s
  | .barrierStall p b => Sys2Proof.Machine.execBarrierStall p b s
  | .dispLimitWrite m p d v => Sys2Proof.Machine.execDispLimitWrite m p d v s
  | .descriptorEnd p q e => Sys2Proof.Machine.execDescriptorEnd p q e s
  | .burinSubstitution p retire => Sys2Proof.Machine.execBurinSubstitution p retire s
  | .loadGo m p v => Sys2Proof.Machine.execLoadGo m p v s
  | .loadEnd p ext => Sys2Proof.Machine.execLoadEnd p ext s
  | .nop c e => Sys2Proof.Machine.execNop c e s
  | .add c e => Sys2Proof.Machine.execAdd c e s
  | .sub c e => Sys2Proof.Machine.execSub c e s
  | .mul c e => Sys2Proof.Machine.execMul c e s
  | .mulh c e => Sys2Proof.Machine.execMulh c e s
  | .mulhu c e => Sys2Proof.Machine.execMulhu c e s
  | .div c e => Sys2Proof.Machine.execDiv c e s
  | .divu c e => Sys2Proof.Machine.execDivu c e s
  | .rem c e => Sys2Proof.Machine.execRem c e s
  | .remu c e => Sys2Proof.Machine.execRemu c e s
  | .and c e => Sys2Proof.Machine.execAnd c e s
  | .or c e => Sys2Proof.Machine.execOr c e s
  | .xor c e => Sys2Proof.Machine.execXor c e s
  | .shl c e => Sys2Proof.Machine.execShl c e s
  | .shr c e => Sys2Proof.Machine.execShr c e s
  | .sra c e => Sys2Proof.Machine.execSra c e s
  | .slt c e => Sys2Proof.Machine.execSlt c e s
  | .sltu c e => Sys2Proof.Machine.execSltu c e s
  | .min c e => Sys2Proof.Machine.execMin c e s
  | .max c e => Sys2Proof.Machine.execMax c e s
  | .clz c e => Sys2Proof.Machine.execClz c e s
  | .popc c e => Sys2Proof.Machine.execPopc c e s
  | .addi c e => Sys2Proof.Machine.execAddi c e s
  | .andi c e => Sys2Proof.Machine.execAndi c e s
  | .ori c e => Sys2Proof.Machine.execOri c e s
  | .xori c e => Sys2Proof.Machine.execXori c e s
  | .shli c e => Sys2Proof.Machine.execShli c e s
  | .shri c e => Sys2Proof.Machine.execShri c e s
  | .srai c e => Sys2Proof.Machine.execSrai c e s
  | .slti c e => Sys2Proof.Machine.execSlti c e s
  | .li c e => Sys2Proof.Machine.execLi c e s
  | .lih c e => Sys2Proof.Machine.execLih c e s
  | .fadd c e => Sys2Proof.Machine.execFadd c e s
  | .fsub c e => Sys2Proof.Machine.execFsub c e s
  | .fmul c e => Sys2Proof.Machine.execFmul c e s
  | .ffma c e => Sys2Proof.Machine.execFfma c e s
  | .fdiv c e => Sys2Proof.Machine.execFdiv c e s
  | .fsqrt c e => Sys2Proof.Machine.execFsqrt c e s
  | .fmin c e => Sys2Proof.Machine.execFmin c e s
  | .fmax c e => Sys2Proof.Machine.execFmax c e s
  | .fcmpeq c e => Sys2Proof.Machine.execFcmpeq c e s
  | .fcmplt c e => Sys2Proof.Machine.execFcmplt c e s
  | .fcmple c e => Sys2Proof.Machine.execFcmple c e s
  | .fcvt c e => Sys2Proof.Machine.execFcvt c e s
  | .ld c e => Sys2Proof.Machine.execLd c e s
  | .ldu c e => Sys2Proof.Machine.execLdu c e s
  | .st c e => Sys2Proof.Machine.execSt c e s
  | .aadd c e => Sys2Proof.Machine.execAadd c e s
  | .aswap c e => Sys2Proof.Machine.execAswap c e s
  | .acas c e => Sys2Proof.Machine.execAcas c e s
  | .afadd c e => Sys2Proof.Machine.execAfadd c e s
  | .beq c e => Sys2Proof.Machine.execBeq c e s
  | .bne c e => Sys2Proof.Machine.execBne c e s
  | .blt c e => Sys2Proof.Machine.execBlt c e s
  | .bge c e => Sys2Proof.Machine.execBge c e s
  | .bltu c e => Sys2Proof.Machine.execBltu c e s
  | .bgeu c e => Sys2Proof.Machine.execBgeu c e s
  | .call c e => Sys2Proof.Machine.execCall c e s
  | .jr c e => Sys2Proof.Machine.execJr c e s
  | .loop c e => Sys2Proof.Machine.execLoop c e s
  | .setmode c e => Sys2Proof.Machine.execSetmode c e s
  | .crd c e => Sys2Proof.Machine.execCrd c e s
  | .cwr c e => Sys2Proof.Machine.execCwr c e s
  | .msync c e => Sys2Proof.Machine.execMsync c e s
  | .phase c e => Sys2Proof.Machine.execPhase c e s
  | .halt c e => Sys2Proof.Machine.execHalt c e s
  | .brk c e => Sys2Proof.Machine.execBrk c e s
  | .trap c e => Sys2Proof.Machine.execTrap c e s
  | .eret c e => Sys2Proof.Machine.execEret c e s
  | .barw c e => Sys2Proof.Machine.execBarw c e s
  | .barmask c e => Sys2Proof.Machine.execBarmask c e s
  | .bargen c e => Sys2Proof.Machine.execBargen c e s
  | .claim c e => Sys2Proof.Machine.execClaim c e s
  | .vnop c e => Sys2Proof.Machine.execVnop c e s
  | .vadd c e => Sys2Proof.Machine.execVadd c e s
  | .vsub c e => Sys2Proof.Machine.execVsub c e s
  | .vmul c e => Sys2Proof.Machine.execVmul c e s
  | .vfma c e => Sys2Proof.Machine.execVfma c e s
  | .vmin c e => Sys2Proof.Machine.execVmin c e s
  | .vmax c e => Sys2Proof.Machine.execVmax c e s
  | .vabs c e => Sys2Proof.Machine.execVabs c e s
  | .vneg c e => Sys2Proof.Machine.execVneg c e s
  | .vdiv c e => Sys2Proof.Machine.execVdiv c e s
  | .vsqrt c e => Sys2Proof.Machine.execVsqrt c e s
  | .vand c e => Sys2Proof.Machine.execVand c e s
  | .vor c e => Sys2Proof.Machine.execVor c e s
  | .vxor c e => Sys2Proof.Machine.execVxor c e s
  | .vshl c e => Sys2Proof.Machine.execVshl c e s
  | .vshr c e => Sys2Proof.Machine.execVshr c e s
  | .vsra c e => Sys2Proof.Machine.execVsra c e s
  | .vcmpeq c e => Sys2Proof.Machine.execVcmpeq c e s
  | .vcmplt c e => Sys2Proof.Machine.execVcmplt c e s
  | .vcmple c e => Sys2Proof.Machine.execVcmple c e s
  | .vcmpun c e => Sys2Proof.Machine.execVcmpun c e s
  | .mand c e => Sys2Proof.Machine.execMand c e s
  | .mor c e => Sys2Proof.Machine.execMor c e s
  | .mxor c e => Sys2Proof.Machine.execMxor c e s
  | .mnot c e => Sys2Proof.Machine.execMnot c e s
  | .mset c e => Sys2Proof.Machine.execMset c e s
  | .mget c e => Sys2Proof.Machine.execMget c e s
  | .mpopc c e => Sys2Proof.Machine.execMpopc c e s
  | .vcvt c e => Sys2Proof.Machine.execVcvt c e s
  | .vscale c e => Sys2Proof.Machine.execVscale c e s
  | .vqnt c e => Sys2Proof.Machine.execVqnt c e s
  | .vdq c e => Sys2Proof.Machine.execVdq c e s
  | .vredadd c e => Sys2Proof.Machine.execVredadd c e s
  | .vredmax c e => Sys2Proof.Machine.execVredmax c e s
  | .vredmin c e => Sys2Proof.Machine.execVredmin c e s
  | .vbadd c e => Sys2Proof.Machine.execVbadd c e s
  | .vbmrg c e => Sys2Proof.Machine.execVbmrg c e s
  | .vbrnd c e => Sys2Proof.Machine.execVbrnd c e s
  | .vmov c e => Sys2Proof.Machine.execVmov c e s
  | .vsel c e => Sys2Proof.Machine.execVsel c e s
  | .vperm c e => Sys2Proof.Machine.execVperm c e s
  | .vbcast c e => Sys2Proof.Machine.execVbcast c e s
  | .vext c e => Sys2Proof.Machine.execVext c e s
  | .vins c e => Sys2Proof.Machine.execVins c e s
  | .vld c e => Sys2Proof.Machine.execVld c e s
  | .vld2 c e => Sys2Proof.Machine.execVld2 c e s
  | .vst c e => Sys2Proof.Machine.execVst c e s
  | .vlds c e => Sys2Proof.Machine.execVlds c e s
  | .vsts c e => Sys2Proof.Machine.execVsts c e s
  | .vgath c e => Sys2Proof.Machine.execVgath c e s
  | .vscat c e => Sys2Proof.Machine.execVscat c e s
  | .mma c e => Sys2Proof.Machine.execMma c e s
  | .accz c e => Sys2Proof.Machine.execAccz c e s
  | .accget c e => Sys2Proof.Machine.execAccget c e s
  | .accput c e => Sys2Proof.Machine.execAccput c e s
  | .accld c e => Sys2Proof.Machine.execAccld c e s
  | .accst c e => Sys2Proof.Machine.execAccst c e s
  | .xpost c e => Sys2Proof.Machine.execXpost c e s
  | .xcount c e => Sys2Proof.Machine.execXcount c e s
  | .xwait c e => Sys2Proof.Machine.execXwait c e s
  | .xerr c e => Sys2Proof.Machine.execXerr c e s
  | .xclr c e => Sys2Proof.Machine.execXclr c e s
  | .cissue c e => Sys2Proof.Machine.execCissue c e s
  | .cwait c e => Sys2Proof.Machine.execCwait c e s
  | .createGroup f => Sys2Proof.Machine.execCreateGroup f s
  | .setRing f obj => Sys2Proof.Machine.execSetRing f obj s
  | .setProg f obj => Sys2Proof.Machine.execSetProg f obj s
  | .enableGroup f obj ext => Sys2Proof.Machine.execEnableGroup f obj ext s
  | .disableGroup f obj => Sys2Proof.Machine.execDisableGroup f obj s
  | .destroyGroup f obj => Sys2Proof.Machine.execDestroyGroup f obj s
  | .queryGroup f obj => Sys2Proof.Machine.execQueryGroup f obj s
  | .launch w ext => Sys2Proof.Machine.execLaunch w ext s
  | .allreduce w ext => Sys2Proof.Machine.execAllreduce w ext s
  | .reduceScatter w ext => Sys2Proof.Machine.execReduceScatter w ext s
  | .allgather w ext => Sys2Proof.Machine.execAllgather w ext s
  | .broadcast w ext => Sys2Proof.Machine.execBroadcast w ext s
  | .reduce w ext => Sys2Proof.Machine.execReduce w ext s
  | .alltoall w ext => Sys2Proof.Machine.execAlltoall w ext s
  | .barrier w ext => Sys2Proof.Machine.execBarrier w ext s
  | .collectiveStart g ext => Sys2Proof.Machine.execCollectiveStart g ext s
  | .chunkStart n ext => Sys2Proof.Machine.execChunkStart n ext s
  | .chunkNoticeReceived q ext => Sys2Proof.Machine.execChunkNoticeReceived q ext s
  | .slotReturnReceived q => Sys2Proof.Machine.execSlotReturnReceived q s
  | .recordDone p n ext => Sys2Proof.Machine.execRecordDone p n ext s
  | .collectiveEnd g => Sys2Proof.Machine.execCollectiveEnd g s
  | .collectiveTimeout g => Sys2Proof.Machine.execCollectiveTimeout g s
  | .cpfGo m => Sys2Proof.Machine.execCpfGo m s
  | .cpfOriginReached top fw dig delay ok ident plan => Sys2Proof.Machine.execCpfOriginReached top fw dig delay ok ident plan s
  | .cpfStop m => Sys2Proof.Machine.execCpfStop m s
  | .traceRecordArrival r lc dbe => Sys2Proof.Machine.execTraceRecordArrival r lc dbe s
  | .replayInput fa fb => Sys2Proof.Machine.execReplayInput fa fb s
  | .comparatorSelftest fa fb => Sys2Proof.Machine.execComparatorSelftest fa fb s
  | .verifiedReport cyc => Sys2Proof.Machine.execVerifiedReport cyc s
  | .createJob f host => Sys2Proof.Machine.execCreateJob f host s
  | .addRegion f => Sys2Proof.Machine.execAddRegion f s
  | .removeRegion f obj => Sys2Proof.Machine.execRemoveRegion f obj s
  | .bindQp f => Sys2Proof.Machine.execBindQp f s
  | .bindCommitWq f => Sys2Proof.Machine.execBindCommitWq f s
  | .step f => Sys2Proof.Machine.execStep f s
  | .resume f => Sys2Proof.Machine.execResume f s
  | .restoreFlash f => Sys2Proof.Machine.execRestoreFlash f s
  | .flashRestoreDone f ok => Sys2Proof.Machine.execFlashRestoreDone f ok s
  | .destroyJob f => Sys2Proof.Machine.execDestroyJob f s
  | .addSpares f host => Sys2Proof.Machine.execAddSpares f host s
  | .addSparesReportReceived id m n ack => Sys2Proof.Machine.execAddSparesReportReceived id m n ack s
  | .undoCopyDone g => Sys2Proof.Machine.execUndoCopyDone g s
  | .peerCopyDone f r ok data => Sys2Proof.Machine.execPeerCopyDone f r ok data s
  | .deltaNoticeReceived q host => Sys2Proof.Machine.execDeltaNoticeReceived q host s
  | .memberPrepared f => Sys2Proof.Machine.execMemberPrepared f s
  | .preparedReceived id n m => Sys2Proof.Machine.execPreparedReceived id n m s
  | .commitReceived id n from_ => Sys2Proof.Machine.execCommitReceived id n from_ s
  | .failReceived id n => Sys2Proof.Machine.execFailReceived id n s
  | .flashProofWritten f => Sys2Proof.Machine.execFlashProofWritten f s
  | .flashDoneReceived id n m => Sys2Proof.Machine.execFlashDoneReceived id n m s
  | .flashFailedReceived id n m => Sys2Proof.Machine.execFlashFailedReceived id n m s
  | .flashUsableReceived id n => Sys2Proof.Machine.execFlashUsableReceived id n s
  | .heartbeatDue => Sys2Proof.Machine.execHeartbeatDue s
  | .heartbeatReceived x => Sys2Proof.Machine.execHeartbeatReceived x s
  | .heartbeatSilence x => Sys2Proof.Machine.execHeartbeatSilence x s
  | .suspectReceived x by_ withdrawn => Sys2Proof.Machine.execSuspectReceived x by_ withdrawn s
  | .leaveReceived id m => Sys2Proof.Machine.execLeaveReceived id m s
  | .lostReceived x => Sys2Proof.Machine.execLostReceived x s
  | .faultReportReceived origin unit sig time count link => Sys2Proof.Machine.execFaultReportReceived origin unit sig time count link s
  | .faultReportWindowEnd sig => Sys2Proof.Machine.execFaultReportWindowEnd sig s
  | .rollbackReceived id c lost unrec => Sys2Proof.Machine.execRollbackReceived id c lost unrec s
  | .rollbackRestoreDone f => Sys2Proof.Machine.execRollbackRestoreDone f s
  | .rolledReceived id m rebuilt => Sys2Proof.Machine.execRolledReceived id m rebuilt s
  | .takeoverReceived x => Sys2Proof.Machine.execTakeoverReceived x s
  | .moveReceived x pos frm => Sys2Proof.Machine.execMoveReceived x pos frm s
  | .rebuildDone f c pulls => Sys2Proof.Machine.execRebuildDone f c pulls s
  | .recoveredReceived id c => Sys2Proof.Machine.execRecoveredReceived id c s
  | .createVol m => Sys2Proof.Machine.execCreateVol m s
  | .deleteVol m => Sys2Proof.Machine.execDeleteVol m s
  | .queryVol m => Sys2Proof.Machine.execQueryVol m s
  | .volumeRead m reread rebuilt bad => Sys2Proof.Machine.execVolumeRead m reread rebuilt bad s
  | .volumeWrite m host => Sys2Proof.Machine.execVolumeWrite m host s
  | .truncate m => Sys2Proof.Machine.execTruncate m s
  | .powerFail pg => Sys2Proof.Machine.execPowerFail pg s
  | .psCheckpoint => Sys2Proof.Machine.execPsCheckpoint s
  | .holdupTest us => Sys2Proof.Machine.execHoldupTest us s
  | .psScrub v ix corr aged reread rebuilt => Sys2Proof.Machine.execPsScrub v ix corr aged reread rebuilt s
  | .wearLevelMove v ix days => Sys2Proof.Machine.execWearLevelMove v ix days s
  | .programFailure d moved whole => Sys2Proof.Machine.execProgramFailure d moved whole s
  | .eraseFailure d whole => Sys2Proof.Machine.execEraseFailure d whole s
  | .mbxSend m c v => Sys2Proof.Machine.execMbxSend m c v s
  | .mbxPop m c => Sys2Proof.Machine.execMbxPop m c s
  | .wakeHoldExpiry d => Sys2Proof.Machine.execWakeHoldExpiry d s
  | .edgeSourceEvent ix => Sys2Proof.Machine.execEdgeSourceEvent ix s
  | .levelSourceChange ix up => Sys2Proof.Machine.execLevelSourceChange ix up s
  | .icuClaim m t => Sys2Proof.Machine.execIcuClaim m t s
  | .icuComplete m t ix => Sys2Proof.Machine.execIcuComplete m t ix s
  | .icuSrcWrite m ix v => Sys2Proof.Machine.execIcuSrcWrite m ix v s
  | .msixCoalesceTimeout f v => Sys2Proof.Machine.execMsixCoalesceTimeout f v s
  | .msixUnmask f v => Sys2Proof.Machine.execMsixUnmask f v s
  | .domainOnRequest m d v => Sys2Proof.Machine.execDomainOnRequest m d v s
  | .domainRampEnd d => Sys2Proof.Machine.execDomainRampEnd d s
  | .domainIsolationRelease d => Sys2Proof.Machine.execDomainIsolationRelease d s
  | .headswitchFault d => Sys2Proof.Machine.execHeadswitchFault d s
  | .rampPauseEnd g => Sys2Proof.Machine.execRampPauseEnd g s
  | .capWrite m v => Sys2Proof.Machine.execCapWrite m v s
  | .controlInstant x => Sys2Proof.Machine.execControlInstant x s
  | .shiftReportDue => Sys2Proof.Machine.execShiftReportDue s
  | .shiftAllocation => Sys2Proof.Machine.execShiftAllocation s
  | .shiftReplyReceived e => Sys2Proof.Machine.execShiftReplyReceived e s
  | .shiftLeaderSilence => Sys2Proof.Machine.execShiftLeaderSilence s
  | .droopDetect p => Sys2Proof.Machine.execDroopDetect p s
  | .droopRecovery p => Sys2Proof.Machine.execDroopRecovery p s
  | .brakeAssert => Sys2Proof.Machine.execBrakeAssert s
  | .brakeRelease => Sys2Proof.Machine.execBrakeRelease s
  | .thermalSample r => Sys2Proof.Machine.execThermalSample r s
  | .supplyTrip rail volt set_ => Sys2Proof.Machine.execSupplyTrip rail volt set_ s
  | .burrReport p b drift => Sys2Proof.Machine.execBurrReport p b drift s
  | .replan m => Sys2Proof.Machine.execReplan m s
  | .captureSample u v => Sys2Proof.Machine.execCaptureSample u v s
  | .captureClear m u base v => Sys2Proof.Machine.execCaptureClear m u base v s
  | .eventQueueDrain => Sys2Proof.Machine.execEventQueueDrain s
  | .logHeadWrite m f v => Sys2Proof.Machine.execLogHeadWrite m f v s
  | .logRingEnable m f v => Sys2Proof.Machine.execLogRingEnable m f v s
  | .alarmPop m => Sys2Proof.Machine.execAlarmPop m s
  | .pgInRise refsel => Sys2Proof.Machine.execPgInRise refsel s
  | .resetNRelease => Sys2Proof.Machine.execResetNRelease s
  | .topResetCold m => Sys2Proof.Machine.execTopResetCold m s
  | .topResetWarm m => Sys2Proof.Machine.execTopResetWarm m s
  | .watchdogExpiry => Sys2Proof.Machine.execWatchdogExpiry s
  | .bootImageVerified readable ckptOk logOk rnd => Sys2Proof.Machine.execBootImageVerified readable ckptOk logOk rnd s
  | .bootReady hbmOk planOk fwOk => Sys2Proof.Machine.execBootReady hbmOk planOk fwOk s
  | .stage m flashOk => Sys2Proof.Machine.execStage m flashOk s
  | .commit m flashOk => Sys2Proof.Machine.execCommit m flashOk s
  | .raiseSvn m => Sys2Proof.Machine.execRaiseSvn m s
  | .mgmtRead off aux => Sys2Proof.Machine.execMgmtRead off aux s
  | .tapBypass tdi => Sys2Proof.Machine.execTapBypass tdi s
  | .tapIdcode => Sys2Proof.Machine.execTapIdcode s
  | .tapSamplePreload n pins load => Sys2Proof.Machine.execTapSamplePreload n pins load s
  | .tapExtest => Sys2Proof.Machine.execTapExtest s
  | .registerRead m t n => Sys2Proof.Machine.execRegisterRead m t n s
  | .hostSnoop line => Sys2Proof.Machine.execHostSnoop line s
  | .configurationRequest f r => Sys2Proof.Machine.execConfigurationRequest f r s
  | .shiftReportReceived node draw cap limit atMax steps late => Sys2Proof.Machine.execShiftReportReceived node draw cap limit atMax steps late s
  | .vinInRange => Sys2Proof.Machine.execVinInRange s

end Sys2Proof.Machine
end

