-- ==== Sys2Proof/Safety.lean ====
section
/-! DEFINITION. What a safe state and a safe run are, in the terms the statements use: the canonical form of memory and
registers, and a command that completes with an effect. -/

namespace Sys2Proof.Machine

/-- Memory in its one canonical form: addresses strictly rising, and no entry that an unlisted address would read as. -/
def Memory.wf (m : List Host.Cell) : Bool := sorted m && m.all fun e => decide (e.2 ≠ 0)

/-- Registers in their one canonical form: keys strictly rising, and no entry at its reset value. -/
def Registers.wf (g : Grade) (m : Map Word) : Bool := sorted m && m.all fun e => decide (e.2 ≠ regReset g e.1)

/-- The invariant of the machine: memory and registers are in canonical form, so that equal contents are equal data. -/
def State.canonical (s : State) : Bool := Memory.wf s.mem && Registers.wf s.grade s.regs

/-- A command completes, in a next state with the property given. -/
def Gives (c : Instr) (s : State) (p : State → Prop) : Prop := ∃ t, exec c s = .next t ∧ p t

/-- A safe run of n steps: none of them faults or is refused, and the state it ends in has the property given. -/
def SafeRun (n : Nat) (s : State) (p : State → Prop) : Prop := ∃ t, Sys2Proof.core.run n s = .next t ∧ p t

end Sys2Proof.Machine
end

