-- ==== Sys2Proof/Certificates/Slice0/Obligations.lean ====
section
/-! DEFINITION. The statements for the provers: one proposition each, named by what it states. -/

namespace Sys2Proof.Machine

/-- Counterproof neither records nor holds back anything: the module is not a running lead, follower or replay, and has not stopped
after one. What counterproof does to an input has a statement of its own. -/
def Apart (s : State) : Prop := s.leads = false ∧ s.follows = false ∧ s.cpf.halted = false

/-- Counterproof does not run and has not stopped the module: outputs leave as they are made. -/
def Quiet (s : State) : Prop := s.cpfRuns = false ∧ s.cpf.halted = false

/-- A write of a register of function f by master m reaches it: through the function's own page where the register is mapped, else past
the checks of its address. -/
def Passes (s : State) (m f k : Nat) : Prop :=
  if m = f ∧ 1 ≤ f then s.mapped (regBase + k) = true else s.check m (regBase + k) = none

/-- A command register whose domain is On and which no command holds. -/
def Idle (s : State) (k : Nat) (go : Fld) : Prop := s.mapped (regBase + k) = true ∧ s.on k go = false

/-- A command that has ended with a status. -/
def Ended (t : State) (k : Nat) (go st : Fld) (code : Nat) : Prop := t.on k go = false ∧ t.rf k st = code

/-- What a command leaves alone unless its statement says otherwise: memory, the queue, the grade, the timebase. -/
def Kept (s t : State) : Prop := t.mem = s.mem ∧ t.pending = s.pending ∧ t.grade = s.grade ∧ t.time = s.time

/-- Every register but those of the keys given reads as before. -/
def RegsKept (s t : State) (ks : List Nat) : Prop := ∀ k, k ∉ ks → t.rd k = s.rd k

end Sys2Proof.Machine

open Sys2Proof Sys2Proof.Machine
/-! ### The queue and the whole machine -/

/-- The command at the front of the queue has its effect on the state whose queue is the rest; with no command waiting a step lets one
nanosecond of the block's clocks pass (the model's choice, log 2) and leaves memory, the queue, the grade and the outputs as they are. -/
def Obligations.StepRunsTheFrontCommand : Prop :=
  (∀ (c : Instr) (rest : List Instr) (s : State), s.pending = c :: rest → step s = exec c { s with pending := rest }) ∧
  (∀ s : State, s.pending = [] → ∃ t, step s = .next t ∧ t.clk = s.clk + 1 ∧ t.pending = [] ∧ t.mem = s.mem ∧ t.grade = s.grade ∧
    t.out = s.out)

/-- Every command answers a next state: none faults or is refused; and none touches the commands that wait behind it, nor the grade.
What in it is the model's own choice is said in log 6, 7. -/
def Obligations.EveryCommandKeepsTheQueueAndGrade : Prop :=
  (∀ (c : Instr) (s : State), ∃ t, exec c s = .next t) ∧
  (∀ (c : Instr) (s t : State), exec c s = .next t → t.pending = s.pending ∧ t.grade = s.grade)

/-- The headline invariant: a step from a state whose memory and registers are in canonical form leads to another.
What in it is the model's own choice is said in log 5. -/
def Obligations.StepKeepsCanonicalForm : Prop := ∀ s t : State, s.canonical = true → step s = .next t → t.canonical = true

/-- Reset is canonical, with an empty queue and empty memory, `READY` 0, and the reset values that the tables give.
What in it is the model's own choice is said in log 5, 6, 10, 58. -/
def Obligations.ResetHoldsTheTabledValues : Prop :=
  State.reset.canonical = true ∧ State.reset.pending = [] ∧ State.reset.mem = [] ∧ State.reset.out = [] ∧
  State.reset.rf Reg.topBootStatus F.topBootStatus_ready = 0 ∧ State.reset.time = 0 ∧
  State.reset.rd Reg.topId = 0x09400120#64 ∧ State.reset.rf (Reg.vfmFnCtrl 0) F.vfmFnCtrl_en = 1 ∧
  State.reset.rf (Reg.vfmFnCtrl 1) F.vfmFnCtrl_en = 0

/-! ### Registers and memory by address (00_scope.md, 01_architecture.md) -/

/-- Registers outside the counterproof scope that have no row of their own. -/
def Sys2Proof.Machine.plainRegs : List Nat :=
  [Reg.hifWinBase, Reg.mbxCtrl, Reg.mbxChan 7, Reg.icuCtrl, Reg.icuThresh 2, Reg.monCtrl, Reg.prfCtrl, Reg.pwrThermLim 3]

/-- REGISTER_WRITE, REGISTER_READ, PARTIAL_WRITE and BLOCK_LOCK by a master whose access passes the checks of the address: a 64-bit
write takes effect under the access codes and changes nothing else; a read answers the register's bytes; a partial write changes no
register and is reported; a lock bit is set and nothing else of its register changes.
What in it is the model's own choice is said in log 11, 12. -/
def Obligations.RegisterAccessOnTheNetwork : Prop :=
  (∀ (s : State) (m k : Nat) (v : Word), k ∈ plainRegs → s.check m (regBase + k) = none →
    exec (.registerWrite m (.dpa (regBase + k)) v) s = .next (s.softW k v)) ∧
  (∀ (s : State) (m k : Nat), k ∈ plainRegs → s.check m (regBase + k) = none →
    Gives (.registerRead m (.dpa (regBase + k)) 8) s fun t =>
      t.out = s.out ++ [⟨.resp, [m, regBase + k, 0], none, leBytes 8 (s.rd k).toNat⟩] ∧ Kept s t ∧ RegsKept s t []) ∧
  (∀ (s : State) (m k n : Nat), k ∈ plainRegs → s.check m (regBase + k) = none → (m = 0 ∨ 1024 < m) → n ≠ 8 → s.pd 94 = 2 →
    s.mon.evQ.length < 512 →
    Gives (.partialWrite m (.dpa (regBase + k)) n) s fun t =>
      (∃ e, t.mon.evQ = s.mon.evQ ++ [e] ∧ e.code = 1 ∧ e.cls = .warning ∧ e.arg1 = regBase + k) ∧ Kept s t ∧ RegsKept s t []) ∧
  (∀ (s : State) (m b r : Nat) (f : Fld), lockBit b = some (r, f) → s.check m (regBase + r) = none →
    Gives (.blockLock m b) s fun t => t.rf r f = 1 ∧ Kept s t ∧ RegsKept s t [r])

/-! ### Memory (01_architecture.md, 02_attach_ports.md) -/

/-- No dirty log of any function is enabled. -/
def Sys2Proof.Machine.NoDirtyLog (s : State) : Prop := ∀ f l, f ≤ 1024 → l < 2 → s.on (Reg.vfmDlogBase f l) F.vfmDlogBase_en = false

/-- A store changes the bytes it names and no other byte of memory while no dirty log is enabled, and nothing else that commands read but
the copies kept for undo and their meters; a store into an HBM page that an enabled dirty log of the PF covers sets the page's bit in the
log's active buffer.
What in it is the model's own choice is said in log 5, 24. -/
def Obligations.StoreChangesItsBytesOnly : Prop :=
  ((∀ (s : State) (a : Nat) (bs : List Byte) (j : Nat), NoDirtyLog s →
    (s.store a bs).byte j = if a ≤ j ∧ j < a + bs.length then bs.getD (j - a) 0 else s.byte j) ∧
  (∀ (s : State) (a : Nat) (bs : List Byte), (s.store a bs).pending = s.pending ∧ (s.store a bs).plt = s.plt ∧
    (s.store a bs).qpe = s.qpe ∧ (s.store a bs).wqe = s.wqe ∧ (s.store a bs).time = s.time ∧ (s.store a bs).out = s.out)) ∧
  (∀ (s : State) (a g : Nat) (bs : List Byte) (l : Nat), l < 2 → g ∈ pagesOf a bs.length → a + bs.length ≤ hbmEnd →
    s.on (Reg.vfmDlogBase 0 l) F.vfmDlogBase_en = true →
    nbit ((s.store a bs).byte (s.dlogBuf 0 l + g / 8)).toNat (g % 8) = true)

/-- MEMORY_REQUEST to HBM by a master that passes the checks of every line it touches: a read answers the bytes that memory holds and
leaves memory as it is; a write and an AtomicOp store what R36 and Table 2-2 say at their address, through the store that the two
statements above describe; an AtomicOp answers the old bytes.
What in it is the model's own choice is said in log 5, 19. -/
def Obligations.MemoryRequestReadsAndWritesHbm : Prop :=
  (∀ (s : State) (m a n : Nat) (op : AtomicOp) (d : List Byte) (e : Env), 0 < n → a + n ≤ hbmEnd → s.dpaCheck m a n false = none →
    s.biased a n = false → Gives (.memoryRequest m .read op a n d e) s fun t =>
      t.out = s.out ++ [⟨.resp, [m, a, 0], none, s.bytes a n⟩] ∧ Kept s t) ∧
  (∀ (s : State) (m a : Nat) (op : AtomicOp) (d : List Byte) (n : Nat) (e : Env), d ≠ [] → a + d.length ≤ hbmEnd →
    s.dpaCheck m a d.length true = none → s.biased a d.length = false → Apart s → NoDirtyLog s →
    Gives (.memoryRequest m .write op a n d e) s fun t =>
      (∀ j, t.byte j = if a ≤ j ∧ j < a + d.length then d.getD (j - a) 0 else s.byte j) ∧
      t.out = s.out ++ [⟨.resp, [m, a, 0], none, []⟩] ∧ t.pending = s.pending) ∧
  (∀ (s : State) (m a n : Nat) (op : AtomicOp) (d : List Byte) (e : Env), 0 < n → a + n ≤ hbmEnd → s.dpaCheck m a n true = none →
    s.biased a n = false → Apart s → NoDirtyLog s → Gives (.memoryRequest m .atomic op a n d e) s fun t =>
      (∀ j, t.byte j = if a ≤ j ∧ j < a + n then (leBytes n (atomicNew op n (leNat (s.bytes a n)) (leNat d))).getD (j - a) 0
        else s.byte j) ∧
      t.out = s.out ++ [⟨.resp, [m, a, 0], none, s.bytes a n⟩] ∧ t.pending = s.pending)

/-! ### The host's window and lines (02_attach_ports.md) -/

/-- A memory request of the host to function f over half h of port n is taken: the link is up, the module is `READY`, the function is not
in D3hot and, for a VF, enabled in PCIe (R536). -/
def Sys2Proof.Machine.HostTakes (s : State) (n h f : Nat) : Prop :=
  s.linkUp n h = true ∧ s.ready = true ∧ (s.pci f).d3hot = false ∧ (1 ≤ f → f ≤ 1024 → s.icu.vfEnable = true) ∧ Apart s

/-- HOST_BAR2_WRITE, HOST_ATOMICOP, HOST_BAR2_READ, PORT_FUNCTION_BAR0_READ, CXL_MEM_ACCESS, HOST_SNOOP, through any window that maps: the
selected bytes, or the AtomicOp's result, are stored at the DPA that the window gives and no other byte changes, and an AtomicOp answers
the old bytes; a read of up to 256 B is answered in one completion with what memory holds; a port function's page shows port, half and
serial number; a CXL read of a page in device bias puts the page in host bias and counts the flip, a write stores its line; a snoop takes
a line out of the shared ones. Reads change no byte of memory.
What in it is the model's own choice is said in log 8, 17, 19. -/
def Obligations.HostStoresReadsAndLines : Prop :=
  ((∀ (s : State) (w : Bar2) (off : Nat) (data : List Byte) (be : List Bool), winIs w = true → true ∈ be → be.length = data.length →
    HostTakes s (winFn w).1 (winFn w).2.1 (winFn w).2.2 → s.winCheck w off data.length true = none → NoDirtyLog s →
    s.winWaits (s.winMap w off data.length).2.1 data.length = false →
    Gives (.hostBar2Write w off data be) s fun t =>
      (∀ j, t.byte j =
        if (s.winMap w off data.length).2.1 ≤ j ∧ j < (s.winMap w off data.length).2.1 + data.length ∧
            be.getD (j - (s.winMap w off data.length).2.1) false = true
        then data.getD (j - (s.winMap w off data.length).2.1) 0 else s.byte j) ∧ t.pending = s.pending ∧ t.out = s.out) ∧
  (∀ (s : State) (w : Bar2) (op : AtomicOp) (off n v : Nat), winIs w = true →
    (n = 4 ∨ n = 8 ∨ (n = 16 ∧ ∃ c, op = .cas c)) → off % n = 0 →
    HostTakes s (winFn w).1 (winFn w).2.1 (winFn w).2.2 → s.winCheck w off n true = none → NoDirtyLog s → s.cpfRuns = false →
    s.winWaits (s.winMap w off n).2.1 n = false →
    Gives (.hostAtomicop w op off n v) s fun t =>
      (∀ j, t.byte j =
        if (s.winMap w off n).2.1 ≤ j ∧ j < (s.winMap w off n).2.1 + n
        then (leBytes n (atomicNew op n (leNat (s.bytes (s.winMap w off n).2.1 n)) v)).getD (j - (s.winMap w off n).2.1) 0
        else s.byte j) ∧
      t.out = s.out ++ [⟨.tlpCpl, [(winFn w).1, (winFn w).2.1, 0], none, s.bytes (s.winMap w off n).2.1 n⟩] ∧ t.pending = s.pending)) ∧
  ((∀ (s : State) (w : Bar2) (off n : Nat), winIs w = true → n ≤ 256 → s.cpfRuns = false →
    HostTakes s (winFn w).1 (winFn w).2.1 (winFn w).2.2 → s.winCheck w off n false = none →
    s.winWaits (s.winMap w off n).2.1 n = false →
    Gives (.hostBar2Read w off n) s fun t =>
      t.out = s.out ++ [⟨.tlpCpl, [(winFn w).1, (winFn w).2.1, 0], none, s.bytes (s.winMap w off n).2.1 n⟩] ∧ Kept s t) ∧
  (∀ (s : State) (port half n : Nat), port < 4 → (port ≠ 0 ∨ half ≠ 0) → s.linkUp port half = true → s.ready = true →
    (s.pci (portFn port half)).d3hot = false → s.cpfRuns = false → s.cpf.halted = false → n ≤ 8 →
    Gives (.portFunctionBar0Read port half 16 n) s fun t =>
      t.out = s.out ++ [⟨.tlpCpl, [port, half, 0], none, (leBytes 8 s.top.serial).take n⟩] ∧ Kept s t ∧ RegsKept s t []) ∧
  (∀ (s : State) (l : Nat) (d : List Byte), s.cxlUp = true → s.ready = true → 64 * l + 64 ≤ hbmEnd → s.hbmOn = true →
    s.flipping (64 * l / pageSize) = false → s.cpfRuns = false → s.cpf.halted = false → s.hif.hostBias.contains (64 * l / pageSize) = false →
    Gives (.cxlMemAccess false (64 * l) d) s fun t =>
      t.out = s.out ++ [⟨.tlpCpl, [0, 0, 0], none, s.bytes (64 * l) 64⟩] ∧ t.hif.hostBias.contains (64 * l / pageSize) = true ∧
      t.rf Reg.hifBiasStatus F.hifBiasStatus_auto_flips =
        satU (F.hifBiasStatus_auto_flips.hi + 1 - F.hifBiasStatus_auto_flips.lo) (s.rf Reg.hifBiasStatus F.hifBiasStatus_auto_flips + 1) ∧
      Kept s t ∧ RegsKept s t [Reg.hifBiasStatus]) ∧
  (∀ (s : State) (l : Nat) (d : List Byte), s.cxlUp = true → s.ready = true → 64 * l + 64 ≤ hbmEnd → s.hbmOn = true → d.length = 64 →
    s.flipping (64 * l / pageSize) = false → s.cpfRuns = false → s.cpf.halted = false → s.hif.hostBias.contains (64 * l / pageSize) = true →
    NoDirtyLog s → Gives (.cxlMemAccess true (64 * l) d) s fun t =>
      (∀ j, t.byte j = if 64 * l ≤ j ∧ j < 64 * l + 64 then d.getD (j - 64 * l) 0 else s.byte j) ∧ t.pending = s.pending) ∧
  (∀ (s : State) (l : Nat), exec (.hostSnoop l) s = .next { s with hif.shared := sdel s.hif.shared l }))

/-! ### Attach links, bias pages and peers (02_attach_ports.md) -/

/-- Nothing of the queues or of the peers is outstanding. -/
def Sys2Proof.Machine.NoTraffic (s : State) : Prop :=
  s.hif.flushes = [] ∧ s.hif.probes = [] ∧ s.hif.peers = [] ∧ s.wqe.wqs = [] ∧ s.wqe.cqs = []

/-- LINK_HALF_UP, LINK_HALF_DOWN, LINK_EN_WRITE, PERST_N: a half that may train comes up at the smaller width and rate; a half that goes
down while nothing is outstanding reads down, is latched and counted, and changes no memory; a write of the port's configuration that
keeps `LINK_EN` takes effect under the access codes, `CXL_EN` staying 0 but on port 0; one that clears it takes both halves down; a
rising PERST_N lets the port train again and a falling one holds it.
What in it is the model's own choice is said in log 7, 57. -/
def Obligations.AttachLinksComeAndGo : Prop :=
  (∀ (s : State) (port half width rate : Nat) (cxl : Bool), port < 4 → half < 2 → (half = 1 → s.bifurcated port = true) →
    s.linkUp port half = false → port ∉ s.top.perst → s.top.stopped = false → s.on (Reg.hifPortCfg port) F.hifPortCfg_link_en = true →
    s.pd (80 + port) = 2 → 0 < width → s.rf Reg.topBootStatus F.topBootStatus_stage ≠ 0 →
    s.rf Reg.topBootStatus F.topBootStatus_stage ≠ 0xFF →
    Gives (.linkHalfUp port half width rate cxl) s fun t =>
      t.linkUp port half = true ∧
      t.rf (Reg.hifPortStatus port) (halfFld half F.hifPortStatus_width0 F.hifPortStatus_width1) =
        min width (if s.bifurcated port then 8 else 16) ∧
      t.rf (Reg.hifPortStatus port) (halfFld half F.hifPortStatus_rate0 F.hifPortStatus_rate1) = min rate (s.rateMax port) ∧
      Kept s t ∧ RegsKept s t [Reg.hifPortStatus port]) ∧
  (∀ (s : State) (port half : Nat), 1 ≤ port → port < 4 → half < 2 → s.linkUp port half = true → NoTraffic s →
    Gives (.linkHalfDown port half) s fun t =>
      t.linkUp port half = false ∧
      t.on (Reg.hifPortStatus port) (halfFld half F.hifPortStatus_down0 F.hifPortStatus_down1) = true ∧ Kept s t) ∧
  (∀ (s : State) (m port : Nat) (v : Word), port < 4 → s.check m (regBase + Reg.hifPortCfg port) = none →
    fld v F.hifPortCfg_link_en.hi F.hifPortCfg_link_en.lo = 1 → s.top.hifLock = false →
    Gives (.linkEnWrite m port v) s fun t =>
      t.on (Reg.hifPortCfg port) F.hifPortCfg_link_en = true ∧
      (port ≠ 0 → t.rf (Reg.hifPortCfg port) F.hifPortCfg_cxl_en = 0) ∧
      t.rf (Reg.hifPortCfg port) F.hifPortCfg_max_rate = fld v F.hifPortCfg_max_rate.hi F.hifPortCfg_max_rate.lo ∧
      Kept s t ∧ RegsKept s t [Reg.hifPortCfg port]) ∧
  (∀ (s : State) (m port : Nat) (v : Word), 1 ≤ port → port < 4 → s.check m (regBase + Reg.hifPortCfg port) = none →
    fld v F.hifPortCfg_link_en.hi F.hifPortCfg_link_en.lo = 0 → NoTraffic s →
    Gives (.linkEnWrite m port v) s fun t => t.linkUp port 0 = false ∧ t.linkUp port 1 = false ∧ Kept s t) ∧
  (∀ (s : State) (port : Nat), port < 4 → exec (.perstN port false) s = .next { s with top.perst := sdel s.top.perst port }) ∧
  (∀ (s : State) (port : Nat), 1 ≤ port → port < 4 → NoTraffic s →
    Gives (.perstN port true) s fun t =>
      t.top.perst = sins s.top.perst port ∧ t.linkUp port 0 = false ∧ t.linkUp port 1 = false ∧ Kept s t)

/-- BIAS_CMD_GO, BIAS_FLIP_END, FLUSH_READ_COMPLETION, PEER_PROBE_COMPLETE, PEER_READ_FAILURE: a command that names pages of HBM and finds no
other under way holds exactly the pages it names as being flipped, `GO` and `BUSY` reading 1, and the end of the flip leaves exactly those
pages in their new bias and both bits 0; a flush read issued before a notice ends with nothing else changed; a probe that a new peer
answers enters the peer and completes the registration with the next free index; one that no link answers fails with `ST_PEER_DOWN`, and a
failed read marks the peer unreachable.
What in it is the model's own choice is said in log 7, 21, 28. -/
def Obligations.FlipsFlushesProbesAndPeers : Prop :=
  ((∀ (s : State) (m : Nat) (v : Word), s.check m (regBase + Reg.hifBiasCmd) = none → s.on Reg.hifBiasStatus F.hifBiasStatus_busy = false →
    fld v F.hifBiasCmd_page.hi F.hifBiasCmd_page.lo + fld v F.hifBiasCmd_count.hi F.hifBiasCmd_count.lo < hbmEnd / pageSize →
    Gives (.biasCmdGo m v) s fun t =>
      t.hif.flip = some (fld v F.hifBiasCmd_page.hi F.hifBiasCmd_page.lo, fld v F.hifBiasCmd_count.hi F.hifBiasCmd_count.lo + 1,
        decide (fld v F.hifBiasCmd_to.hi F.hifBiasCmd_to.lo = 1)) ∧
      t.on Reg.hifBiasStatus F.hifBiasStatus_busy = true ∧ t.on Reg.hifBiasCmd F.hifBiasCmd_go = true ∧
      t.hif.hostBias = s.hif.hostBias ∧ Kept s t) ∧
  (∀ (s : State) (lo n g : Nat) (dev : Bool), s.hif.flip = some (lo, n, dev) → Gives .biasFlipEnd s fun t =>
      t.hif.flip = none ∧ t.on Reg.hifBiasStatus F.hifBiasStatus_busy = false ∧ t.on Reg.hifBiasCmd F.hifBiasCmd_go = false ∧
      (g ∈ t.hif.hostBias ↔ if lo ≤ g ∧ g < lo + n then dev = false else g ∈ s.hif.hostBias) ∧
      Kept s t ∧ RegsKept s t [Reg.hifBiasStatus, Reg.hifBiasCmd])) ∧
  ((∀ (s : State) (id cid q psn : Nat) (f : Flush), s.hif.flushes.find? (fun x => decide (x.id = id)) = some f → f.who = .notice q psn →
    exec (.flushReadCompletion id true cid) s = .next { s with hif.flushes := s.hif.flushes.filter fun x => x.id ≠ id }) ∧
  (∀ (s : State) (f cid n h i : Nat) (p : Probe) (l : List (Nat × Nat)), s.hif.probes.find? (fun x => decide (x.f = f)) = some p →
    p.links = (n, h) :: l → s.linkUp n h = true → s.hif.peers = [] → s.freeIndex = some i → f ≤ 1024 →
    Gives (.peerProbeComplete f true cid) s fun t =>
      t.hif.peers = [Peer.mk n h cid true] ∧ t.rf (Reg.qpeCmd f) F.qpeCmd_go = 0 ∧ t.rf (Reg.qpeCmd f) F.qpeCmd_status = 0 ∧
      (∃ r, mget t.qpe.regions i = some r ∧ r.owner = f) ∧ Kept s t) ∧
  (∀ (s : State) (f cid n h : Nat) (p : Probe), s.hif.probes.find? (fun x => decide (x.f = f)) = some p →
    p.links = [(n, h)] → f ≤ 1024 → Gives (.peerProbeComplete f false cid) s fun t =>
      t.rf (Reg.qpeCmd f) F.qpeCmd_go = 0 ∧ t.rf (Reg.qpeCmd f) F.qpeCmd_status = 0x0C ∧
      (∀ x ∈ t.hif.probes, x.f ≠ f) ∧ Kept s t) ∧
  (∀ (s : State) (port half cid w slot : Nat), mget s.wqe.wqs w = none → s.hif.peers = [Peer.mk port half cid true] →
    Gives (.peerReadFailure port half cid w slot) s fun t => t.hif.peers = [Peer.mk port half cid false] ∧ Kept s t))

/-! ### Translation (03_translation.md) -/

/-- TABLE_WALK_READ_DONE: a walk whose table lies in its function's bounds and whose entry, as it stands in memory, is a leaf with the
right asked for ends with the leaf cached; one whose entry points to a table goes on one level below, in that table.
What in it is the model's own choice is said in log 23. -/
def Obligations.TableWalkFollowsMemory : Prop :=
  (∀ (s : State) (k f dva stream snum o sz : Nat) (acc : Access) (host : List Byte) (wk : Walk) (r w : Bool), k < 512 →
    mget s.xlt.ats k = none → mget s.xlt.walks k = some wk → wk.stale = false → (s.part wk.fn).1 ≤ wk.table →
    wk.table + 4096 ≤ (s.part wk.fn).2 → s.biased (pteAddr wk.table wk.level wk.dva) 8 = false →
    pteOf (s.part wk.fn).1 (s.part wk.fn).2 wk.level (s.ldN (pteAddr wk.table wk.level wk.dva) 8) = .leaf o sz r w →
    accOk wk.acc r w = true → Gives (.tableWalkReadDone k f dva acc stream snum host) s fun t =>
      ⟨wk.fn, 0, 0, sz, wk.dva / 2 ^ sz, o, r, w⟩ ∈ t.xlt.cache ∧ mget t.xlt.walks k = none ∧ Kept s t ∧ RegsKept s t []) ∧
  (∀ (s : State) (k f dva stream snum a : Nat) (acc : Access) (host : List Byte) (wk : Walk), k < 512 →
    mget s.xlt.ats k = none → mget s.xlt.walks k = some wk → wk.stale = false → (s.part wk.fn).1 ≤ wk.table →
    wk.table + 4096 ≤ (s.part wk.fn).2 → s.biased (pteAddr wk.table wk.level wk.dva) 8 = false →
    pteOf (s.part wk.fn).1 (s.part wk.fn).2 wk.level (s.ldN (pteAddr wk.table wk.level wk.dva) 8) = .ptr a →
    Gives (.tableWalkReadDone k f dva acc stream snum host) s fun t =>
      mget t.xlt.walks k = some { wk with level := wk.level + 1, table := a } ∧ t.xlt.cache = s.xlt.cache ∧ Kept s t ∧ RegsKept s t [])

/-- XLT_DEV_EN_WRITE, XLT_INV_GO, XLT_INV_DRAIN_END, ATS_TRANSLATION_COMPLETION, PAGE_REQUEST_RESPONSE, ATS_INVALIDATE_REQUEST,
ATS_INVALIDATION_COMPLETE: a change of `DEV_EN` takes effect, leaves no device entry of the function cached and, from 0 to 1, loads its
root; an invalidation that finds none under way sets `BUSY` and `GO`, leaves no device entry of the function that overlaps its range, and
starts one drain, whose end clears both bits and sets `DONE`; a translation with the right asked for is cached, at most 1 GiB of it; one of
a data page without it is denied for reason 5; a Success repeats the request, another response denies it for reason 6; an invalidation
leaves no host or peer entry of its range, and its end returns Invalidation Completion.
What in it is the model's own choice is said in log 22, 23. -/
def Obligations.InvalidationsEmptyTheCache : Prop :=
  ((∀ (s : State) (m f : Nat) (v : Word), s.check m (regBase + Reg.xltFnCfg f) = none →
    s.on (Reg.xltFnCfg f) F.xltFnCfg_dev_en ≠ decide (fld v 0 0 = 1) →
    Gives (.xltDevEnWrite m f v) s fun t =>
      t.on (Reg.xltFnCfg f) F.xltFnCfg_dev_en = decide (fld v 0 0 = 1) ∧
      (∀ e ∈ t.xlt.cache, e.fn = f → e.space = 0 → 2 ^ 64 ≤ e.page * 2 ^ e.size) ∧
      (fld v 0 0 = 1 → t.rootOf f = s.rf (Reg.xltFnRoot f) F.xltFnRoot_root * 4096) ∧
      Kept s t ∧ RegsKept s t [Reg.xltFnCfg f]) ∧
  (∀ (s : State) (m f : Nat) (v : Word), Passes s m f (Reg.xltInvCmd f) → s.on (Reg.xltInvStatus f) F.xltInvStatus_busy = false →
    fld v 62 61 = 0 → Gives (.xltInvGo m f v) s fun t =>
      t.on (Reg.xltInvStatus f) F.xltInvStatus_busy = true ∧ t.on (Reg.xltInvCmd f) F.xltInvCmd_go = true ∧
      (∀ e ∈ t.xlt.cache, e.fn = f → e.space = 0 →
        overlap (e.page * 2 ^ e.size) ((e.page + 1) * 2 ^ e.size) (invRange v).1 (invRange v).2 = false) ∧
      t.xlt.drains = s.xlt.drains ++ [⟨f, 0, (invRange v).1, (invRange v).2, none⟩] ∧
      Kept s t ∧ RegsKept s t [Reg.xltInvStatus f, Reg.xltInvCmd f]) ∧
  (∀ (s : State) (f : Nat), (∃ d ∈ s.xlt.drains, d.fn = f ∧ d.ats = none) → s.on (Reg.xltInvStatus f) F.xltInvStatus_busy = true →
    Gives (.xltInvDrainEnd f) s fun t =>
      t.on (Reg.xltInvStatus f) F.xltInvStatus_busy = false ∧ t.on (Reg.xltInvStatus f) F.xltInvStatus_done = true ∧
      t.on (Reg.xltInvCmd f) F.xltInvCmd_go = false ∧ (∀ d ∈ t.xlt.drains, d.fn = f → d.ats ≠ none) ∧
      Kept s t ∧ RegsKept s t [Reg.xltInvStatus f, Reg.xltInvCmd f])) ∧
  ((∀ (s : State) (k size out : Nat) (r w : Bool) (q : AtsReq), mget s.xlt.ats k = some q → q.pri = false → q.stale = false →
    accOk q.acc r w = true → Gives (.atsTranslationCompletion k true size out r w) s fun t =>
      mget t.xlt.ats k = none ∧ (∃ e ∈ t.xlt.cache, e.fn = q.fn ∧ e.space = q.space ∧ e.size ≤ 30 ∧ e.page = q.addr / 2 ^ e.size ∧
        e.r = r ∧ e.w = w) ∧ Kept s t ∧ RegsKept s t []) ∧
  (∀ (s : State) (k size out : Nat) (r w : Bool) (q : AtsReq), mget s.xlt.ats k = some q → q.pri = false → q.stale = false →
    accOk q.acc r w = false → q.ring = false → Gives (.atsTranslationCompletion k true size out r w) s fun t =>
      mget t.xlt.ats k = none ∧ t.xlt.denied = s.xlt.denied ++ [(q, 5)] ∧ t.xlt.cache = s.xlt.cache ∧ Kept s t ∧ RegsKept s t []) ∧
  (∀ (s : State) (k : Nat) (q : AtsReq), mget s.xlt.ats k = some q → q.pri = true → Quiet s →
    Gives (.pageRequestResponse k true) s fun t =>
      mget t.xlt.ats k = some { q with pri := false, stale := false } ∧
      t.out = s.out ++ [⟨.atsReq, [q.fn, q.space, q.addr, if (s.pci q.fn).pasidEn then (s.pci q.fn).pasid + 1 else 0], none, []⟩] ∧
      Kept s t ∧ RegsKept s t []) ∧
  (∀ (s : State) (k : Nat) (q : AtsReq), mget s.xlt.ats k = some q → q.pri = true →
    Gives (.pageRequestResponse k false) s fun t =>
      mget t.xlt.ats k = none ∧ t.xlt.denied = s.xlt.denied ++ [({ q with pri := false, stale := false }, 6)] ∧ Kept s t ∧
      RegsKept s t []) ∧
  (∀ (s : State) (f sp lo hi tag : Nat), Gives (.atsInvalidateRequest f sp lo hi tag) s fun t =>
      (∀ e ∈ t.xlt.cache, e.fn = f → e.space ≠ 0 → overlap (e.page * 2 ^ e.size) ((e.page + 1) * 2 ^ e.size) lo hi = false) ∧
      t.xlt.drains = s.xlt.drains ++ [⟨f, sp, lo, hi, some tag⟩] ∧ Kept s t ∧ RegsKept s t []) ∧
  (∀ (s : State) (f tag : Nat), (∃ d ∈ s.xlt.drains, d.fn = f ∧ d.ats = some tag) → Quiet s →
    Gives (.atsInvalidationComplete f tag) s fun t =>
      t.out = s.out ++ [⟨.invCpl, [f, tag], none, []⟩] ∧ (∀ d ∈ t.xlt.drains, d.fn = f → d.ats ≠ some tag) ∧ Kept s t ∧ RegsKept s t []))

/-! ### Tenancy (04_tenancy.md) -/

/-- The partitions of distinct VFs share no byte, and each ends within HBM. -/
def Sys2Proof.Machine.PartsApart (s : State) : Prop :=
  (∀ f g, 1 ≤ f → f ≤ 1024 → 1 ≤ g → g ≤ 1024 → f ≠ g → overlap (s.part f).1 (s.part f).2 (s.part g).1 (s.part g).2 = false) ∧
  ∀ f, 1 ≤ f → f ≤ 1024 → (s.part f).2 ≤ hbmEnd

/-- VFM_GRANT_WRITE, PLATE_OWNER_WRITE: a partition that fits HBM and overlaps no other VF's is granted to a VF that is not enabled; one
that does not, or whose VF is enabled, is refused: the register keeps its value and `VFM_FN_CTRL0.ERR` is set. A plate takes the owner
written. No grant write, whoever makes it and whatever it holds, lets the partitions of two VFs overlap or leave HBM.
What in it is the model's own choice is said in log 24. -/
def Obligations.GrantWritesKeepPartitionsApart : Prop :=
  ((∀ (s : State) (m f : Nat) (v : Word), 1 ≤ f → f ≤ 1024 → s.check m (regBase + Reg.vfmFnPart f) = none → s.fnEn f = false →
    s.partFits f (softWrite false (s.rd (Reg.vfmFnPart f)) v [F.vfmFnPart_size, F.vfmFnPart_base]) = true →
    Gives (.vfmGrantWrite m (Reg.vfmFnPart f) v) s fun t =>
      t.part f = partRange v ∧ Kept s t ∧ RegsKept s t [Reg.vfmFnPart f]) ∧
  (∀ (s : State) (m f : Nat) (v : Word), 1 ≤ f → f ≤ 1024 → s.check m (regBase + Reg.vfmFnPart f) = none →
    partRange v ≠ s.part f →
    (s.fnEn f = true ∨
      s.partFits f (softWrite false (s.rd (Reg.vfmFnPart f)) v [F.vfmFnPart_size, F.vfmFnPart_base]) = false) →
    Gives (.vfmGrantWrite m (Reg.vfmFnPart f) v) s fun t =>
      t.rd (Reg.vfmFnPart f) = s.rd (Reg.vfmFnPart f) ∧ t.on (Reg.vfmFnCtrl 0) F.vfmFnCtrl_err = true ∧ Kept s t) ∧
  (∀ (s : State) (m p : Nat) (v : Word), p < s.grade.plates → s.check m (regBase + Reg.vfmPlateOwner p) = none → s.lost p = false →
    (fld v 10 0 ≤ 1024 ∨ fld v 10 0 = 0x7FF) → Gives (.plateOwnerWrite m p v) s fun t => t.plateOwner p = fld v 10 0)) ∧
  (∀ (s t : State) (m k : Nat) (v : Word), PartsApart s → exec (.vfmGrantWrite m k v) s = .next t → PartsApart t)

/-- FN_EN_WRITE, SCRUB, SCRUB_DONE, MTR_CLR, FUNCTION_LEVEL_RESET, FLR_COMPLETE: a VF that is not being scrubbed is enabled or disabled as
written; a scrub of a VF that is not enabled sets `SCRUB_BUSY`, and at its end every byte of the partition reads 0 and `SCRUB_BUSY` is 0,
no byte elsewhere changing while no dirty log is enabled; clearing the meters leaves every meter of the function and its shadow 0; a reset
of a VF that owns no job, group, QP, region or plate is under way, its work queues disabled, none of its translations left, its MSI-X
entries masked, its dirty logs off, and completes when what it waits for has ended, `FLR_BUSY` then reading 0.
What in it is the model's own choice is said in log 25. -/
def Obligations.FunctionsAreEnabledScrubbedAndReset : Prop :=
  ((∀ (s : State) (m f : Nat) (en : Bool), 1 ≤ f → f ≤ 1024 → s.check m (regBase + Reg.vfmFnCtrl f) = none →
    s.on (Reg.vfmFnCtrl f) F.vfmFnCtrl_scrub_busy = false → Gives (.fnEnWrite m f en) s fun t =>
      t.fnEn f = en ∧ Kept s t ∧ RegsKept s t [Reg.vfmFnCtrl f]) ∧
  (∀ (s : State) (m f : Nat), f ≤ 1024 → s.check m (regBase + Reg.vfmFnCtrl f) = none → s.fnEn f = false →
    s.on (Reg.vfmFnCtrl f) F.vfmFnCtrl_scrub_busy = false → Gives (.scrub m f) s fun t =>
      t.on (Reg.vfmFnCtrl f) F.vfmFnCtrl_scrub_busy = true ∧ Kept s t ∧ RegsKept s t [Reg.vfmFnCtrl f]) ∧
  (∀ (s : State) (f a : Nat), 1 ≤ f → f ≤ 1024 → s.on (Reg.vfmFnCtrl f) F.vfmFnCtrl_scrub_busy = true → NoDirtyLog s →
    Gives (.scrubDone f) s fun t =>
      t.on (Reg.vfmFnCtrl f) F.vfmFnCtrl_scrub_busy = false ∧
      t.byte a = (if (s.part f).1 ≤ a ∧ a < (s.part f).2 then 0 else s.byte a) ∧ t.pending = s.pending) ∧
  (∀ (s : State) (m f i : Nat), f ≤ 1024 → i < 16 → s.check m (regBase + Reg.vfmFnCtrl f) = none → Gives (.mtrClr m f) s fun t =>
      t.rd (Reg.vfmMeter f i) = 0 ∧ t.rd (Reg.vfmMeterShadow f i) = 0 ∧ Kept s t ∧
      RegsKept s t ((List.range 16).flatMap fun j => [Reg.vfmMeter f j, Reg.vfmMeterShadow f j]))) ∧
  ((∀ (s : State) (f : Nat), 1 ≤ f → f ≤ 1024 → f ∉ s.top.flr → s.prf.jobs = [] → s.col.groups = [] → s.qpe.qps = [] →
    s.qpe.regions = [] → (∀ p, p < 64 → s.plateOwner p ≠ f) → Gives (.functionLevelReset f) s fun t =>
      f ∈ t.top.flr ∧ t.on (Reg.vfmFnCtrl f) F.vfmFnCtrl_flr_busy = true ∧
      (∀ e ∈ t.wqe.wqs, e.2.owner = f → e.2.st = .disabled ∧ e.2.ents = []) ∧
      (∀ e ∈ t.xlt.cache, e.fn = f → 2 ^ 64 ≤ e.page * 2 ^ e.size) ∧
      (∀ e ∈ t.icu.msix, e.1 / 2048 = f → e.2.mask = true ∧ e.2.pend = false) ∧
      t.on (Reg.vfmDlogBase f 0) F.vfmDlogBase_en = false ∧ t.on (Reg.vfmDlogBase f 1) F.vfmDlogBase_en = false ∧ Kept s t) ∧
  (∀ (s : State) (f : Nat), f ∈ s.top.flr → s.flrDrained f = true → Gives (.flrComplete f) s fun t =>
      f ∉ t.top.flr ∧ t.on (Reg.vfmFnCtrl f) F.vfmFnCtrl_flr_busy = false))

/-- DLOG_BASE_WRITE, DLOG_HARVEST_GO, DLOG_HARVEST_DONE: a log whose two buffers lie outside every VF partition takes its base and enable,
its first buffer active when it is newly enabled; a harvest of an enabled log exchanges its buffers and sets `GO`; its end clears `GO` and
sets `DONE`.
What in it is the model's own choice is said in log 15. -/
def Obligations.DirtyLogsExchangeTheirBuffers : Prop :=
  (∀ (s : State) (m f l : Nat) (v : Word), f ≤ 1024 → l ≤ 1 → s.check m (regBase + Reg.vfmDlogBase f l) = none →
    s.outsideVfs (fld v F.vfmDlogBase_base.hi F.vfmDlogBase_base.lo * 4096) (s.dlogLen f) = true →
    s.outsideVfs (fld v F.vfmDlogBase_base.hi F.vfmDlogBase_base.lo * 4096 + cdiv (s.dlogLen f) 4096 * 4096) (s.dlogLen f) = true →
    s.on (Reg.vfmDlogBase f l) F.vfmDlogBase_en = false → fld v 63 63 = 1 → Gives (.dlogBaseWrite m f l v) s fun t =>
      t.on (Reg.vfmDlogBase f l) F.vfmDlogBase_en = true ∧
      t.dlogBuf f l = fld v F.vfmDlogBase_base.hi F.vfmDlogBase_base.lo * 4096 ∧ Kept s t ∧
      RegsKept s t [Reg.vfmDlogBase f l, Reg.vfmDlogCmd f]) ∧
  (∀ (s : State) (m f : Nat) (v : Word), f ≤ 1024 → Passes s m f (Reg.vfmDlogCmd f) →
    s.on (Reg.vfmDlogCmd f) F.vfmDlogCmd_go = false → mget s.prf.jobs f = none →
    s.on (Reg.vfmDlogBase f (fld v F.vfmDlogCmd_log.hi F.vfmDlogCmd_log.lo)) F.vfmDlogBase_en = true →
    Gives (.dlogHarvestGo m f v) s fun t =>
      t.on (Reg.vfmDlogCmd f) F.vfmDlogCmd_go = true ∧
      t.rf (Reg.vfmDlogCmd f) (activeFld (fld v F.vfmDlogCmd_log.hi F.vfmDlogCmd_log.lo)) =
        1 - s.rf (Reg.vfmDlogCmd f) (activeFld (fld v F.vfmDlogCmd_log.hi F.vfmDlogCmd_log.lo)) ∧
      Kept s t ∧ RegsKept s t [Reg.vfmDlogCmd f]) ∧
  (∀ (s : State) (f : Nat), f ≤ 1024 → s.on (Reg.vfmDlogCmd f) F.vfmDlogCmd_go = true → Gives (.dlogHarvestDone f) s fun t =>
      t.on (Reg.vfmDlogCmd f) F.vfmDlogCmd_go = false ∧ t.on (Reg.vfmDlogCmd f) F.vfmDlogCmd_done = true ∧ Kept s t ∧
      RegsKept s t [Reg.vfmDlogCmd f])

/-! ### Work queues (05_work_queues.md) -/

/-- CREATE_WQ, MODIFY_WQ, ENABLE_WQ, DISABLE_WQ, DESTROY_WQ, QUERY_WQ through a function's page, none under way: each ends with ST_OK where
its conditions hold, the queue created, changed, enabled, disabled (at once where it holds no entry), destroyed or shown, and no memory
changed; on a queue of another function each ends with ST_WQ_STATE.
What in it is the model's own choice is said in log 15, 26. -/
def Obligations.WorkQueueCommandsEndAsStated : Prop :=
  (∀ (s : State) (f w : Nat), Idle s (Reg.wqeCmd f) F.wqeCmd_go → 4 ≤ nbits (s.wqeArg f 1) 3 0 →
    ringAligned (s.wqeArg f 0 / 64 * 64) (64 * 2 ^ nbits (s.wqeArg f 1) 3 0) = true → mayName f (nbits (s.wqeArg f 1) 5 4) = true →
    nbits (s.wqeArg f 1) 10 8 ≤ 4 → nbits (s.wqeArg f 1) 18 11 ≠ 0 → nbits (s.wqeArg f 1) 25 19 ≠ 0 → nbits (s.wqeArg f 1) 25 19 ≤ 64 →
    nbits (s.wqeArg f 1) 41 26 ≠ 0 → (mget s.wqe.cqs (nbits (s.wqeArg f 1) 57 42)).map (·.owner) = some f →
    s.wqUse f < s.quota f F.vfmFnQuota_wq 16 65536 → firstFrom (fun n => (mget s.wqe.wqs n).isNone) 0 65536 = some w →
    Gives (.createWq f) s fun t =>
      (∃ q, mget t.wqe.wqs w = some q ∧ q.owner = f ∧ q.base = s.wqeArg f 0 / 64 * 64 ∧ q.st = .disabled ∧ q.ents = [] ∧
        q.phase = true ∧ q.idx = 0 ∧ q.completed = 0) ∧
      t.rf (Reg.wqeCmd f) F.wqeCmd_obj = w ∧ Ended t (Reg.wqeCmd f) F.wqeCmd_go F.wqeCmd_status 0 ∧ Kept s t ∧
      RegsKept s t [Reg.wqeCmd f]) ∧
  (∀ (s : State) (f w : Nat) (q : Wq), Idle s (Reg.wqeCmd f) F.wqeCmd_go → w < 65536 → mget s.wqe.wqs w = some q → q.owner = f →
    nbits (s.wqeArg f 1) 18 11 ≠ 0 → nbits (s.wqeArg f 1) 25 19 ≠ 0 → nbits (s.wqeArg f 1) 25 19 ≤ 64 →
    nbits (s.wqeArg f 1) 41 26 ≠ 0 → Gives (.modifyWq f w) s fun t =>
      mget t.wqe.wqs w = some { q with cls := nbits (s.wqeArg f 1) 7 6, weight := nbits (s.wqeArg f 1) 18 11,
                                       burst := nbits (s.wqeArg f 1) 25 19, interval := nbits (s.wqeArg f 1) 41 26 } ∧
      Ended t (Reg.wqeCmd f) F.wqeCmd_go F.wqeCmd_status 0 ∧ Kept s t ∧ RegsKept s t [Reg.wqeCmd f]) ∧
  (∀ (s : State) (f w : Nat) (q : Wq), Idle s (Reg.wqeCmd f) F.wqeCmd_go → w < 65536 → mget s.wqe.wqs w = some q → q.owner = f →
    (q.st = .disabled ∨ q.st = .stopped) → Gives (.enableWq f w) s fun t =>
      mget t.wqe.wqs w = some { q with st := .enabled, stopReason := 0 } ∧
      Ended t (Reg.wqeCmd f) F.wqeCmd_go F.wqeCmd_status 0 ∧ Kept s t ∧ RegsKept s t [Reg.wqeCmd f]) ∧
  (∀ (s : State) (f w : Nat) (q : Wq), Idle s (Reg.wqeCmd f) F.wqeCmd_go → w < 65536 → mget s.wqe.wqs w = some q → q.owner = f →
    (q.st = .enabled ∨ q.st = .stopped) → q.ents = [] → Gives (.disableWq f w) s fun t =>
      (∃ x, mget t.wqe.wqs w = some x ∧ x.st = .disabled ∧ x.ents = [] ∧ x.completed = q.completed ∧ x.firstFail = none) ∧
      w ∉ t.wqe.due ∧ Ended t (Reg.wqeCmd f) F.wqeCmd_go F.wqeCmd_status 0 ∧ Kept s t ∧ RegsKept s t [Reg.wqeCmd f]) ∧
  (∀ (s : State) (f w : Nat) (q : Wq), Idle s (Reg.wqeCmd f) F.wqeCmd_go → w < 65536 → s.wqe.wqs = [(w, q)] → q.owner = f →
    q.st = .disabled → Gives (.destroyWq f w) s fun t =>
      t.wqe.wqs = [] ∧ Ended t (Reg.wqeCmd f) F.wqeCmd_go F.wqeCmd_status 0 ∧ Kept s t ∧ RegsKept s t [Reg.wqeCmd f]) ∧
  (∀ (s : State) (f w : Nat) (q : Wq), Idle s (Reg.wqeCmd f) F.wqeCmd_go → w < 65536 → mget s.wqe.wqs w = some q → q.owner = f →
    Gives (.queryWq f w) s fun t =>
      t.wqeArg f 0 = q.base % 2 ^ 64 ∧ t.wqeArg f 2 = q.completed % 2 ^ 64 ∧ t.wqe = s.wqe ∧
      Ended t (Reg.wqeCmd f) F.wqeCmd_go F.wqeCmd_status 0 ∧ Kept s t ∧
      RegsKept s t [Reg.wqeCmd f, Reg.wqeArg f 0, Reg.wqeArg f 1, Reg.wqeArg f 2, Reg.wqeArg f 3]) ∧
  (∀ (s : State) (f w : Nat) (q : Wq), Idle s (Reg.wqeCmd f) F.wqeCmd_go → w < 65536 → mget s.wqe.wqs w = some q → q.owner ≠ f →
    ∀ c ∈ [Instr.modifyWq f w, .enableWq f w, .disableWq f w, .destroyWq f w, .queryWq f w], Gives c s fun t =>
      t.wqe = s.wqe ∧ Ended t (Reg.wqeCmd f) F.wqeCmd_go F.wqeCmd_status 0x25 ∧ Kept s t ∧ RegsKept s t [Reg.wqeCmd f])

/-- CREATE_CQ, DESTROY_CQ, QUERY_CQ, RESUME_CQ, CQ_HEAD_REREAD, CQ_ARM: a completion queue is created empty; one that nothing names is
destroyed; a query shows it; one in Error that holds no notice and that no work queue names goes back to Normal or Full as its count says;
a full one takes the head that its head word holds; one whose count equals the head given is armed in the mode given.
What in it is the model's own choice is said in log 15, 27. -/
def Obligations.CompletionQueueCommandsEndAsStated : Prop :=
  (∀ (s : State) (f c : Nat), Idle s (Reg.wqeCmd f) F.wqeCmd_go → 4 ≤ nbits (s.wqeArg f 1) 3 0 →
    ringAligned (s.wqeArg f 0 / 64 * 64) (32 * 2 ^ nbits (s.wqeArg f 1) 3 0) = true → mayName f (nbits (s.wqeArg f 1) 5 4) = true →
    mayName f (nbits (s.wqeArg f 1) 7 6) = true → (f ≠ 0 → nbits (s.wqeArg f 1) 18 8 < 64) →
    s.wqUse f < s.quota f F.vfmFnQuota_wq 16 65536 → firstFrom (fun n => (mget s.wqe.cqs n).isNone) 0 65536 = some c →
    Gives (.createCq f) s fun t =>
      (∃ q, mget t.wqe.cqs c = some q ∧ q.owner = f ∧ q.base = s.wqeArg f 0 / 64 * 64 ∧ q.st = .normal ∧ q.produced = 0 ∧ q.head = 0 ∧
        q.phase = true ∧ q.armed = none ∧ q.held = []) ∧
      t.rf (Reg.wqeCmd f) F.wqeCmd_obj = c ∧ Ended t (Reg.wqeCmd f) F.wqeCmd_go F.wqeCmd_status 0 ∧ Kept s t ∧
      RegsKept s t [Reg.wqeCmd f]) ∧
  (∀ (s : State) (f n : Nat) (c : Cq), Idle s (Reg.wqeCmd f) F.wqeCmd_go → n < 65536 → mget s.wqe.cqs n = some c → c.owner = f →
    c.held = [] → (∀ e ∈ s.wqe.wqs, e.2.cqn ≠ n) → (∀ e ∈ s.qpe.qps, e.2.ncqn ≠ n) → Gives (.destroyCq f n) s fun t =>
      mget t.wqe.cqs n = none ∧ Ended t (Reg.wqeCmd f) F.wqeCmd_go F.wqeCmd_status 0 ∧ Kept s t ∧ RegsKept s t [Reg.wqeCmd f]) ∧
  (∀ (s : State) (f n : Nat) (c : Cq), Idle s (Reg.wqeCmd f) F.wqeCmd_go → n < 65536 → mget s.wqe.cqs n = some c → c.owner = f →
    Gives (.queryCq f n) s fun t =>
      t.wqeArg f 0 = c.base % 2 ^ 64 ∧ t.wqeArg f 3 = (c.produced + c.head * 2 ^ 32) % 2 ^ 64 ∧ t.wqe = s.wqe ∧
      Ended t (Reg.wqeCmd f) F.wqeCmd_go F.wqeCmd_status 0 ∧ Kept s t) ∧
  (∀ (s : State) (f n : Nat) (c : Cq), Idle s (Reg.wqeCmd f) F.wqeCmd_go → n < 65536 → mget s.wqe.cqs n = some c → c.owner = f →
    c.st = .error → c.held = [] → (∀ e ∈ s.wqe.wqs, e.2.cqn ≠ n) → Gives (.resumeCq f n) s fun t =>
      mget t.wqe.cqs n = some { c with st := if c.isFull then .full else .normal } ∧
      Ended t (Reg.wqeCmd f) F.wqeCmd_go F.wqeCmd_status 0 ∧ Kept s t ∧ RegsKept s t [Reg.wqeCmd f]) ∧
  (∀ (s : State) (n : Nat) (data : List Byte) (c : Cq) (l : List (Tgt × Nat)), mget s.wqe.cqs n = some c → c.st = .full →
    c.held = [] → (∀ e ∈ s.wqe.wqs, e.2.cqn ≠ n) → s.xlRange c.owner c.headSpace .read true 1 n 2 c.headAddr 4 = (s, .ok l) →
    Gives (.cqHeadReread n 0 data) s fun t =>
      ∃ x, mget t.wqe.cqs n = some x ∧ x.head = leNat (s.fetch l data) ∧ x.produced = c.produced ∧ t.mem = s.mem) ∧
  (∀ (s : State) (f : Nat) (v : Word) (c : Cq), s.mapped (regBase + Reg.wqeCqArm f) = true → mget s.wqe.cqs (fld v 15 0) = some c →
    c.owner = f → c.st ≠ .error → c.held = [] → (∀ e ∈ s.wqe.wqs, e.2.cqn ≠ fld v 15 0) → c.produced = fld v 47 16 →
    Gives (.cqArm f v) s fun t =>
      ∃ x, mget t.wqe.cqs (fld v 15 0) = some x ∧ x.armed = some (fld v 48 48) ∧ x.head = fld v 47 16 ∧ Kept s t ∧ RegsKept s t [])

/-- A completion entry that its queue takes, in the PF's direct space: its 32 bytes, `PHASE` in bit 63 of the last word, are stored at the
write index, `PRODUCED` and the index advance, and `PHASE` inverts when the index wraps (R110, R111). -/
def Obligations.CompletionEntriesLandInRingOrder : Prop :=
  ∀ (s : State) (n : Nat) (c : Cq) (e : CqEnt), mget s.wqe.cqs n = some c → c.owner = 0 → c.space = 3 → c.st ≠ .error → c.isFull = false →
    c.armed = none → s.biased (c.base + c.widx * 32) 32 = false → NoDirtyLog s → s.cpfRuns = false →
    (s.cqWrite n e).2 = true ∧
    (∀ j, (s.cqWrite n e).1.byte j =
      if c.base + c.widx * 32 ≤ j ∧ j < c.base + c.widx * 32 + 32 then (e.toBytes c.phase).getD (j - (c.base + c.widx * 32)) 0
      else s.byte j) ∧
    ∃ d, mget (s.cqWrite n e).1.wqe.cqs n = some d ∧ d.produced = (c.produced + 1) % 2 ^ 32 ∧
      d.widx = (if c.widx + 1 = 2 ^ c.logSize then 0 else c.widx + 1) ∧
      d.phase = (if c.widx + 1 = 2 ^ c.logSize then !c.phase else c.phase)

/-- WQ_POLL_DUE, WQ_KICK, POLL_WINDOW, POLL_READ_COMPLETION, SCHEDULER_GRANT: a queue that may be polled falls due once, in order, and an
interval that finds it due counts an overrun; a window serves the one queue due that its class has slots for; a read that fails stops the
queue, and one that returns entries makes them the queue's and is followed by another; a grant goes to the one queue that is ready.
What in it is the model's own choice is said in log 7, 26. -/
def Obligations.PollingAndScheduling : Prop :=
  (∀ (s : State) (w : Nat) (q : Wq), mget s.wqe.wqs w = some q → s.wqRuns q = true → q.polling = false → q.ents.length < 64 →
    w ∉ s.wqe.due → exec (.wqPollDue w) s = .next { s with wqe.due := s.wqe.due ++ [w] }) ∧
  (∀ (s : State) (w : Nat) (q : Wq), mget s.wqe.wqs w = some q → s.wqRuns q = true → q.polling = false → q.ents.length < 64 →
    w ∈ s.wqe.due → q.cls < 4 → Gives (.wqPollDue w) s fun t =>
      t.wqe = s.wqe ∧ t.rf (Reg.wqePollStatus q.cls) F.wqePollStatus_overrun =
        satU (F.wqePollStatus_overrun.hi + 1 - F.wqePollStatus_overrun.lo) (s.rf (Reg.wqePollStatus q.cls) F.wqePollStatus_overrun + 1)) ∧
  (∀ (s : State) (f w : Nat) (q : Wq), s.mapped (regBase + Reg.wqeWqKick f) = true → w < 65536 → mget s.wqe.wqs w = some q →
    q.owner = f → s.wqRuns q = true → q.polling = false → q.ents.length < 64 → w ∉ s.wqe.due →
    exec (.wqKick f w) s = .next { s with wqe.due := s.wqe.due ++ [w] }) ∧
  (∀ (s : State) (w : Nat) (q : Wq) (l : List (Tgt × Nat)), s.wqe.due = [w] → mget s.wqe.wqs w = some q → s.wqRuns q = true →
    q.polling = false → q.ents.length < 64 → q.cls < 4 → s.classSlots q.cls ≠ 0 → linkOf l = none →
    ({ s with wqe.due := [] } : State).xlRange q.owner q.space .read true 0 w (xlFuel (64 * q.pollCount)) (q.base + 64 * q.idx)
      (64 * q.pollCount) = ({ s with wqe.due := [] }, .ok l) →
    Gives .pollWindow s fun t =>
      t.wqe.due = [] ∧ (∃ x, mget t.wqe.wqs w = some x ∧ x.polling = true ∧ x.ents = q.ents) ∧ t.mem = s.mem) ∧
  (∀ (s : State) (w : Nat) (data : List Byte) (q : Wq), mget s.wqe.wqs w = some q → q.polling = true → s.wqRuns q = true →
    Gives (.pollReadCompletion w 1 data) s fun t =>
      ∃ x, mget t.wqe.wqs w = some x ∧ x.st = .stopped ∧ x.stopReason = 2 ∧ x.polling = false ∧ t.mem = s.mem) ∧
  (∀ (s u : State) (w : Nat) (data : List Byte) (q q1 q2 : Wq) (l : List (Tgt × Nat)), mget s.wqe.wqs w = some q → q.polling = true →
    s.wqRuns q = true → q1 = { q with polling := false, pollLink := none } →
    (s.setWq w q1).xlRange q.owner q.space .read true 0 w (xlFuel (64 * q.pollCount)) (q.base + 64 * q.idx) (64 * q.pollCount) =
      (u, .ok l) →
    q2 = (s.setWq w q1).accept w q1 (entriesOf q.pollCount ((s.setWq w q1).fetch l data ++ List.replicate (64 * q.pollCount) 0)) →
    q.ents.length < q2.ents.length → q2.ents.length < 64 → (∀ e ∈ q2.ents, e.st ≠ .done) → w ∉ s.wqe.due →
    exec (.pollReadCompletion w 0 data) s =
      .next { s.setWq w q2 with wqe.due := s.wqe.due ++ [w] }) ∧
  (∀ (s : State) (k w : Nat) (q : Wq), s.wqe.wqs = [(w, q)] → s.stepReady k q = true → q.credit ≠ 0 → mget s.wqe.sched k = none →
    Gives (.schedulerGrant k) s fun t => ∃ x, mget t.wqe.wqs w = some x ∧ x.granted = 1 ∧ x.ents = q.ents ∧ Kept s t)

/-- NOP_ENTRY, WAIT, WAIT_SATISFIED, WAIT_TIMEOUT, FENCE, WRITE, READ: the one entry of a queue whose completion is suppressed is retired and
counted where it succeeds; a WAIT starts and remembers when, one whose count is reached succeeds, and one whose time is up makes the queue
flush what follows; a FENCE with nothing written behind a link succeeds at once; the granted step of an entry on an Active QP to another
node, with no packet unacknowledged before it, whose bytes translate, puts on the QP the packets that carry the step's bytes in order (a
WRITE), or one request (a READ), advances the QP's PSN by their number, uses the grant and takes one entry of the tracking table.
What in it is the model's own choice is said in log 7, 21, 26. -/
def Obligations.QueueEntriesStartSendAndRetire : Prop :=
  ((∀ (s : State) (w : Nat) (q : Wq) (e : Ent), s.nextEnt w 0 = some (q, e) → q.ents = [e] → e.flush = [] → e.note = none →
    e.suppress = true → Gives (.nopEntry w) s fun t =>
      (∃ x, mget t.wqe.wqs w = some x ∧ x.ents = [] ∧ x.completed = q.completed + 1 ∧ x.firstFail = q.firstFail) ∧ Kept s t ∧
      RegsKept s t []) ∧
  (∀ (s : State) (w : Nat) (q : Wq) (e : Ent), s.nextEnt w 8 = some (q, e) → q.ents = [e] → e.st = .fetched →
    Gives (.wait w) s fun t =>
      (∃ x, mget t.wqe.wqs w = some x ∧ x.ents = [{ e with st := .started, start := s.clk }]) ∧ Kept s t ∧ RegsKept s t []) ∧
  (∀ (s : State) (w : Nat) (q x : Wq) (e : Ent), s.nextEnt w 8 = some (q, e) → q.ents = [e] → e.st = .started → e.flush = [] →
    e.note = none → e.suppress = true → mget s.wqe.wqs (e.w 2) = some x → x.firstFail = none → e.w 1 ≤ x.completed →
    Gives (.waitSatisfied w) s fun t =>
      (∃ y, mget t.wqe.wqs w = some y ∧ y.ents = [] ∧ y.completed = q.completed + 1 ∧ y.flushing = q.flushing) ∧ Kept s t ∧
      RegsKept s t []) ∧
  (∀ (s : State) (w : Nat) (q : Wq) (e : Ent), s.nextEnt w 8 = some (q, e) → q.ents = [e] → e.st = .started → e.notice ≠ 0 →
    e.start + e.notice * 1000 ≤ s.clk → e.flush = [] → e.note = none → mget s.wqe.cqs q.cqn = none →
    Gives (.waitTimeout w) s fun t =>
      (∃ y, mget t.wqe.wqs w = some y ∧ y.flushing = true ∧ (y.ents.map fun e => (e.st, e.status)) = [(.done, 0x0A)]) ∧ Kept s t ∧
      RegsKept s t []) ∧
  (∀ (s : State) (w : Nat) (q : Wq) (e : Ent), s.nextEnt w 9 = some (q, e) → q.ents = [e] → e.st = .fetched → e.flush = [] →
    e.note = none → e.suppress = true → (∀ d ∈ s.hif.dests, d.wqn ≠ w) → Gives (.fence w) s fun t =>
      (∃ x, mget t.wqe.wqs w = some x ∧ x.ents = [] ∧ x.completed = q.completed + 1) ∧ Kept s t ∧ RegsKept s t [])) ∧
  ((∀ (s : State) (w : Nat) (ext : List Byte) (q : Wq) (e : Ent) (p : Qp) (l : List (Tgt × Nat)), s.nextEnt w 1 = some (q, e) →
    s.qpGate w q e = none → mget s.qpe.qps e.qpn = some p → p.st = .active → q.granted ≠ 0 → e.stepRange.2 ≠ 0 →
    s.stepKeyBad q e e.stepRange.1 e.stepRange.2 false = false → s.noRoute p = false → p.rnode ≠ s.node → p.una = [] →
    e.noticeEn = false →
    s.xlRange q.owner e.lspace .read false 0 w (xlFuel e.stepRange.2) (e.w 1 + e.stepRange.1) e.stepRange.2 = (s, .ok l) →
    Gives (.write w ext) s fun t =>
      ∃ x y ps, mget t.qpe.qps e.qpn = some x ∧ mget t.wqe.wqs w = some y ∧ y.granted = 0 ∧
        ps = dataPkts (s.qpPkt e.qpn (s.startTimer p) 1 0) (s.maxPay p) e.rkey (decide (e.len ≤ e.stepRange.1 + e.stepRange.2)) 64 p.psn
          (e.w 2 + e.stepRange.1) (s.fetch l ext) ∧
        x.txq = p.txq ++ ps ∧ x.psn = (p.psn + ps.length) % 2 ^ 24 ∧ t.qpe.trk.length = s.qpe.trk.length + 1 ∧ t.mem = s.mem) ∧
  (∀ (s : State) (w : Nat) (ext : List Byte) (q : Wq) (e : Ent) (p : Qp) (l : List (Tgt × Nat)), s.nextEnt w 2 = some (q, e) →
    s.qpGate w q e = none → mget s.qpe.qps e.qpn = some p → p.st = .active → q.granted ≠ 0 → e.stepRange.2 ≠ 0 →
    s.stepKeyBad q e e.stepRange.1 e.stepRange.2 true = false → s.noRoute p = false → p.rnode ≠ s.node →
    s.xlRange q.owner e.lspace .write false 0 w (xlFuel e.stepRange.2) (e.w 1 + e.stepRange.1) e.stepRange.2 = (s, .ok l) →
    Gives (.read w ext) s fun t =>
      ∃ x y k, mget t.qpe.qps e.qpn = some x ∧ mget t.wqe.wqs w = some y ∧ y.granted = 0 ∧ k.type = 3 ∧ k.argA = e.rkey ∧
        k.argB = (e.w 2 + e.stepRange.1) % 2 ^ 48 + (e.stepRange.2 - 1) * 2 ^ 48 ∧ x.txq = p.txq ++ [k] ∧
        x.psn = (p.psn + 1) % 2 ^ 24 ∧ t.qpe.trk.length = s.qpe.trk.length + 1 ∧ t.mem = s.mem))

/-! ### Queue pairs and regions (06_remote_memory.md) -/

/-- CREATE_QP, MODIFY_QP, ARM_QP, RESET_QP, DESTROY_QP, QUERY_QP, QP_DRAIN_END, QP_RETIRE_EXPIRY: a queue pair of the function's range is
created Idle; changed; armed, with one connect packet that carries the initial PSN it chose, the command under way; taken to Error by a
reset or a destroy, under way until the drain ends, then Idle, or Retired for one second; shown; and free when the second is over. A
command on a queue pair of another function ends with ST_QPE_STATE.
What in it is the model's own choice is said in log 15, 29. -/
def Obligations.QueuePairCommandsEndAsStated : Prop :=
  (∀ (s : State) (f obj : Nat), f ≤ 1024 → Idle s (Reg.qpeCmd f) F.qpeCmd_go → nbits (s.qpeArg f 0) 17 16 ≠ 3 →
    s.ownsQpn f (obj % 2 ^ 18) = true → mget s.qpe.qps (obj % 2 ^ 18) = none →
    (mget s.wqe.cqs (nbits (s.qpeArg f 0) 15 0)).map (·.owner) = some f → Gives (.createQp f obj) s fun t =>
      (∃ q, mget t.qpe.qps (obj % 2 ^ 18) = some q ∧ q.owner = f ∧ q.st = .idle ∧ q.ncqn = nbits (s.qpeArg f 0) 15 0 ∧
        q.transport = nbits (s.qpeArg f 0) 17 16 ∧ q.tc = nbits (s.qpeArg f 0) 20 18 ∧ q.maxOut = nbits (s.qpeArg f 0) 47 38 ∧
        q.una = [] ∧ q.rx = [] ∧ q.cmd = none) ∧
      Ended t (Reg.qpeCmd f) F.qpeCmd_go F.qpeCmd_status 0 ∧ Kept s t ∧ RegsKept s t [Reg.qpeCmd f]) ∧
  (∀ (s : State) (f n : Nat) (q : Qp), f ≤ 1024 → n < 2 ^ 18 → Idle s (Reg.qpeCmd f) F.qpeCmd_go → mget s.qpe.qps n = some q →
    q.owner = f → q.st ≠ .retired → q.st ≠ .idle → nbits (s.qpeArg f 0) 17 16 ≠ 3 →
    (mget s.wqe.cqs (nbits (s.qpeArg f 0) 15 0)).map (·.owner) = some f → Gives (.modifyQp f n) s fun t =>
      mget t.qpe.qps n = some { q with ncqn := nbits (s.qpeArg f 0) 15 0, tc := nbits (s.qpeArg f 0) 20 18,
                                       maxOut := nbits (s.qpeArg f 0) 47 38 } ∧
      Ended t (Reg.qpeCmd f) F.qpeCmd_go F.qpeCmd_status 0 ∧ Kept s t ∧ RegsKept s t [Reg.qpeCmd f]) ∧
  (∀ (s : State) (f n : Nat) (q : Qp), f ≤ 1024 → n < 2 ^ 18 → Idle s (Reg.qpeCmd f) F.qpeCmd_go → mget s.qpe.qps n = some q →
    q.owner = f → q.st = .idle → q.transport = 0 → Gives (.armQp f n) s fun t =>
      (∃ x c, mget t.qpe.qps n = some x ∧ x.st = .armed ∧ x.cmd = some .arm ∧ x.rnode = nbits (s.qpeArg f 1) 15 0 ∧
        x.rqpn = nbits (s.qpeArg f 1) 33 16 ∧ x.ctl = [c] ∧ c.type = 8 ∧ c.argA = x.psn ∧ x.psn < 2 ^ 24 ∧ x.ipsn = x.psn ∧
        (x.una.map fun u => (u.kind, u.psn)) = [(.connect, 0)]) ∧
      t.on (Reg.qpeCmd f) F.qpeCmd_go = true ∧ Kept s t ∧ RegsKept s t [Reg.qpeCmd f]) ∧
  (∀ (s : State) (f n : Nat) (q : Qp), f ≤ 1024 → n < 2 ^ 18 → Idle s (Reg.qpeCmd f) F.qpeCmd_go → mget s.qpe.qps n = some q →
    q.owner = f → q.st = .idle → q.transport ≠ 0 → s.bindPort q.transport = none → Gives (.armQp f n) s fun t =>
      t.qpe = s.qpe ∧ Ended t (Reg.qpeCmd f) F.qpeCmd_go F.qpeCmd_status 0x40 ∧ Kept s t ∧ RegsKept s t [Reg.qpeCmd f]) ∧
  (∀ (s : State) (f n : Nat) (q : Qp), f ≤ 1024 → n < 2 ^ 18 → Idle s (Reg.qpeCmd f) F.qpeCmd_go → mget s.qpe.qps n = some q →
    q.owner = f → q.cmd = none → (q.st = .active ∨ q.st = .error) → s.qpEnts n = [] →
    ∀ c ∈ [(Instr.resetQp f n, QpCmd.reset), (.destroyQp f n, .destroy)], Gives c.1 s fun t =>
      (∃ x, mget t.qpe.qps n = some x ∧ x.st = .error ∧ x.cmd = some c.2 ∧ x.una = [] ∧ x.txq = [] ∧ x.ctl = [] ∧ x.rx = q.rx) ∧
      t.on (Reg.qpeCmd f) F.qpeCmd_go = true ∧ Kept s t ∧ RegsKept s t [Reg.qpeCmd f]) ∧
  (∀ (s : State) (n : Nat) (q : Qp), mget s.qpe.qps n = some q → s.hif.flushes = [] → q.rx = [] →
    (q.cmd = some .reset → Gives (.qpDrainEnd n) s fun t =>
      mget t.qpe.qps n = some q.idle ∧ Ended t (Reg.qpeCmd q.owner) F.qpeCmd_go F.qpeCmd_status 0 ∧ Kept s t ∧
      RegsKept s t [Reg.qpeCmd q.owner]) ∧
    (q.cmd = some .destroy → Gives (.qpDrainEnd n) s fun t =>
      (∃ x, mget t.qpe.qps n = some x ∧ x.st = .retired ∧ x.retireAt = some (s.clk + 1000000000)) ∧
      Ended t (Reg.qpeCmd q.owner) F.qpeCmd_go F.qpeCmd_status 0 ∧ Kept s t ∧ RegsKept s t [Reg.qpeCmd q.owner])) ∧
  (∀ (s : State) (f n : Nat) (q : Qp), f ≤ 1024 → n < 2 ^ 18 → Idle s (Reg.qpeCmd f) F.qpeCmd_go → mget s.qpe.qps n = some q →
    q.owner = f → Gives (.queryQp f n) s fun t =>
      t.qpeArg f 0 = (q.ncqn + q.transport * 2 ^ 16 + q.tc * 2 ^ 18 + b2n q.saEn * 2 ^ 21 + q.sa * 2 ^ 22 + q.maxOut * 2 ^ 38) % 2 ^ 64 ∧
      t.qpeArg f 1 = (q.rnode + q.rqpn * 2 ^ 16 + q.peerInc * 2 ^ 34 + q.st.code * 2 ^ 50 + q.lastStatus * 2 ^ 53) % 2 ^ 64 ∧
      t.qpe = s.qpe ∧ Ended t (Reg.qpeCmd f) F.qpeCmd_go F.qpeCmd_status 0 ∧ Kept s t ∧
      RegsKept s t [Reg.qpeCmd f, Reg.qpeArg f 0, Reg.qpeArg f 1, Reg.qpeArg f 2, Reg.qpeArg f 3]) ∧
  (∀ (s : State) (n r : Nat) (q : Qp), mget s.qpe.qps n = some q → q.st = .retired → q.retireAt = some r →
    (r ≤ s.clk → exec (.qpRetireExpiry n) s = .next { s with qpe.qps := mdel s.qpe.qps n }) ∧
    (s.clk < r → exec (.qpRetireExpiry n) s = .next s)) ∧
  (∀ (s : State) (f n : Nat) (q : Qp), f ≤ 1024 → n < 2 ^ 18 → Idle s (Reg.qpeCmd f) F.qpeCmd_go → mget s.qpe.qps n = some q →
    q.owner ≠ f → ∀ c ∈ [Instr.modifyQp f n, .armQp f n, .resetQp f n, .destroyQp f n, .queryQp f n], Gives c s fun t =>
      t.qpe = s.qpe ∧ Ended t (Reg.qpeCmd f) F.qpeCmd_go F.qpeCmd_status 0x30 ∧ Kept s t ∧ RegsKept s t [Reg.qpeCmd f])

/-- REGISTER, DEREGISTER, QUERY_REGION, REVOKE, REVOKE_DRAIN_END, REFUSAL_AGGREGATION_END: a registration outside space 2 takes the free
index, raises its generation and returns the key; a bad one ends with ST_QPE_REGION; a deregistration or a revoke raises the generation at
once and waits for the region's accesses; the end of the drain frees the index of a deregistration and sets `DONE` of a revoke; the window
of a refused key ends in one event that carries its count.
What in it is the model's own choice is said in log 28. -/
def Obligations.RegionCommandsEndAsStated : Prop :=
  (∀ (s : State) (f i : Nat), f ≤ 1024 → Idle s (Reg.qpeCmd f) F.qpeCmd_go → s.regBad f = false →
    s.regionUse f < s.quota f F.vfmFnQuota_reg 4096 (2 ^ 24) → s.freeIndex = some i → i < 2 ^ 24 →
    (s.argRegion f 0 0 0 0).space ≠ 2 → Gives (.register f) s fun t =>
      (∃ g, g = (((mget s.qpe.regions i).map (·.gen)).getD 0 + 1) % 256 ∧
        mget t.qpe.regions i = some (s.argRegion f g 0 0 0) ∧ t.qpeArg f 3 = i * 256 + g) ∧
      t.rf (Reg.qpeCmd f) F.qpeCmd_obj = i ∧ (∀ j, j ≠ i → mget t.qpe.regions j = mget s.qpe.regions j) ∧
      Ended t (Reg.qpeCmd f) F.qpeCmd_go F.qpeCmd_status 0 ∧ Kept s t ∧ RegsKept s t [Reg.qpeCmd f, Reg.qpeArg f 3]) ∧
  (∀ (s : State) (f : Nat), f ≤ 1024 → Idle s (Reg.qpeCmd f) F.qpeCmd_go → s.regBad f = true → Gives (.register f) s fun t =>
      t.qpe = s.qpe ∧ Ended t (Reg.qpeCmd f) F.qpeCmd_go F.qpeCmd_status 0x32 ∧ Kept s t ∧ RegsKept s t [Reg.qpeCmd f]) ∧
  (∀ (s : State) (f i : Nat) (r : Region), f ≤ 1024 → i < 2 ^ 24 → Idle s (Reg.qpeCmd f) F.qpeCmd_go → s.ownRegion f i = some r →
    r.revoking = none → Gives (.deregister f i) s fun t =>
      mget t.qpe.regions i = some { r with gen := (r.gen + 1) % 256, revoking := some true } ∧
      t.on (Reg.qpeCmd f) F.qpeCmd_go = true ∧ Kept s t ∧ RegsKept s t [Reg.qpeCmd f]) ∧
  (∀ (s : State) (f i : Nat) (r : Region), f ≤ 1024 → i < 2 ^ 24 → Idle s (Reg.qpeCmd f) F.qpeCmd_go → s.ownRegion f i = some r →
    Gives (.queryRegion f i) s fun t =>
      t.qpeArg f 0 = r.base % 2 ^ 64 ∧
      t.qpeArg f 3 = (i * 256 + r.gen + r.inflight % 2 ^ 20 * 2 ^ 32 + b2n r.revoking.isSome * 2 ^ 52) % 2 ^ 64 ∧ t.qpe = s.qpe ∧
      Ended t (Reg.qpeCmd f) F.qpeCmd_go F.qpeCmd_status 0 ∧ Kept s t) ∧
  (∀ (s : State) (f i : Nat), f ≤ 1024 → i < 2 ^ 24 → Idle s (Reg.qpeCmd f) F.qpeCmd_go → s.ownRegion f i = none →
    ∀ c ∈ [Instr.deregister f i, .queryRegion f i], Gives c s fun t =>
      t.qpe = s.qpe ∧ Ended t (Reg.qpeCmd f) F.qpeCmd_go F.qpeCmd_status 0x30 ∧ Kept s t ∧ RegsKept s t [Reg.qpeCmd f]) ∧
  (∀ (s : State) (f : Nat) (v : Word) (r : Region), f ≤ 1024 → Idle s (Reg.qpeRevoke f) F.qpeRevoke_go →
    s.ownRegion f (fld v 23 0) = some r → r.revoking = none → Gives (.revoke f v) s fun t =>
      mget t.qpe.regions (fld v 23 0) = some { r with gen := (r.gen + 1) % 256, revoking := some false } ∧
      t.on (Reg.qpeRevoke f) F.qpeRevoke_go = true ∧ t.rf (Reg.qpeRevoke f) F.qpeRevoke_gen = (r.gen + 1) % 256 ∧
      t.rf (Reg.qpeRevoke f) F.qpeRevoke_status = 0 ∧ Kept s t ∧ RegsKept s t [Reg.qpeRevoke f]) ∧
  (∀ (s : State) (i : Nat) (r : Region), mget s.qpe.regions i = some r → r.inflight = 0 → r.revoking = some true → r.use = .app →
    s.on (Reg.qpeCmd r.lastOwner) F.qpeCmd_go = true → s.rf (Reg.qpeCmd r.lastOwner) F.qpeCmd_cmd = 9 →
    Gives (.revokeDrainEnd i) s fun t =>
      (∃ x, mget t.qpe.regions i = some x ∧ x.owner = none ∧ x.revoking = none ∧ x.gen = r.gen) ∧ t.qpe.freed = s.qpe.freed ++ [i] ∧
      Ended t (Reg.qpeCmd r.lastOwner) F.qpeCmd_go F.qpeCmd_status 0 ∧ Kept s t ∧ RegsKept s t [Reg.qpeCmd r.lastOwner]) ∧
  (∀ (s : State) (i : Nat) (r : Region), mget s.qpe.regions i = some r → r.inflight = 0 → r.revoking = some false →
    mget s.qpe.dereg r.lastOwner ≠ some i → Gives (.revokeDrainEnd i) s fun t =>
      mget t.qpe.regions i = some { r with revoking := none } ∧ t.on (Reg.qpeRevoke r.lastOwner) F.qpeRevoke_done = true ∧
      t.on (Reg.qpeRevoke r.lastOwner) F.qpeRevoke_go = false ∧ Kept s t ∧ RegsKept s t [Reg.qpeRevoke r.lastOwner]) ∧
  (∀ (s : State) (i : Nat) (r : Region), mget s.qpe.regions i = some r → r.inflight ≠ 0 → exec (.revokeDrainEnd i) s = .next s) ∧
  (∀ (s : State) (i : Nat) (a : Agg), s.mon.aggs[i]? = some a → a.kind = .revokedWrite → a.start + 1000000 ≤ s.clk → s.pd 94 = 2 →
    s.mon.evQ.length < 512 → Gives (.refusalAggregationEnd i) s fun t =>
      t.mon.aggs = s.mon.aggs.eraseIdx i ∧
      (∃ e, t.mon.evQ = s.mon.evQ ++ [e] ∧ e.cls = .warning ∧ e.code = 0x501 ∧ e.count = a.count ∧ e.fn = a.fn ∧ e.inst = a.inst ∧
        e.arg0 = a.arg0 ∧ e.time = s.time) ∧ Kept s t ∧ RegsKept s t [])

/-! ### Packets that arrive (06_remote_memory.md, 07_transport.md) -/

/-- A packet of type k that the first three checks of an arriving packet let through to an Active QP that works in the clear. -/
def Sys2Proof.Machine.Arrives (s : State) (p : Packet) (q : Qp) (k : Nat) : Prop :=
  s.packetDrop p = none ∧ p.type = k ∧ p.enc = false ∧ mget s.qpe.qps p.dstQpn = some q ∧ q.saEn = false ∧ q.st = .active ∧
    q.rnode = p.srcNode ∧ q.rqpn = p.srcQpn ∧ p.dstInc = s.inc ∧ p.srcInc = q.peerInc ∧ q.owner ≤ 1024 ∧
    s.on (Reg.timPolFn q.owner) F.timShpFn_en = false

/-- The next packet of a QP that has nothing recorded, and whose ACK need not leave yet. -/
def Sys2Proof.Machine.InOrder (s : State) (p : Packet) (q : Qp) : Prop :=
  p.psn < 2 ^ 24 ∧ p.psn = q.epsn ∧ q.lastCum = q.epsn ∧ q.rx = [] ∧ p.areq = false ∧ q.ackDue + 1 < s.rf Reg.umtCfg F.umtCfg_ack_coal

/-- DATA_RECEIVED, NOTICE_RECEIVED, READ_REQ_RECEIVED, WRITE_VISIBLE, ACK_DELAY_EXPIRY: the next packet of an Active QP, received over
Amholt, is recorded and EPSN moves past it; data whose key is good is stored at the address of its region, and data whose key names no
region is recorded as refused, memory left alone, and an ACK says so at once; a notice is written to the QP's completion queue; a read
request within one page is answered with the bytes of memory; data that becomes visible releases its region and, at the end of a WRITE, is
acknowledged; an ACK that has waited its delay leaves.
What in it is the model's own choice is said in log 29. -/
def Obligations.ArrivingPacketsTakeEffect : Prop :=
  (∀ (s : State) (p : Packet) (rx : RxMeta) (ext : List Byte) (q : Qp) (a : Nat), Arrives s p q 1 → InOrder s p q → rx.eth = none →
    NoDirtyLog s → Quiet s → s.biased a p.plen = false →
    (s.setQp p.dstQpn q).remoteCheck p.dstQpn q p p.argA (nbits p.argB 47 0) p.plen true =
      (s.setQp p.dstQpn q, .ok [(.dpa a, p.plen)]) → Gives (.dataReceived p rx ext) s fun t =>
      (∀ j, t.byte j = if a ≤ j ∧ j < a + p.plen then p.payload.getD (j - a) 0 else s.byte j) ∧
      (∃ x, mget t.qpe.qps p.dstQpn = some x ∧ x.epsn = (p.psn + 1) % 2 ^ 24 ∧ x.ackDue = q.ackDue + 1 ∧ x.ctl = q.ctl ∧
        (x.rx.map fun r => (r.psn, r.refused, r.visible)) = [(p.psn, 0, false)]) ∧ t.pending = s.pending) ∧
  (∀ (s : State) (p : Packet) (rx : RxMeta) (ext : List Byte) (q : Qp), Arrives s p q 1 → InOrder s p q → rx.eth = none →
    mget s.qpe.regions (p.argA / 256) = none → Gives (.dataReceived p rx ext) s fun t =>
      (∃ x k, mget t.qpe.qps p.dstQpn = some x ∧ x.epsn = (p.psn + 1) % 2 ^ 24 ∧ x.ackDue = 0 ∧
        x.ctl = (q.ctl.filter fun y => y.type ≠ 5) ++ [k] ∧ k.type = 5 ∧ k.psn = (p.psn + 1) % 2 ^ 24 ∧ k.argA = 5 * 2 ^ 24 + p.psn) ∧
      Kept s t ∧ RegsKept s t []) ∧
  (∀ (s : State) (p : Packet) (rx : RxMeta) (ext : List Byte) (q : Qp) (c : Cq), Arrives s p q 2 → InOrder s p q → rx.eth = none →
    s.engineQp p.dstQpn = false → mget s.wqe.cqs q.ncqn = some c → c.owner = 0 → c.space = 3 → c.st = .normal → c.held = [] →
    c.isFull = false → c.armed = none → s.biased (c.base + c.widx * 32) 32 = false → NoDirtyLog s → Quiet s →
    Gives (.noticeReceived p rx ext) s fun t =>
      (∃ d, mget t.wqe.cqs q.ncqn = some d ∧ d.produced = (c.produced + 1) % 2 ^ 32) ∧
      (∃ x, mget t.qpe.qps p.dstQpn = some x ∧ x.epsn = (p.psn + 1) % 2 ^ 24 ∧
        (x.rx.map fun r => (r.psn, r.refused, r.delivered)) = [(p.psn, 0, true)]) ∧
      (∀ j, ¬ (c.base + c.widx * 32 ≤ j ∧ j < c.base + c.widx * 32 + 32) → t.byte j = s.byte j) ∧ t.pending = s.pending) ∧
  (∀ (s : State) (p : Packet) (rx : RxMeta) (ext : List Byte) (q : Qp) (g : Region), Arrives s p q 3 → InOrder s p q → rx.eth = none →
    q.owner = 0 → mget s.qpe.regions (p.argA / 256) = some g → g.owner = some 0 → g.lastOwner = 0 → g.gen = p.argA % 256 →
    g.remoteR = true → g.stage = none → g.space = 3 → nbits p.argB 47 0 + readLen p ≤ g.len →
    (g.base + nbits p.argB 47 0) % pageSize + readLen p ≤ pageSize →
    s.biased (g.base + nbits p.argB 47 0) (readLen p) = false → s.cpfRuns = false → p.piece = 0 → Gives (.readReqReceived p rx ext) s fun t =>
      (∃ x k, mget t.qpe.qps p.dstQpn = some x ∧ x.epsn = (p.psn + 1) % 2 ^ 24 ∧ k.type = 4 ∧ k.psn = p.psn ∧ k.tc = p.tc ∧
        k.dstNode = q.rnode ∧ x.ctl = q.ctl ++ respPkts k 4096 64 0 (s.bytes (g.base + nbits p.argB 47 0) (readLen p)) ∧
        (x.rx.map fun r => (r.psn, r.delivered)) = [(p.psn, true)]) ∧
      (mget t.qpe.regions (p.argA / 256)).map (·.inflight) = some g.inflight ∧ Kept s t) ∧
  (∀ (s : State) (n : Nat) (ext : List Byte) (q : Qp) (r : RxRec) (i : Nat), mget s.qpe.qps n = some q → q.rx = [r] →
    r.kind = .data → r.last = true → r.visible = false → r.refused = 0 → r.reg = some i → r.delivered = true → r.psn < 2 ^ 24 →
    q.epsn = (r.psn + 1) % 2 ^ 24 → s.hif.dests = [] → s.hif.flushes = [] → Gives (.writeVisible n r.psn ext) s fun t =>
      (∃ x k, mget t.qpe.qps n = some x ∧ (x.rx.map (·.visible)) = [true] ∧ x.ctl = (q.ctl.filter fun y => y.type ≠ 5) ++ [k] ∧
        k.type = 5 ∧ k.psn = q.epsn ∧ x.lastCum = q.epsn) ∧
      (mget t.qpe.regions i).map (·.inflight) = (mget s.qpe.regions i).map (fun g => g.inflight - 1) ∧ Kept s t ∧ RegsKept s t []) ∧
  (∀ (s : State) (n a : Nat) (q : Qp), mget s.qpe.qps n = some q → q.ackSince = some a →
    (a + max 1 (s.rf Reg.umtCfg F.umtCfg_ack_delay) * 16 ≤ s.clk → Gives (.ackDelayExpiry n) s fun t =>
      (∃ x k, mget t.qpe.qps n = some x ∧ x.ctl = (q.ctl.filter fun y => y.type ≠ 5) ++ [k] ∧ k.type = 5 ∧ k.psn = q.ackPoint ∧
        x.ackDue = 0 ∧ x.ackSince = none) ∧ Kept s t ∧ RegsKept s t []) ∧
    (s.clk < a + max 1 (s.rf Reg.umtCfg F.umtCfg_ack_delay) * 16 → exec (.ackDelayExpiry n) s = .next s))

/-- ACK_RECEIVED, READ_RESP_RECEIVED, CONNECT_RECEIVED, ACCEPT_RECEIVED, REJECT_RECEIVED, ABORT_RECEIVED, RETRANSMIT_TIMEOUT: an ACK of the
one packet outstanding takes it out and, with no refusal, counts its bytes for its entry and ends its transaction; the one piece of a
READ's answer is stored where the entry says, counted, and ends the transaction; an Armed QP that gets its peer's connect or accept becomes
Active with the peer's incarnation and initial PSN, its ARM_QP completes, and a connect is answered with an accept; a reject changes
nothing; an abort moves the QP to Error with its status; an expiry sends what is not acknowledged again and counts, and after the seventh
moves the QP to Error.
What in it is the model's own choice is said in log 29. -/
def Obligations.AnswersAndConnectionsEndAsStated : Prop :=
  ((∀ (s : State) (p : Packet) (rx : RxMeta) (q : Qp) (u : Sent) (e : Ent) (wq : Wq) (k : Trk), Arrives s p q 5 → nbits p.argA 31 24 = 0 →
    q.transport = 0 → q.una = [u] → q.reads = [] → q.txq = [] → u.kind = .data → u.psn < 2 ^ 24 → p.psn = (u.psn + 1) % 2 ^ 24 →
    q.psn = p.psn → mget s.wqe.wqs u.wqn = some wq → wq.ents = [e] → e.slot = u.slot → e.st ≠ .done → e.allSent = false →
    s.qpe.trk = [k] → k.wqn = u.wqn → k.slot = u.slot → k.step = u.step → s.col.groups = [] → s.prf.jobs = [] →
    Gives (.ackReceived p rx) s fun t =>
      (∃ x, mget t.qpe.qps p.dstQpn = some x ∧ x.una = [] ∧ x.retry = 0 ∧ x.timerAt = s.clk) ∧
      (∃ y, mget t.wqe.wqs u.wqn = some y ∧ y.ents = [{ e with bytes := e.bytes + u.pkt.plen, open_ := e.open_ - 1 }]) ∧
      t.qpe.trk = [] ∧ Kept s t ∧ RegsKept s t []) ∧
  (∀ (s : State) (p : Packet) (rx : RxMeta) (q : Qp) (r : RSeg) (e : Ent) (wq : Wq) (k : Trk) (a : Nat), Arrives s p q 4 →
    nbits p.argA 5 0 = 0 → q.una = [] → q.reads = [r] → r.psn = p.psn → r.got = [] → 0 < r.len → r.len ≤ r.piece → p.plen = r.len →
    mget s.wqe.wqs r.wqn = some wq → wq.ents = [e] → e.slot = r.slot → e.st ≠ .done → e.allSent = false →
    s.qpe.trk = [k] → k.wqn = r.wqn → k.slot = r.slot → k.step = r.step →
    s.xlRange q.owner e.lspace .write false 0 r.wqn (xlFuel p.plen) (e.w 1 + r.off) p.plen = (s, .ok [(.dpa a, p.plen)]) →
    s.biased a p.plen = false → NoDirtyLog s → Quiet s → Gives (.readRespReceived p rx) s fun t =>
      (∀ j, t.byte j = if a ≤ j ∧ j < a + p.plen then p.payload.getD (j - a) 0 else s.byte j) ∧
      (∃ x, mget t.qpe.qps p.dstQpn = some x ∧ x.reads = []) ∧
      (∃ y, mget t.wqe.wqs r.wqn = some y ∧ y.ents = [{ e with bytes := e.bytes + p.plen, open_ := e.open_ - 1 }]) ∧
      t.qpe.trk = [] ∧ t.pending = s.pending)) ∧
  ((∀ (s : State) (p : Packet) (rx : RxMeta) (q : Qp), s.packetDrop p = none → p.enc = false → mget s.qpe.qps p.dstQpn = some q →
    q.saEn = false → q.st = .armed → q.cmd = some .arm → q.transport = 0 → q.rnode = p.srcNode → q.rqpn = p.srcQpn →
    (p.type = 8 → Gives (.connectReceived p rx) s fun t =>
      (∃ x k, mget t.qpe.qps p.dstQpn = some x ∧ x.st = .active ∧ x.cmd = none ∧ x.peerInc = p.srcInc ∧ x.epsn = nbits p.argA 23 0 ∧
        x.una = [] ∧ x.ctl = (q.ctl.filter fun y => y.type ≠ 8) ++ [k] ∧ k.type = 9 ∧ k.argA = q.ipsn) ∧
      Ended t (Reg.qpeCmd q.owner) F.qpeCmd_go F.qpeCmd_status 0 ∧ Kept s t ∧ RegsKept s t [Reg.qpeCmd q.owner]) ∧
    (p.type = 9 → p.dstInc = s.inc → Gives (.acceptReceived p rx) s fun t =>
      (∃ x, mget t.qpe.qps p.dstQpn = some x ∧ x.st = .active ∧ x.peerInc = p.srcInc ∧ x.epsn = nbits p.argA 23 0 ∧ x.una = [] ∧
        x.ctl = q.ctl.filter fun y => y.type ≠ 8) ∧
      Ended t (Reg.qpeCmd q.owner) F.qpeCmd_go F.qpeCmd_status 0 ∧ Kept s t ∧ RegsKept s t [Reg.qpeCmd q.owner]) ∧
    (p.type = 10 → p.dstInc = s.inc → exec (.rejectReceived p rx) s = .next s) ∧
    (p.type = 10 → p.dstInc ≠ s.inc → exec (.rejectReceived p rx) s = .next (s.umtDrop 5))) ∧
  (∀ (s : State) (p : Packet) (rx : RxMeta) (q : Qp), Arrives s p q 11 → s.qpEnts p.dstQpn = [] → s.col.groups = [] → s.prf.jobs = [] →
    q.cmd = none → s.pd 94 = 2 → s.mon.evQ.length < 512 → Gives (.abortReceived p rx) s fun t =>
      (∃ x k, mget t.qpe.qps p.dstQpn = some x ∧ x.st = .error ∧ x.lastStatus = nbits p.argA 7 0 ∧ x.una = [] ∧ x.reads = [] ∧
        x.ctl = q.ctl ++ [k] ∧ k.type = 11 ∧ k.argA = nbits p.argA 7 0) ∧
      (∃ e, t.mon.evQ = s.mon.evQ ++ [e] ∧ e.cls = .warning ∧ e.code = 0x504 ∧ e.fn = q.owner) ∧ Kept s t ∧ RegsKept s t []) ∧
  (∀ (s : State) (n : Nat) (q : Qp) (u : Sent), mget s.qpe.qps n = some q → q.st = .active → q.transport = 0 → q.una = [u] →
    q.reads = [] → q.txq = [] → u.kind = .data → u.released = true → u.sacked = false → q.timerAt + s.rto q ≤ s.clk → q.retry < 7 →
    Gives (.retransmitTimeout n) s fun t =>
      (∃ x, mget t.qpe.qps n = some x ∧ x.txq = [{ u.pkt with retx := true }] ∧ x.retry = q.retry + 1 ∧ x.timerAt = s.clk ∧
        x.expE = min (min 18 (s.rf Reg.umtCfg F.umtCfg_rto_max_e)) (q.expE + 1) ∧ x.una = q.una ∧ x.st = .active) ∧
      Kept s t ∧ RegsKept s t []) ∧
  (∀ (s : State) (n : Nat) (q : Qp) (u : Sent), mget s.qpe.qps n = some q → q.st = .active → q.una = [u] → q.reads = [] →
    0x10000 ≤ u.wqn → q.timerAt + s.rto q ≤ s.clk → 7 ≤ q.retry → q.cmd = none → s.qpEnts n = [] → s.col.groups = [] →
    s.prf.jobs = [] → s.pd 94 = 2 → s.mon.evQ.length < 512 → Gives (.retransmitTimeout n) s fun t =>
      (∃ x, mget t.qpe.qps n = some x ∧ x.st = .error ∧ x.lastStatus = 7 ∧ x.una = []) ∧ Kept s t ∧ RegsKept s t []))

/-- FRAME_RELEASE, UMT_PORT_EN_CLEAR, CC_EVENT_RUN, CC_HANDLER_ABANDON, CC_SWAP: the next packet of a QP that works in the clear leaves
for the fabric with the injection state and a fresh checksum when no bucket holds it back; a port that is disabled loses its QPs to
another; the default program starts a QP at its line rate and lowers it at a timeout; an abandoned handler leaves the QP's limits and is
counted; a bank whose digest is right takes over.
What in it is the model's own choice is said in log 30, 31, 37. -/
def Obligations.FramesLeaveAndCongestionIsControlled : Prop :=
  (∀ (s : State) (n : Nat) (chk : CipChk) (q : Qp) (k : Packet), mget s.qpe.qps n = some q → q.transport = 0 → q.saEn = false →
    q.ctl = [] → q.txq = [k] → q.owner ≤ 1024 → s.on (Reg.timShpFn q.owner) F.timShpFn_en = false →
    (∀ i, s.on (Reg.timShpPort i (k.tc % 8)) F.timShpFn_en = false) → Quiet s → Gives (.frameRelease n chk) s fun t =>
      (∃ x, mget t.qpe.qps n = some x ∧ x.txq = [] ∧ x.fnTok = false ∧ x.psn = q.psn) ∧
      (⟨.amholt, [0], some { pktClear k with hops := 0, st := s.injState }, []⟩ : Out) ∈ t.out ∧ t.mem = s.mem) ∧
  (∀ (s : State) (m i n : Nat) (q : Qp), i < 12 → s.check m (regBase + Reg.umtPort i) = none → s.qpe.qps = [(n, q)] →
    q.port = some i → Gives (.umtPortEnClear m i) s fun t =>
      t.on (Reg.umtPort i) F.umtPort_en = false ∧
      (∃ x, t.qpe.qps = [(n, x)] ∧ x.port = (s.wf (Reg.umtPort i) F.umtPort_en 0).bindPort q.transport ∧ x.port ≠ some i) ∧
      Kept s t ∧ RegsKept s t [Reg.umtPort i]) ∧
  (∀ (s : State) (c : Nat) (e : CcEvent) (q : Qp) (i : Nat), s.ccQueue c = [e] → s.qpe.ccDefer = [] → mget s.qpe.qps e.qp = some q →
    q.port = some i → mget s.qpe.ccBank (s.rf Reg.umtCcCtrl F.umtCcCtrl_active) = none →
    (e.kind = 0 → Gives (.ccEventRun c) s fun t =>
      t.ccQueue c = [] ∧ (∃ x, mget t.qpe.qps e.qp = some x ∧ x.cc.rate = s.lineRate i ∧ x.cc.base = none) ∧ Kept s t ∧ RegsKept s t []) ∧
    (e.kind = 2 → max (s.ccParam 3) (q.cc.r / max 1 (s.ccParam 5)) ≠ 0 → Gives (.ccEventRun c) s fun t =>
      t.ccQueue c = [] ∧ (∃ x, mget t.qpe.qps e.qp = some x ∧ x.cc.rate = max (s.ccParam 3) (q.cc.r / max 1 (s.ccParam 5))) ∧
      Kept s t ∧ RegsKept s t [])) ∧
  (∀ (s : State) (c : Nat) (e : CcEvent), s.ccQueue c = [e] → s.qpe.ccDefer = [] → mget s.plt.ccState c = none → s.pd 94 = 2 → s.mon.evQ.length < 384 →
    Gives (.ccHandlerAbandon c) s fun t =>
      t.ccQueue c = [] ∧ t.qpe.qps = s.qpe.qps ∧
      t.rf Reg.umtCcStatus F.umtCcStatus_overrun =
        satU (F.umtCcStatus_overrun.hi + 1 - F.umtCcStatus_overrun.lo) (s.rf Reg.umtCcStatus F.umtCcStatus_overrun + 1) ∧
      t.mem = s.mem ∧ t.pending = s.pending) ∧
  (∀ (s : State) (m : Nat), s.check m (regBase + Reg.umtCcCtrl) = none →
    (s.ccDigestOk (1 - s.rf Reg.umtCcCtrl F.umtCcCtrl_active) = true → Gives (.ccSwap m) s fun t =>
      t.rf Reg.umtCcCtrl F.umtCcCtrl_active = 1 - s.rf Reg.umtCcCtrl F.umtCcCtrl_active ∧ Kept s t ∧ RegsKept s t [Reg.umtCcCtrl]) ∧
    (s.ccDigestOk (1 - s.rf Reg.umtCcCtrl F.umtCcCtrl_active) = false → Gives (.ccSwap m) s fun t =>
      t.on Reg.umtCcCtrl F.umtCcCtrl_load_err = true ∧
      t.rf Reg.umtCcCtrl F.umtCcCtrl_active = s.rf Reg.umtCcCtrl F.umtCcCtrl_active ∧ Kept s t ∧ RegsKept s t [Reg.umtCcCtrl]))

/-! ### Amholt links and the router (08_amholt_fabric.md) -/

/-- FAB_PORT_EN_WRITE, PHY_LOCK, PHY_LOCK_TIMEOUT, TRAINING_CELL_RECEIVED, TRAINING_TIMEOUT, DOWN_WAIT_EXPIRY, CONTROL_CELL_RECEIVED,
ACK_SEQ_TIMEOUT, CONTROL_CELL_DUE, LINK_FAIL: a link enabled on an Amholt quad goes from Down to Phy, at lock to ID, after eight good cells
in a row to Confirm, and, seen by its partner within the round trip allowed, to Active with its sequence numbers at 0; a timeout or a
partner refused sends it back to Down to wait 10 ms, after which it starts again; a control cell brings acknowledgement and credit; cells
not acknowledged in time are sent again; a failure of an Active link is latched with its reason and enters the fault map.
What in it is the model's own choice is said in log 7, 33. -/
def Obligations.LinksTrainRunAndFail : Prop :=
  (∀ (s : State) (m n : Nat) (v : Word), n < 12 → s.check m (regBase + Reg.fabPort n) = none →
    s.on (Reg.fabPort n) F.fabPort_en = false → (s.softW (Reg.fabPort n) v).on (Reg.fabPort n) F.fabPort_en = true →
    s.rf (Reg.macQuad n) F.macQuad_mode = 2 → s.lstate n = 0 → (s.link n).waiting = false → s.pd (68 + n) = 2 →
    Gives (.fabPortEnWrite m n v) s fun t =>
      t.lstate n = 1 ∧ (t.link n).since = s.clk ∧ (t.link n).dim = (s.softW (Reg.fabPort n) v).rf (Reg.fabPort n) F.fabPort_dim ∧
      t.mem = s.mem) ∧
  (∀ (s : State) (n : Nat), n < 12 → s.lstate n = 1 → Apart s →
    (Gives (.phyLock n) s fun t => t.lstate n = 2 ∧ (t.link n).since = s.clk ∧ (t.link n).good = 0 ∧
      (∃ l b, t.out = l ++ [⟨.ctl, [n], none, b⟩]) ∧ t.mem = s.mem) ∧
    ((s.link n).since + 500000000 ≤ s.clk → Gives (.phyLockTimeout n) s fun t =>
      t.lstate n = 0 ∧ (t.link n).waiting = true ∧ t.mem = s.mem) ∧
    (s.clk < (s.link n).since + 500000000 → exec (.phyLockTimeout n) s = .next s)) ∧
  (∀ (s : State) (n : Nat), n < 12 → (s.lstate n = 2 ∨ s.lstate n = 3) →
    ((s.link n).since + 1000000 ≤ s.clk → Gives (.trainingTimeout n) s fun t =>
      t.lstate n = 0 ∧ (t.link n).waiting = true ∧ t.mem = s.mem) ∧
    (s.clk < (s.link n).since + 1000000 → exec (.trainingTimeout n) s = .next s)) ∧
  (∀ (s : State) (n : Nat), n < 12 → s.lstate n = 0 → (s.link n).waiting = true → (s.link n).since + 10000000 ≤ s.clk →
    s.on (Reg.fabPort n) F.fabPort_en = true → s.rf (Reg.macQuad n) F.macQuad_mode = 2 → s.pd (68 + n) = 2 →
    Gives (.downWaitExpiry n) s fun t => t.lstate n = 1 ∧ (t.link n).waiting = false ∧ (t.link n).since = s.clk ∧ t.mem = s.mem) ∧
  (∀ (s : State) (n : Nat) (c : List Byte), n < 12 → cellGood c = true → nbits (cfld c 0 4) 31 30 = 3 → cfld c 30 10 = 0 → Apart s →
    (s.lstate n = 2 → s.partnerBad n c = none → 7 ≤ (s.link n).good → Gives (.trainingCellReceived n c) s fun t =>
      t.lstate n = 3 ∧ (t.link n).peerNode = cfld c 4 2 ∧ (t.link n).good = (s.link n).good + 1 ∧ t.mem = s.mem) ∧
    (s.lstate n = 3 → s.partnerBad n c = none → nbit (cfld c 0 4) 23 = true → cfld c 10 2 = s.node → cfld c 12 1 % 16 = n →
      (s.exchange c 20).1 ≤ 10000 * 65536 → s.fab.faults = [] → s.on Reg.topReset F.topReset_node_ovr_en = false →
      Gives (.trainingCellReceived n c) s fun t =>
        t.lstate n = 4 ∧ (t.link n).seq = 0 ∧ (t.link n).exp = 0 ∧ (t.link n).retry = [] ∧
        t.rf (Reg.fabPortStatus n) F.fabPortStatus_peer_node = cfld c 4 2 ∧ t.mem = s.mem) ∧
    (∀ r, (s.lstate n = 2 ∨ s.lstate n = 3) → s.partnerBad n c = some r → Gives (.trainingCellReceived n c) s fun t =>
      t.lstate n = 0 ∧ (t.link n).waiting = true ∧ t.mem = s.mem)) ∧
  (∀ (s : State) (n k : Nat) (c : List Byte), s.fabActive n = true → cellGood c = true → nbits (cfld c 0 4) 31 30 = 2 →
    nbit (cfld c 0 4) 17 = false → cfld c 30 10 = 0 → (s.fout n).cur = none →
    k = (nbits (cfld c 0 4) 29 18 + 4096 - (s.link n).acked) % 4096 → Gives (.controlCellReceived n c) s fun t =>
      (t.link n).credit = (List.range 8).map (fun v => cfld c (4 + 2 * v) 2) ∧
      (t.link n).retry = (if 1 ≤ k ∧ k ≤ (s.link n).retry.length then (s.link n).retry.drop k else (s.link n).retry) ∧
      (t.link n).echo = cfld c 20 10 ∧ t.out = s.out ∧ Kept s t ∧ RegsKept s t []) ∧
  (∀ (s : State) (n : Nat), s.fabActive n = true → Apart s → (s.link n).retry ≠ [] → (s.link n).ackedAt + 4000 ≤ s.clk →
    (s.link n).resends < 15 → Gives (.ackSeqTimeout n) s fun t =>
      t.out = s.out ++ (s.link n).retry.map (fun c => ⟨.cell, [n], none, c⟩) ∧ (t.link n).resends = (s.link n).resends + 1 ∧
      (t.link n).retry = (s.link n).retry ∧ Kept s t ∧ RegsKept s t [Reg.fabPortErr n]) ∧
  (∀ (s : State) (n : Nat), s.fabActive n = true → Gives (.controlCellDue n) s fun t =>
      (∃ b, t.out = s.out ++ [⟨.ctl, [n], none, b⟩]) ∧ t.fab = s.fab ∧ Kept s t ∧ RegsKept s t []) ∧
  (∀ (s : State) (n r : Nat), n < 12 → 1 ≤ r → r ≤ 5 → (s.lstate n = 4 → s.fab.bufs = [] ∧ s.fab.outs = [] ∧ s.fab.faults = [] ∧
      s.rf Reg.cpfStatus F.cpfStatus_state = 0) → s.lstate n ≠ 0 → Gives (.linkFail n r) s fun t =>
      t.lstate n = 0 ∧ (t.link n).waiting = decide (r ≠ 4) ∧ t.mem = s.mem ∧
      (s.lstate n = 4 → t.rf (Reg.fabPortStatus n) F.fabPortStatus_down_reason = r ∧ t.fab.routeDue = true ∧
        ∃ e ∈ t.fab.faults, e.lost = false ∧ e.node = s.node ∧ e.dim = min 5 (s.link n).dim ∧ e.dir = (s.link n).dir))

/-- DATA_CELL_RECEIVED, PACKET_HEAD_ARRIVAL, OUTPUT_GRANT, VC_HEAD_TIMEOUT, VC_STALL_TIMEOUT: the next good cell of a link opens a packet
in its input's FIFO and moves the expected sequence number, and a bad one is counted and answered with one NAK; a head is routed as the
table says, or dropped and counted; a free output sends the VC7 packet of the injection port with HOPS 0, kept for resending; a VC6 or VC7
head that has waited 20 µs is dropped, and a data head that has stalled is reported once.
What in it is the model's own choice is said in log 32, 34. -/
def Obligations.PacketsAreRoutedAndSent : Prop :=
  (∀ (s : State) (n : Nat) (c : List Byte) (h : Packet), s.fabActive n = true → cellGood c = true → nbits (cfld c 0 4) 31 30 = 1 →
    nbits (cfld c 0 4) 29 18 = (s.link n).exp → (s.link n).left = 0 → h = pktOfHdr (((c.drop 4).take 120).take 32) → h.plen ≤ 4096 →
    (s.link n).overrun h.vc = false → Gives (.dataCellReceived n c) s fun t =>
      (∃ f, t.fifo (n * 8 + h.vc) = s.fifo (n * 8 + h.vc) ++ [f] ∧ f.hdr = h ∧ f.data = [(c.drop 4).take 120] ∧ f.total = pktCells h ∧
        f.routed = false ∧ f.poison = nbit (cfld c 0 4) 0) ∧
      (t.link n).exp = ((s.link n).exp + 1) % 4096 ∧ (t.link n).left = pktCells h - 1 ∧ (t.link n).nak = false ∧
      t.out = s.out ∧ Kept s t ∧ RegsKept s t []) ∧
  (∀ (s : State) (n : Nat) (c : List Byte), s.fabActive n = true → cellGood c = false → (s.link n).nak = false →
    Gives (.dataCellReceived n c) s fun t =>
      (t.link n).nak = true ∧ (t.link n).exp = (s.link n).exp ∧ (∃ b, t.out = s.out ++ [⟨.ctl, [n], none, b⟩]) ∧
      t.rf (Reg.fabPortErr n) F.fabPortErr_bad_cells =
        satU (F.fabPortErr_bad_cells.hi + 1 - F.fabPortErr_bad_cells.lo) (s.rf (Reg.fabPortErr n) F.fabPortErr_bad_cells + 1) ∧
      Kept s t ∧ RegsKept s t [Reg.fabPortErr n]) ∧
  (∀ (s : State) (n out vc : Nat) (p : FPkt), n < 12 → s.fifo (n * 8) = [p] → p.routed = false → p.started = false → p.drop = false →
    s.routeOf n p.hdr = (out, vc, none) → out ≠ 12 → s.fab.drained = false → Gives (.packetHeadArrival n) s fun t =>
      t.fifo (n * 8) = [{ p with routed := true, out := out, vc := vc, drop := false }] ∧ t.out = s.out ∧ Kept s t ∧ RegsKept s t []) ∧
  (∀ (s : State) (n r : Nat) (p : FPkt), n < 12 → s.fifo (n * 8) = [p] → p.routed = false → p.started = false →
    (s.routeOf n p.hdr).2.2 = some r → p.whole = true → Gives (.packetHeadArrival n) s fun t =>
      t.fifo (n * 8) = [] ∧ t.mem = s.mem ∧
      t.rf (Reg.fabDrop r) F.fabDrop_count = satU (F.fabDrop_count.hi + 1 - F.fabDrop_count.lo) (s.rf (Reg.fabDrop r) F.fabDrop_count + 1)) ∧
  (∀ (s : State) (n : Nat) (p : FPkt) (d : List Byte), s.fabActive n = true → (s.fout n).cur = none → s.fab.bufs = [(103, [p])] →
    p.routed = true → p.started = false → p.drop = false → p.out = n → p.total = 1 → p.sent = 0 → p.data = [d] → Apart s →
    s.bubble 12 n 7 1 = true → (s.link n).retry.length < 2048 → Gives (.outputGrant n) s fun t =>
      t.fab.bufs = [] ∧ (t.link n).seq = ((s.link n).seq + 1) % 4096 ∧ (t.link n).retry.length = (s.link n).retry.length + 1 ∧
      (∃ b, t.out = s.out ++ [⟨.cell, [n], none, b⟩] ∧ (b.drop 4).take 32 = pktHdr { p.hdr with hops := 0, vc := p.vc }) ∧
      Kept s t ∧ RegsKept s t []) ∧
  (∀ (s : State) (i vc : Nat) (p : FPkt), i < 13 → (vc = 6 ∨ vc = 7) → s.fifo (i * 8 + vc) = [p] → p.started = false → p.drop = false →
    p.whole = true →
    ((mget s.fab.headAt (i * 8 + vc)).getD 0 + 20000 ≤ s.clk → Gives (.vcHeadTimeout i vc) s fun t =>
      t.fifo (i * 8 + vc) = [] ∧ t.mem = s.mem ∧
      t.rf (Reg.fabDrop 8) F.fabDrop_count = satU (F.fabDrop_count.hi + 1 - F.fabDrop_count.lo) (s.rf (Reg.fabDrop 8) F.fabDrop_count + 1)) ∧
    (s.clk < (mget s.fab.headAt (i * 8 + vc)).getD 0 + 20000 → exec (.vcHeadTimeout i vc) s = .next s)) ∧
  (∀ (s : State) (i vc : Nat) (p : FPkt), i < 13 → vc < 6 → s.fifo (i * 8 + vc) = [p] → p.drop = false →
    s.rf Reg.fabCtrl F.fabCtrl_stall_ms ≠ 0 →
    (mget s.fab.headAt (i * 8 + vc)).getD 0 + s.rf Reg.fabCtrl F.fabCtrl_stall_ms * 1000000 ≤ s.clk →
    (s.fab.stalled.contains (i * 8 + vc) = false → s.logs = true → Gives (.vcStallTimeout i vc) s fun t =>
      i * 8 + vc ∈ t.fab.stalled ∧ (∃ e ∈ t.mon.logVol, e.cls = .fault ∧ e.code = 0x703 ∧ e.inst = i ∧ e.arg0 = vc) ∧ t.mem = s.mem) ∧
    (s.fab.stalled.contains (i * 8 + vc) = true → exec (.vcStallTimeout i vc) s = .next s))

/-- FLIP_ARM, ROUTE_FLIP, FLIP_DRAIN_DEADLINE, FAULT_MAP_ENTRY_RECEIVED, AUTO_ROUTE_WRITE: a flip is armed for its time, or set `ERR` while
one is armed; when it is due the injection state becomes its target and the drain starts; past the drain time old packets are no longer
forwarded; an entry new to the fault map is kept and a known one changes nothing; firmware writes the inactive route table from the map
and arms the flip `LEAD` after the newest entry's stamp.
What in it is the model's own choice is said in log 7. -/
def Obligations.RoutesFlipAndAvoidFaults : Prop :=
  (∀ (s : State) (m : Nat) (v : Word), s.check m (regBase + Reg.fabFlip) = none → fld v 63 63 = 1 →
    (s.on Reg.fabFlip F.fabFlip_arm = false → s.time < (s.rd Reg.fabFlipTime).toNat → Gives (.flipArm m v) s fun t =>
      t.on Reg.fabFlip F.fabFlip_arm = true ∧ t.rf Reg.fabFlip F.fabFlip_to = fld v 0 0 ∧ t.injState = s.injState ∧ t.fab = s.fab ∧
      Kept s t ∧ RegsKept s t [Reg.fabFlip]) ∧
    (s.on Reg.fabFlip F.fabFlip_arm = true → Gives (.flipArm m v) s fun t =>
      t.on Reg.fabFlip F.fabFlip_err = true ∧ t.fab = s.fab ∧ Kept s t ∧ RegsKept s t [Reg.fabFlip])) ∧
  (∀ (s : State), s.fab.routeDue = false →
    (s.flipDue = true → Gives .routeFlip s fun t =>
      t.injState = s.rf Reg.fabFlip F.fabFlip_to ∧ t.on Reg.fabFlip F.fabFlip_arm = false ∧
      t.fab.flipAt = some (s.rd Reg.fabFlipTime).toNat ∧ t.fab.drained = false ∧ t.fab.bufs = s.fab.bufs ∧ Kept s t ∧
      RegsKept s t [Reg.fabFlip, Reg.fabCtrl]) ∧
    (s.flipDue = false → exec .routeFlip s = .next s)) ∧
  (∀ (s : State) (a : Nat), s.fab.flipAt = some a → s.fab.drained = false → s.fab.bufs = [] →
    (a + max 1 (s.rf Reg.fabCtrl F.fabCtrl_drain_us) * 1000 ≤ s.time →
      exec .flipDrainDeadline s = .next { s with fab.drained := true }) ∧
    (s.time < a + max 1 (s.rf Reg.fabCtrl F.fabCtrl_drain_us) * 1000 → exec .flipDrainDeadline s = .next s)) ∧
  (∀ (s : State) (n : Nat) (e : FaultEnt), e.removal = false →
    (s.fab.faults.any (FaultEnt_same e) = true → exec (.faultMapEntryReceived n e) s = .next s) ∧
    (s.fab.faults.any (FaultEnt_same e) = false → e.lost = false → Gives (.faultMapEntryReceived n e) s fun t =>
      t.fab.faults = s.fab.faults ++ [e] ∧ t.fab.routeDue = true ∧ Kept s t ∧ RegsKept s t [])) ∧
  (∀ (s : State) (e : FaultEnt), s.fab.routeDue = true → s.on Reg.fabCtrl F.fabCtrl_auto_route = true →
    s.on Reg.fabFlip F.fabFlip_arm = false → s.fab.faults = [e] →
    s.time < e.stamp + max 1 (s.rf Reg.fabCtrl F.fabCtrl_lead) * 100000 →
    e.stamp + max 1 (s.rf Reg.fabCtrl F.fabCtrl_lead) * 100000 < 2 ^ 64 → Gives .autoRouteWrite s fun t =>
      (∀ d, d < min 65536 s.fabSize → t.route (1 - s.injState) d = (false, s.autoRoute d)) ∧ t.fab.routeDue = false ∧
      t.injState = s.injState ∧ t.on Reg.fabFlip F.fabFlip_arm = true ∧ t.rf Reg.fabFlip F.fabFlip_to = 1 - s.injState ∧
      (t.rd Reg.fabFlipTime).toNat = e.stamp + max 1 (s.rf Reg.fabCtrl F.fabCtrl_lead) * 100000 ∧ t.mem = s.mem)

/-! ### Ethernet ports (09_ethernet_ports.md) -/

/-- A counter field read one higher, saturating. -/
def Sys2Proof.Machine.Counted (s t : State) (k : Nat) (f : Fld) : Prop := t.rf k f = satU (f.hi + 1 - f.lo) (s.rf k f + 1)

/-- MAC_QUAD_RECONFIG, ETH_LINK_CHANGE, ETH_FRAME_RECEIVED, RAW_RING_ENABLE, RAW_TX_SLOT, TX_FRAME_START, TX_UNDERRUN: a change of role or
speed takes the link down and counts it; a link change shows in both ports' registers; a frame too short or with a bad FCS is counted and
goes no further; a UMT frame is handed to the transport engine; another good frame lands in the next slot of the raw ring; enabling a ring
zeroes its counts; a posted slot is sent with its FCS and completed, or completed as link down; a UMT frame starts with its bytes, and one
cut off ends with a bad FCS and raises the threshold.
What in it is the model's own choice is said in log 33, 34, 35. -/
def Obligations.FramesAreTakenAndSent : Prop :=
  (∀ (s u : State) (m n : Nat) (v : Word), n < 12 → s.check m (regBase + Reg.macQuad n) = none → u = s.softW (Reg.macQuad n) v →
    fld (s.rd (Reg.macQuad n)) 1 0 ≠ fld (u.rd (Reg.macQuad n)) 1 0 → u.on (Reg.macQuad n) F.macQuad_up = true → s.lstate n = 0 →
    u.rf (Reg.macQuad n) F.macQuad_mode ≠ 2 → (∀ e ∈ s.qpe.qps, e.2.port ≠ some n) → s.pd 94 = 2 → s.mon.evQ.length < 384 →
    Gives (.macQuadReconfig m n v) s fun t =>
      t.on (Reg.macQuad n) F.macQuad_up = false ∧ t.on (Reg.umtPort n) F.umtPort_up = false ∧
      t.rf (Reg.macQuad n) F.macQuad_mode = u.rf (Reg.macQuad n) F.macQuad_mode ∧ Counted s t (Reg.macStat n 21) F.macStat_count ∧
      (t.macPort n).cur = none ∧ t.qpe = s.qpe ∧ Kept s t ∧ RegsKept s t [Reg.macQuad n, Reg.umtPort n, Reg.macStat n 21]) ∧
  (∀ (s : State) (n : Nat), n < 12 → s.rf (Reg.macQuad n) F.macQuad_mode = 1 → s.pd (68 + n) = 2 →
    s.on (Reg.macQuad n) F.macQuad_up = false → s.pd 94 = 2 → s.mon.evQ.length < 384 → Gives (.ethLinkChange n true) s fun t =>
      t.on (Reg.macQuad n) F.macQuad_up = true ∧ t.on (Reg.umtPort n) F.umtPort_up = true ∧
      (∃ e, t.mon.evQ = s.mon.evQ ++ [e] ∧ e.cls = .warning ∧ e.code = 0x801 ∧ e.inst = n ∧ e.arg0 = 1) ∧ Kept s t ∧
      RegsKept s t [Reg.macQuad n, Reg.umtPort n]) ∧
  (∀ (s : State) (n : Nat) (d : List Byte), n < 12 → s.ethUp n = true → Apart s → d.length ≤ 32768 →
    (d.length < 64 → Gives (.ethFrameReceived n d) s fun t =>
      Counted s t (Reg.macStat n 3) F.macStat_count ∧ t.out = s.out ∧ Kept s t ∧ RegsKept s t [Reg.macStat n 3]) ∧
    (64 ≤ d.length → d.drop (d.length - 4) ≠ leBytes 4 (crc32 (nats (d.take (d.length - 4)))) → Gives (.ethFrameReceived n d) s fun t =>
      Counted s t (Reg.macStat n 2) F.macStat_count ∧ t.out = s.out ∧ Kept s t ∧ RegsKept s t [Reg.macStat n 2])) ∧
  (∀ (s : State) (n : Nat) (f : List Byte), n < 12 → s.ethUp n = true → Apart s → 60 ≤ f.length → f.length + 4 ≤ s.maxFrame n →
    fbe f 12 2 ≠ 0x8808 → s.macPasses n (fbe f 0 6) = true →
    (∀ h, s.isUmt n f = some h → nbits (fbe f (h.udp + 8) 8) 63 60 = 1 → h.extra = false → udpBad f h = false →
      fbe f (h.udp + 4) 2 = 8 + 16 + 40 + 8 * b2n (pktOf (f.drop (h.udp + 24))).enc + (pktOf (f.drop (h.udp + 24))).plen →
      Gives (.ethFrameReceived n (f ++ leBytes 4 (crc32 (nats f)))) s fun t =>
        (∃ d, t.out = s.out ++ [⟨.rx, 1 :: n :: d, some (pktOf (f.drop (h.udp + 24))), []⟩]) ∧
        Counted s t (Reg.macStat n 7) F.macStat_count ∧ Counted s t (Reg.macStat n 0) F.macStat_count ∧ Kept s t) ∧
    (∀ a, s.isUmt n f = none → isPtp f = false → f.length ≤ 2032 → s.on (Reg.macRawRx n) F.macRawRx_en = true →
      s.rf (Reg.macRawIdx n) F.macRawIdx_rx_prod = s.rf (Reg.macRawIdx n) F.macRawIdx_rx_head →
      a = s.rf (Reg.macRawRx n) F.macRawRx_base * 4096 + s.rf (Reg.macRawIdx n) F.macRawIdx_rx_prod % s.rawSize (Reg.macRawRx n) * 2048 →
      s.biased a (16 + f.length) = false → NoDirtyLog s → Gives (.ethFrameReceived n (f ++ leBytes 4 (crc32 (nats f)))) s fun t =>
        (∀ j, j < f.length → t.byte (a + 16 + j) = f.getD j 0) ∧ t.ldN a 2 = f.length ∧
        (∀ j, ¬ (a ≤ j ∧ j < a + 16 + f.length) → t.byte j = s.byte j) ∧ Counted s t (Reg.macStat n 8) F.macStat_count ∧
        t.rf (Reg.macRawIdx n) F.macRawIdx_rx_prod = (s.rf (Reg.macRawIdx n) F.macRawIdx_rx_prod + 1) % 65536)) ∧
  (∀ (s : State) (m n : Nat) (v : Word), n < 12 → fld v 63 63 = 1 →
    (s.check m (regBase + Reg.macRawRx n) = none → s.on (Reg.macRawRx n) F.macRawRx_en = false → Gives (.rawRingEnable m n false v) s fun t =>
      t.on (Reg.macRawRx n) F.macRawRx_en = true ∧ t.rf (Reg.macRawIdx n) F.macRawIdx_rx_prod = 0 ∧
      t.rf (Reg.macRawIdx n) F.macRawIdx_rx_head = 0 ∧
      t.rf (Reg.macRawIdx n) F.macRawIdx_tx_done = s.rf (Reg.macRawIdx n) F.macRawIdx_tx_done ∧ Kept s t ∧
      RegsKept s t [Reg.macRawRx n, Reg.macRawIdx n]) ∧
    (s.check m (regBase + Reg.macRawTx n) = none → s.on (Reg.macRawTx n) F.macRawRx_en = false → Gives (.rawRingEnable m n true v) s fun t =>
      t.on (Reg.macRawTx n) F.macRawRx_en = true ∧ t.rf (Reg.macRawIdx n) F.macRawIdx_tx_done = 0 ∧
      t.rf (Reg.macRawIdx n) F.macRawIdx_tx_tail = 0 ∧ Kept s t ∧ RegsKept s t [Reg.macRawTx n, Reg.macRawIdx n])) ∧
  (∀ (s : State) (n : Nat), n < 12 → s.rawWaits n = true → s.biased (s.rawSlot n) 16 = false → NoDirtyLog s → Quiet s →
    s.on (Reg.icuSrc (0x40 + n)) F.icuSrc_host = false →
    (s.ethUp n = false → Gives (.rawTxSlot n none) s fun t =>
      nbits (t.ldN (s.rawSlot n) 8) 58 56 = 3 ∧ (∀ j, ¬ (s.rawSlot n ≤ j ∧ j < s.rawSlot n + 8) → t.byte j = s.byte j) ∧
      t.rf (Reg.macRawIdx n) F.macRawIdx_tx_done = (s.rf (Reg.macRawIdx n) F.macRawIdx_tx_done + 1) % 65536 ∧ t.out = s.out) ∧
    (∀ f, s.ethUp n = true → nbits (s.ldN (s.rawSlot n) 8) 13 0 ≤ 2032 → nbits (s.ldN (s.rawSlot n) 8) 17 16 = 0 → (s.macPort n).umtQ = [] →
      s.gate n (nbits (s.ldN (s.rawSlot n) 8) 30 28)
        ((max 60 (nbits (s.ldN (s.rawSlot n) 8) 13 0) + 4 + 20) * s.psPerByte n) = some false →
      s.on (Reg.timShpPort n (nbits (s.ldN (s.rawSlot n) 8) 30 28)) F.timShpFn_en = false →
      f = (let b := s.bytes (s.rawSlot n + 16) (nbits (s.ldN (s.rawSlot n) 8) 13 0); b ++ List.replicate (60 - b.length) 0) →
      Gives (.rawTxSlot n none) s fun t =>
        t.out = s.out ++ [⟨.frame, [n, 1], none, f ++ leBytes 4 (crc32 (nats f))⟩] ∧ nbits (t.ldN (s.rawSlot n) 8) 58 56 = 0 ∧
        (∀ j, ¬ (s.rawSlot n ≤ j ∧ j < s.rawSlot n + 8) → t.byte j = s.byte j) ∧
        t.rf (Reg.macRawIdx n) F.macRawIdx_tx_done = (s.rf (Reg.macRawIdx n) F.macRawIdx_tx_done + 1) % 65536 ∧
        Counted s t (Reg.macStat n 18) F.macStat_count)) ∧
  (∀ (s : State) (n k : Nat) (p : Packet) (x : List Nat) (b : List Byte), n < 12 → s.ethUp n = true → (s.macPort n).umtQ = [(p, x)] →
    b = umtBytes p x s.time (b2n s.tlock) (s.freeVal.toNat % 65536) → b.length ≤ s.maxFrame n → s.rawWaits n = false → b.length ≤ k →
    Quiet s → Gives (.txFrameStart n k) s fun t =>
      t.out = s.out ++ [⟨.umt, [n], none, b⟩] ∧ (t.macPort n).umtQ = [] ∧ (t.macPort n).cur = some b ∧
      Counted s t (Reg.macStat n 15) F.macStat_count ∧ Kept s t ∧ RegsKept s t [Reg.macStat n 15, Reg.macStat n 16]) ∧
  (∀ (s : State) (n k : Nat) (b : List Byte), n < 12 → (s.macPort n).cur = some b → Quiet s → s.pd 94 = 2 → s.mon.evQ.length < 384 →
    Gives (.txUnderrun n k) s fun t =>
      t.out = s.out ++ [⟨.frame, [n, 3], none, badEnd (b.take k)⟩] ∧ (t.macPort n).cur = none ∧
      t.rf (Reg.macQuad n) F.macQuad_tx_thresh = min 63 (max 1 (s.rf (Reg.macQuad n) F.macQuad_tx_thresh) + 2) ∧
      Counted s t (Reg.macStat n 17) F.macStat_count ∧ Kept s t ∧
      RegsKept s t [Reg.macQuad n, Reg.macStat n 15, Reg.macStat n 16, Reg.macStat n 17])

/-! ### The timebase, gates and buckets (10_time_and_gates.md) -/

/-- PPS_IN_EDGE, PPS_OUT_PULSE, TIM_NOW_READ, TIM_SET, TIM_RATE_WRITE, TIME_SAMPLE, HOLDOVER_EXPIRY, PTP_EXCHANGE, SNAP_ARM,
SNAPSHOT_TICK: an edge latches the timebase; a pulse rises once in a second; a read of the time answers it and latches the fraction; a
set gives a root or a free timebase its nanoseconds and locks a root with no source; the rate is written, clamped, while `ROLE` is 0; a
sample within the step limit sets the offset and slews, one beyond it steps an unlocked timebase; 10 ms without one end the lock; an armed
snapshot copies every counter listed to its shadow and counts.
What in it is the model's own choice is said in log 2, 36. -/
def Obligations.TheTimebaseIsKeptAndShown : Prop :=
  (∀ (s : State), s.timeRole ≠ (1, 1) →
    (s.mac.ppsAt = none → Gives .ppsInEdge s fun t =>
      (t.rd Reg.macPpsIn).toNat = s.time % 2 ^ 64 ∧
      t.rf Reg.macPps F.macPps_in_count = (s.rf Reg.macPps F.macPps_in_count + 1) % 2 ^ 16 ∧ t.mac.ppsAt = some s.clk ∧ Kept s t ∧
      RegsKept s t [Reg.macPpsIn, Reg.macPps]) ∧
    (∀ a, s.mac.ppsAt = some a → s.clk < a + 100000 → exec .ppsInEdge s = .next s)) ∧
  (∀ (s : State), s.on Reg.macPps F.macPps_out_en = true → Quiet s →
    (s.mac.ppsSec ≠ s.time / 1000000000 → Gives .ppsOutPulse s fun t =>
      t.out = s.out ++ [⟨.pin, [0, 1, max 1 (s.rf Reg.macPps F.macPps_width)], none, []⟩] ∧ t.mac.ppsSec = s.time / 1000000000 ∧
      Kept s t ∧ RegsKept s t []) ∧
    (s.mac.ppsSec = s.time / 1000000000 → exec .ppsOutPulse s = .next s)) ∧
  (∀ (s : State) (m : Nat), s.check m (regBase + Reg.timNow) = none → Gives (.timNowRead m) s fun t =>
      t.out = s.out ++ [⟨.resp, [m, regBase + Reg.timNow, 0], none, leBytes 8 s.time⟩] ∧
      t.rf Reg.timNowFrac F.timNowFrac_frac = s.frac / 2 ^ 16 % 2 ^ (F.timNowFrac_frac.hi + 1 - F.timNowFrac_frac.lo) ∧
      Kept s t ∧ RegsKept s t [Reg.timNowFrac]) ∧
  (∀ (s : State) (m : Nat) (v : Word), s.check m (regBase + Reg.timSet) = none →
    (s.timeRole.1 ≠ 2 → Gives (.timSet m v) s fun t =>
      t.time = v.toNat ∧ t.frac = 0 ∧ (s.timeRole = (1, 0) → t.tlock = true) ∧ t.mem = s.mem ∧ t.clk = s.clk ∧ t.pending = s.pending) ∧
    (s.timeRole.1 = 2 → exec (.timSet m v) s = .next s)) ∧
  (∀ (s : State) (m : Nat) (v : Word), s.check m (regBase + Reg.timRate) = none →
    (s.timeRole.1 = 0 → Gives (.timRateWrite m v) s fun t =>
      t.rf Reg.timRate F.timRate_rate = wrap 32 (clampRate (sgn 32 (fld v 31 0))) ∧ Kept s t ∧ RegsKept s t [Reg.timRate]) ∧
    (s.timeRole.1 ≠ 0 → exec (.timRateWrite m v) s = .next s)) ∧
  (∀ (s : State) (x : Int) (lock : Bool) (l : List (Int × Nat × Bool)), s.tim.samples = (x, 17, lock) :: l →
    (s.timeRole = (1, 2) → max x (-x) ≤ ((max 1 (s.rf Reg.timCtrl F.timCtrl_step) * 8 * 65536 : Nat) : Int) →
      Gives .timeSample s fun t => t.tim.samples = l ∧ t.tim.lastSample = s.clk ∧ t.time = s.time ∧ t.frac = s.frac ∧
        t.rf Reg.timStatus F.timStatus_offset = wrap 16 (max (-32767) (min 32767 (x / 65536))) ∧ t.mem = s.mem) ∧
    (s.timeRole = (1, 2) → ((max 1 (s.rf Reg.timCtrl F.timCtrl_step) * 8 * 65536 : Nat) : Int) < max x (-x) → s.tlock = false →
      Gives .timeSample s fun t => t.tim.samples = l ∧ t.clk = s.clk ∧ t.mem = s.mem ∧
        t.time * 2 ^ 32 + t.frac = wrap 96 (((s.time * 2 ^ 32 + s.frac : Nat) : Int) - x * 65536)) ∧
    (s.timeRole.1 = 0 → exec .timeSample s = .next { s with tim.samples := l })) ∧
  (∀ (s : State), s.disciplined = true →
    (s.tim.lastSample + 10000000 ≤ s.clk → s.tlock = true → s.pd 94 = 2 → s.mon.evQ.length < 384 → Gives .holdoverExpiry s fun t =>
      t.tlock = false ∧ t.on Reg.timStatus F.timStatus_lock_chg = true ∧ (∃ e, t.mon.evQ = s.mon.evQ ++ [e] ∧ e.code = 0x902) ∧ Kept s t ∧
      RegsKept s t [Reg.timStatus]) ∧
    (s.clk < s.tim.lastSample + 10000000 → exec .holdoverExpiry s = .next s)) ∧
  (∀ (s : State) (x : Int), exec (.ptpExchange x) s =
    .next (if s.timeRole = (1, 2) then { s with tim.samples := s.tim.samples ++ [(x, 17, true)] } else s)) ∧
  (∀ (s : State) (m : Nat) (v : Word), s.check m (regBase + Reg.timSnapCtrl) = none → fld v 63 63 = 1 →
    s.time < (s.rd Reg.timSnapTime).toNat → Gives (.snapArm m v) s fun t =>
      t.on Reg.timSnapCtrl F.timSnapCtrl_arm = true ∧ t.rf Reg.timSnapCtrl F.timSnapCtrl_period = fld v 31 0 ∧ Kept s t ∧
      RegsKept s t [Reg.timSnapCtrl]) ∧
  (∀ (s : State), (∀ u, s.on (Reg.monCapCfg u) F.monCapCfg_autoclr = false) → s.on (Reg.icuSrc 0x61) F.icuSrc_host = false →
    (s.snapDue = true → Gives .snapshotTick s fun t =>
      (∀ k h v, mget s.regs k = some v → shadowOf k = some h →
        (match regDomain k with | some d => s.pd d = 2 | none => True) → t.rd h = v) ∧
      t.rf Reg.timSnapStatus F.timSnapStatus_seq = (s.rf Reg.timSnapStatus F.timSnapStatus_seq + 1) % 2 ^ 32 ∧
      t.on Reg.timSnapStatus F.timSnapStatus_unlocked = !s.tlock ∧ Kept s t) ∧
    (s.snapDue = false → exec .snapshotTick s = .next s))

/-- HATCH_ENTRY_BOUNDARY, HATCH_SWAP_REQUEST, HATCH_SWAP, BUCKET_REFILL, BUCKET_WRITE: the entry in force is shown; a swap is fixed for
its instant, or sets `ERR` while one is pending, and at the instant the banks change places; a bucket gains its quantum up to its burst at
the end of a period, is filled when it is enabled and goes when it is disabled; a token is taken from an enabled bucket that has one, and
none passes an empty one.
What in it is the model's own choice is said in log 7, 37. -/
def Obligations.GatesSwapAndBucketsRefill : Prop :=
  (∀ (s : State) (n : Nat), n < 12 → s.hlOff n = false →
    (s.hlOrigin n ≤ s.time → Gives (.hatchEntryBoundary n) s fun t =>
      t.rf (Reg.timHlStatus n) F.timHlStatus_entry =
        (segFrom ((s.time - s.hlOrigin n) % segLen (s.hlCycle n (s.hlBank n))) 0 (s.hlCycle n (s.hlBank n))).1 % 1024 ∧
      t.tim = s.tim ∧ Kept s t ∧ RegsKept s t [Reg.timHlStatus n]) ∧
    (s.time < s.hlOrigin n → exec (.hatchEntryBoundary n) s = .next s)) ∧
  (∀ (s u : State) (m n : Nat) (v : Word), n < 12 → s.check m (regBase + Reg.timHlCtrl n) = none → fld v 63 63 = 1 →
    u = (s.softW (Reg.timHlCtrl n) v).wf (Reg.timHlCtrl n) F.timHlCtrl_swap 1 →
    (s.on (Reg.timHlCtrl n) F.timHlCtrl_swap = false → u.time < u.swapInstant n → Gives (.hatchSwapRequest m n v) s fun t =>
      (mget t.tim.hatch n).bind (·.swapAt) = some (u.swapInstant n) ∧ t.on (Reg.timHlCtrl n) F.timHlCtrl_swap = true ∧
      t.hlBank n = s.hlBank n ∧ Kept s t ∧ RegsKept s t [Reg.timHlCtrl n]) ∧
    (s.on (Reg.timHlCtrl n) F.timHlCtrl_swap = true → Gives (.hatchSwapRequest m n v) s fun t =>
      t.on (Reg.timHlCtrl n) F.timHlCtrl_err = true ∧ t.tim = s.tim ∧ Kept s t ∧ RegsKept s t [Reg.timHlCtrl n])) ∧
  (∀ (s : State) (n a : Nat), (mget s.tim.hatch n).bind (·.swapAt) = some a → n < 12 →
    (a ≤ s.time → Gives (.hatchSwap n) s fun t =>
      t.hlBank n = 1 - s.hlBank n ∧ mget t.tim.hatch n = some ⟨some a, none⟩ ∧ t.on (Reg.timHlCtrl n) F.timHlCtrl_swap = false ∧
      Kept s t ∧ RegsKept s t [Reg.timHlCtrl n, Reg.timHlStatus n]) ∧
    (s.time < a → exec (.hatchSwap n) s = .next s)) ∧
  (∀ (s : State) (k : Nat) (b n : Bucket), mget s.tim.buckets k = some b → s.on k F.timShpFn_en = true →
    n = bucketOf (s.rd k) 0 (b.last + b.period * 8) →
    (b.last + b.period * 8 ≤ s.clk → Gives (.bucketRefill k) s fun t =>
      mget t.tim.buckets k = some { n with count := min (b.count + n.quantum) n.burst } ∧ Kept s t ∧ RegsKept s t []) ∧
    (s.clk < b.last + b.period * 8 → exec (.bucketRefill k) s = .next s)) ∧
  (∀ (s : State) (m k : Nat) (v : Word), bucketKey k = true → s.check m (regBase + k) = none →
    (fld v 63 63 = 0 → Gives (.bucketWrite m k v) s fun t =>
      mget t.tim.buckets k = none ∧ t.on k F.timShpFn_en = false ∧ Kept s t ∧ RegsKept s t [k]) ∧
    (fld v 63 63 = 1 → mget s.tim.buckets k = none → Gives (.bucketWrite m k v) s fun t =>
      mget t.tim.buckets k = some (bucketOf v (max 1 (fld v 47 32)) s.clk) ∧ t.on k F.timShpFn_en = true ∧ Kept s t ∧ RegsKept s t [k])) ∧
  (∀ (s : State) (k : Nat) (b : Bucket), s.on k F.timShpFn_en = true → mget s.tim.buckets k = some b →
    s.token k = if 0 < b.count then some { s with tim.buckets := mput s.tim.buckets k { b with count := b.count - 1 } } else none)

/-! ### The cipher engine (11_cipher.md) -/

/-- The cipher's command register may be written by the PF and no command holds it. -/
def Sys2Proof.Machine.CipIdle (s : State) : Prop := s.check 0 (regBase + Reg.cipCmd) = none ∧ s.on Reg.cipCmd F.cipCmd_go = false

/-- A command of the cipher has ended with a status, and the key stage is zero. -/
def Sys2Proof.Machine.CipEnded (t : State) (code : Nat) : Prop :=
  Ended t Reg.cipCmd F.cipCmd_go F.cipCmd_status code ∧ ∀ i, i < 8 → t.rd (Reg.cipKeyStage i) = 0

/-- INSTALL, REPLACE, DELETE, SA_DELETE_DRAIN_END, QUERY, SAVE, RESTORE, SET_KEK: a security association is installed from the staged keys
and the arguments; retires in favour of its successor; ends once its last packet has left, its command with it; is shown; is written as the
record of Table 11-6, in the clear where that is allowed, and ends; is restored from such a record with the counter it carries; the
key-encryption key is taken from the stage. One that may not be saved in the clear, or a number in use, is refused.
What in it is the model's own choice is said in log 3, 38. -/
def Obligations.SecurityAssociationCommandsEndAsStated : Prop :=
  (∀ (s : State), CipIdle s → mget s.cip.sas (s.cipArg 0 15 0) = none → s.cipArg 0 26 16 ≤ 1024 →
    s.saFull (s.cipArg 0 26 16) = false → Gives .install s fun t =>
      (∃ a, mget t.cip.sas (s.cipArg 0 15 0) = some a ∧ a.owner = s.cipArg 0 26 16 ∧ a.st = .active ∧ a.remoteSa = s.cipArg 0 42 27 ∧
        a.txKey = s.stagedKey 0 ∧ a.rxKey = s.stagedKey 4 ∧ a.ctr = s.cipArg 1 47 0 ∧ a.seen = [] ∧ a.top = 0) ∧ CipEnded t 0 ∧
      Kept s t ∧ RegsKept s t (Reg.cipCmd :: (List.range 8).map Reg.cipKeyStage)) ∧
  (∀ (s : State), CipIdle s → (mget s.cip.sas (s.cipArg 0 15 0)).isSome = true → ∀ c ∈ [Instr.install, .restore], Gives c s fun t =>
      t.cip = s.cip ∧ CipEnded t 0x81 ∧ Kept s t ∧ RegsKept s t (Reg.cipCmd :: (List.range 8).map Reg.cipKeyStage)) ∧
  (∀ (s : State) (a : Sa), CipIdle s → s.liveSa (s.cipArg 0 15 0) = some a →
    (a.st = .active → Gives .replace s fun t =>
      mget t.cip.sas (s.cipArg 0 15 0) = some { a with st := .retiring, succ := some (s.cipArg 0 59 44) } ∧ CipEnded t 0 ∧ Kept s t) ∧
    (Gives .delete s fun t =>
      mget t.cip.sas (s.cipArg 0 15 0) = some { a with ending := some false } ∧ t.on Reg.cipCmd F.cipCmd_go = true ∧ Kept s t ∧
      RegsKept s t [Reg.cipCmd]) ∧
    (Gives .query s fun t =>
      (t.rd (Reg.cipArg 1)).toNat = a.ctr % 2 ^ 48 ∧ (t.rd (Reg.cipArg 5)).toNat = a.st.code + satU 32 a.fails * 2 ^ 32 ∧
      t.cip = s.cip ∧ CipEnded t 0 ∧ Kept s t) ∧
    (∀ d, a.st ≠ .blocked → s.cipArg 0 43 43 = 0 → s.on Reg.cipCtrl F.cipCtrl_clear_ok = true → s.recordAt 128 = some d →
      s.biased d 128 = false → NoDirtyLog s → Gives .save s fun t =>
        t.bytes d 128 = a.record.flatMap (leBytes 8) ∧ (∀ j, ¬ (d ≤ j ∧ j < d + 128) → t.byte j = s.byte j) ∧
        mget t.cip.sas (s.cipArg 0 15 0) = some { a with ending := some true } ∧ t.on Reg.cipCmd F.cipCmd_go = true) ∧
    (a.st ≠ .blocked → s.cipArg 0 43 43 = 0 → s.on Reg.cipCtrl F.cipCtrl_clear_ok = false → Gives .save s fun t =>
        t.cip = s.cip ∧ CipEnded t 0x84 ∧ Kept s t)) ∧
  (∀ (s : State) (n : Nat) (a : Sa), mget s.cip.sas n = some a →
    (a.ending.isSome = true → s.on Reg.cipCmd F.cipCmd_go = true → s.cipArg 0 15 0 = n → Gives (.saDeleteDrainEnd n) s fun t =>
      mget t.cip.sas n = none ∧ CipEnded t 0 ∧ Kept s t) ∧
    (a.ending = none → exec (.saDeleteDrainEnd n) s = .next s)) ∧
  (∀ (s : State) (d : Nat) (a : Sa), CipIdle s → mget s.cip.sas (s.cipArg 0 15 0) = none → s.cipArg 0 26 16 ≤ 1024 →
    s.cipArg 0 43 43 = 0 → s.on Reg.cipCtrl F.cipCtrl_clear_ok = true → s.saFull (s.cipArg 0 26 16) = false → s.recordAt 128 = some d →
    wordsOf 16 (s.bytes d 128) = a.record → a.st = .active → a.ctr < 2 ^ 48 → a.top < 2 ^ 48 → Gives .restore s fun t =>
      (∃ x, mget t.cip.sas (s.cipArg 0 15 0) = some x ∧ x.owner = s.cipArg 0 26 16 ∧ x.st = .active ∧ x.ctr = a.ctr ∧
        x.remoteSa = a.remoteSa % 2 ^ 16 ∧ x.txKey = a.txKey % 2 ^ 256 ∧ x.rxKey = a.rxKey % 2 ^ 256 ∧ x.txSalt = a.txSalt % 2 ^ 48) ∧
      CipEnded t 0 ∧ Kept s t) ∧
  (∀ (s : State), CipIdle s →
    (s.on Reg.cipCtrl F.cipCtrl_lock = false → Gives .setKek s fun t =>
      t.cip.kek = some (s.stagedKey 0) ∧ t.on Reg.cipCtrl F.cipCtrl_kek_set = true ∧ CipEnded t 0 ∧ Kept s t) ∧
    (s.on Reg.cipCtrl F.cipCtrl_lock = true → Gives .setKek s fun t => t.cip = s.cip ∧ CipEnded t 0x84 ∧ Kept s t))

/-- A packet protected under a security association is found authentic by the association that holds its keys at the other end, where its
counter is neither seen nor below the window, and its payload comes back; sent a second time it is dropped.
What in it is the model's own choice is said in log 3. -/
def Obligations.SealedPacketsOpenOnce : Prop :=
  ∀ (s r : State) (n : Nat) (a b : Sa) (p : Packet), mget s.cip.sas n = some a → r.liveSa a.remoteSa = some b → b.st ≠ .blocked →
    b.rxKey = a.txKey → b.rxSalt = a.txSalt →
    (b.top ≤ a.ctr + 1024 → b.floor ≤ a.ctr → a.ctr ∉ b.seen →
      ∃ u, r.cipherIn (some (b.owner, true)) (s.seal n p).2 {} = (u, .ok { (s.seal n p).2 with payload := p.payload }) ∧
        (∃ x, mget u.cip.sas a.remoteSa = some x ∧ a.ctr ∈ x.seen ∧ a.ctr < x.top) ∧ u.mem = r.mem ∧ u.regs = r.regs) ∧
    (a.ctr ∈ b.seen → (r.cipherIn (some (b.owner, true)) (s.seal n p).2 {}).2 = .drop) ∧
    (∃ x, mget (s.seal n p).1.cip.sas n = some x ∧ x.ctr = a.ctr + 1 ∧ (a.ctr + 1 = 2 ^ 48 → x.st = .exhausted)) ∧
    (s.seal n p).1.mem = s.mem

/-! ### Plates (12_plates.md) -/

/-- No group, launch or waiting notice involves the collective engine. -/
def Sys2Proof.Machine.NoColl (s : State) : Prop := s.col.groups = [] ∧ s.col.launches = []

/-- START, STOP, STOP_DRAIN_END, PROGRAM_END, PLATE_RESET, PLATE_SCRUB_END: a loaded plate starts its sequencer and the burins of its image
at their entries with s1 to s3 as Table 13-4 has them; one not loaded refuses with a warning; a stop halts every core, and `RUN` falls with
the reason in `END` once the transfers have ended; a program ends when its sequencer has halted; a reset plate scrubs, and the end of the
scrub leaves its memories zero and its registers as after reset.
What in it is the model's own choice is said in log 39. -/
def Obligations.PlatesStartStopAndReset : Prop :=
  (∀ (s : State) (m p : Nat), p < 64 → s.check m (regBase + Reg.pltCtrl p) = none → s.runs p = false →
    s.on (Reg.pltStatus p) F.pltStatus_loaded = true → (s.plate p).resetting = false → s.substPend p = false → s.lost p = false →
    (s.plate p).image.burins < 2 ^ 32 → Gives (.start m p) s fun t =>
      t.runs p = true ∧ t.running p = (s.plate p).image.burins ∧ t.on (Reg.pltStatus p) F.pltStatus_exc = false ∧
      ((t.core (.seq p)).run = .running ∧ (t.core (.seq p)).pc = (s.plate p).image.seqEntry ∧ (t.core (.seq p)).sr 1 = 32 ∧
        (t.core (.seq p)).sr 2 = BitVec.ofNat 64 p ∧ (t.core (.seq p)).sr 3 = BitVec.ofNat 64 (s.plateOwner p) ∧
        ∀ n, 4 ≤ n → (t.core (.seq p)).sr n = 0) ∧
      (∀ b, b < 32 → if nbit (s.plate p).image.burins b then
        (t.core (.burin p b)).run = .running ∧ (t.core (.burin p b)).pc = (s.plate p).image.burinEntry ∧
          (t.core (.burin p b)).sr 1 = BitVec.ofNat 64 b
        else (t.core (.burin p b)).run = .halted) ∧
      (∀ b, b < 8 → (t.bar p b).mask = (s.plate p).image.burins + 2 ^ 32 ∧ (t.bar p b).arrived = 0) ∧
      Kept s t ∧ RegsKept s t [Reg.pltStatus p, Reg.pltExc p, Reg.pltExcAddr p]) ∧
  (∀ (s : State) (m p : Nat), s.check m (regBase + Reg.pltCtrl p) = none → s.on (Reg.pltStatus p) F.pltStatus_loaded = false → s.pd 94 = 2 →
    s.mon.evQ.length < 512 → Gives (.start m p) s fun t =>
      t.plt = s.plt ∧ (∃ e, t.mon.evQ = s.mon.evQ ++ [e] ∧ e.cls = .warning ∧ e.code = 0x1202 ∧ e.inst = p) ∧ Kept s t ∧
      RegsKept s t []) ∧
  (∀ (s : State) (m p : Nat), p < 64 → s.check m (regBase + Reg.pltCtrl p) = none → s.runs p = true → (s.plate p).stopping = none →
    (s.plate p).load = none → NoColl s → Gives (.stop m p) s fun t =>
      (t.plate p).stopping = some 2 ∧ t.runs p = true ∧ t.running p = 0 ∧ (t.core (.seq p)).run = .halted ∧
      (∀ b, b < 32 → (t.core (.burin p b)).run = .halted) ∧ Kept s t ∧ RegsKept s t [Reg.pltStatus p]) ∧
  (∀ (s : State) (p why : Nat), p < 64 → (s.plate p).stopping = some why → s.moverIdle p = true → (s.plate p).resetting = false →
    NoColl s → Apart s → why < 8 → Gives (.stopDrainEnd p) s fun t =>
      t.runs p = false ∧ t.rf (Reg.pltStatus p) F.pltStatus_end = why ∧ (t.plate p).stopping = none ∧ t.mem = s.mem) ∧
  (∀ (s : State) (p : Nat), p < 64 → s.runs p = true → (s.plate p).stopping = none → (s.core (.seq p)).run = .halted →
    s.moverIdle p = true → NoColl s → Apart s → Gives (.programEnd p) s fun t =>
      t.runs p = false ∧ t.rf (Reg.pltStatus p) F.pltStatus_end = 1 ∧ (∀ b, b < 32 → (t.core (.burin p b)).run = .halted) ∧ t.mem = s.mem) ∧
  (∀ (s : State) (m p : Nat), p < 64 → s.check m (regBase + Reg.pltCtrl p) = none → s.lost p = false → (s.plate p).resetting = false →
    s.runs p = false → (s.plate p).load = none → NoColl s → Gives (.plateReset m p) s fun t =>
      (t.plate p).resetting = true ∧ t.on (Reg.pltStatus p) F.pltStatus_scrubbing = true ∧
      t.on (Reg.vfmPlateOwner p) F.vfmPlateOwner_scrubbing = true ∧ Kept s t ∧
      RegsKept s t [Reg.pltStatus p, Reg.vfmPlateOwner p]) ∧
  (∀ (s : State) (p : Nat), p < 64 → (s.plate p).resetting = true → s.on (Reg.pltStatus p) F.pltStatus_scrubbing = true →
    s.lost p = false → (s.plate p).retired = [] → Gives (.plateScrubEnd p) s fun t =>
      (∀ j, t.byte j = if winBase p ≤ j ∧ j < winBase (p + 1) then 0 else s.byte j) ∧ (t.plate p).resetting = false ∧
      t.on (Reg.pltStatus p) F.pltStatus_loaded = false ∧ t.on (Reg.pltStatus p) F.pltStatus_scrubbing = false ∧
      t.rf (Reg.pltStatus p) F.pltStatus_spares = s.rf (Reg.pltStatus p) F.pltStatus_spares ∧
      t.on (Reg.vfmPlateOwner p) F.vfmPlateOwner_scrubbing = false ∧ t.plateOwner p = s.plateOwner p ∧
      (∀ d, d < 8 → t.rd (Reg.pltDisp p d) = regReset s.grade (Reg.pltDisp p d)) ∧ t.pending = s.pending)

/-- LOAD_GO, LOAD_END, DESCRIPTOR_END, BARRIER_STALL, DISP_LIMIT_WRITE, BURIN_SUBSTITUTION: a load of an idle plate begins, one of a running
plate is refused with LOAD_RESULT 6; a load whose header and digest are right puts text, data and local stores where Table 12-4 says and
leaves the plate loaded, one whose digest differs leaves it not loaded; a descriptor of one row moves its bytes and counts, and one behind
an error only counts; a barrier that has stalled is reported once; a write of `LIMIT` sets it and starts the dispenser again; a retired
burin waits, or is replaced by the best spare.
What in it is the model's own choice is said in log 3, 39. -/
def Obligations.PlatesLoadMoveAndSubstitute : Prop :=
  (∀ (s : State) (m p : Nat) (v : Word), p < 64 → s.check m (regBase + Reg.pltLoad p) = none →
    (s.runs p = false → (s.plate p).load = none → (s.plate p).resetting = false → Gives (.loadGo m p v) s fun t =>
      (t.plate p).load = some (fld v 63 6 * 64, fld v 5 4) ∧ t.on (Reg.pltStatus p) F.pltStatus_loading = true ∧
      t.on (Reg.pltStatus p) F.pltStatus_loaded = false ∧ t.rf (Reg.pltLoad p) F.pltLoad_addr = fld v 63 6 ∧ Kept s t ∧
      RegsKept s t [Reg.pltStatus p, Reg.pltLoad p]) ∧
    (s.runs p = true → Gives (.loadGo m p v) s fun t =>
      t.rf (Reg.pltStatus p) F.pltStatus_load_result = 6 ∧ t.plt = s.plt ∧ Kept s t ∧ RegsKept s t [Reg.pltStatus p])) ∧
  (∀ (s u w : State) (p a sp : Nat) (ext h bs : List Byte), p < 64 → (s.plate p).load = some (a, sp) → sp < 4 → s.plateOwner p ≤ 1024 →
    NoColl s → s.readStream (s.plateOwner p) sp p (xlFuel 64) a 64 ext = .all u h → w.plt = s.plt → w.mem = s.mem → w.col = s.col →
    (headerCheck h = 0 → s.readStream (s.plateOwner p) sp p (xlFuel (imageOf h).len) a (imageOf h).len ext = .all w bs →
      bs.length = (imageOf h).len → sha384 (bs.map (·.toNat)) = w.digest p → Gives (.loadEnd p ext) s fun t =>
        t.on (Reg.pltStatus p) F.pltStatus_loaded = true ∧ t.rf (Reg.pltStatus p) F.pltStatus_load_result = 1 ∧
        (t.plate p).image = imageOf h ∧ (t.plate p).load = none ∧
        (∀ j, j < (imageOf h).text → t.byte (imBase p + j) = bs.getD (64 + j) 0) ∧
        (∀ j, j < (imageOf h).dataLen →
          t.byte (winBase p + (imageOf h).dataOff + j) = bs.getD (64 + up64 (imageOf h).text + j) 0) ∧
        (∀ b j, b < 32 → j < (imageOf h).lsLen →
          t.byte (lsBase p b + j) = bs.getD (64 + up64 (imageOf h).text + up64 (imageOf h).dataLen + j) 0)) ∧
    (headerCheck h = 0 → s.readStream (s.plateOwner p) sp p (xlFuel (imageOf h).len) a (imageOf h).len ext = .all w bs →
      sha384 (bs.map (·.toNat)) ≠ w.digest p → Gives (.loadEnd p ext) s fun t =>
        t.on (Reg.pltStatus p) F.pltStatus_loaded = false ∧ t.rf (Reg.pltStatus p) F.pltStatus_load_result = 5 ∧
        (t.plate p).load = none) ∧
    (headerCheck h ≠ 0 → u.plt = s.plt → u.mem = s.mem → u.col = s.col → Gives (.loadEnd p ext) s fun t =>
        t.on (Reg.pltStatus p) F.pltStatus_loaded = false ∧ t.rf (Reg.pltStatus p) F.pltStatus_load_result = headerCheck h ∧
        (t.plate p).load = none ∧ t.mem = s.mem)) ∧
  (∀ (s : State) (p q : Nat) (d : List Nat) (ds : List (List Nat)) (e : Env), p < 64 → (s.mq p q).q = d :: ds → dSrcKind d < 2 →
    dDstKind d < 2 → dRows d = 1 → e.dbe = [] →
    ((s.mq p q).err = false → Gives (.descriptorEnd p q e) s fun t =>
      (∀ j, t.byte j = if dDst p d 0 ≤ j ∧ j < dDst p d 0 + dRow d then s.byte (dSrc p d 0 + (j - dDst p d 0)) else s.byte j) ∧
      (t.mq p q).q = ds ∧ (t.mq p q).ended = ((s.mq p q).ended + 1) % 2 ^ 32 ∧ (t.mq p q).err = false ∧ t.pending = s.pending) ∧
    ((s.mq p q).err = true → Gives (.descriptorEnd p q e) s fun t =>
      (t.mq p q).q = ds ∧ (t.mq p q).ended = ((s.mq p q).ended + 1) % 2 ^ 32 ∧ (t.mq p q).err = true ∧ Kept s t ∧ RegsKept s t [])) ∧
  (∀ (s : State) (p b : Nat), p < 64 → (s.bar p b).arrived ≠ 0 → s.rf (Reg.pltCtrl p) F.pltCtrl_bar_stall_us ≠ 0 →
    (s.bar p b).since + s.rf (Reg.pltCtrl p) F.pltCtrl_bar_stall_us * 1000 ≤ s.clk →
    ((s.bar p b).told = false → s.logs = true → Gives (.barrierStall p b) s fun t =>
      (t.bar p b).told = true ∧ (t.bar p b).arrived = (s.bar p b).arrived ∧
      (∃ e ∈ t.mon.logVol, e.cls = .fault ∧ e.code = 0x1203 ∧ e.inst = p ∧ e.arg0 = b) ∧ t.mem = s.mem) ∧
    ((s.bar p b).told = true → exec (.barrierStall p b) s = .next s)) ∧
  (∀ (s : State) (m p d : Nat) (v : Word), p < 64 → d < 8 → s.check m (regBase + Reg.pltDisp p d) = none →
    Gives (.dispLimitWrite m p d v) s fun t =>
      t.rf (Reg.pltDisp p d) F.pltDisp_limit = fld v 31 0 ∧ t.rf (Reg.pltDisp p d) F.pltDisp_next = 0 ∧
      (∀ b, b < 32 → mget (t.plate p).claims (d * 32 + b) = none) ∧ Kept s t ∧ RegsKept s t [Reg.pltDisp p d]) ∧
  (∀ (s : State) (p r b : Nat), p < 64 → s.exposedOf p r = some b → s.lost p = false → s.rf (Reg.pltStatus p) F.pltStatus_spares ≠ 0 →
    ((s.plate p).retired.contains r = false → Gives (.burinSubstitution p (some r)) s fun t =>
      (t.plate p).retired = (s.plate p).retired ++ [r] ∧ t.substPend p = true ∧ Kept s t ∧ RegsKept s t [Reg.pltStatus p]) ∧
    (s.runs p = false → (s.plate p).retired = [r] → s.pd 94 = 2 → s.mon.evQ.length < 512 → Gives (.burinSubstitution p none) s fun t =>
      t.phys p b = s.spareOf p ∧ t.rf (Reg.pltStatus p) F.pltStatus_spares = s.rf (Reg.pltStatus p) F.pltStatus_spares - 1 ∧
      (t.plate p).retired = [] ∧ r ∈ (t.plate p).spent ∧ t.substPend p = false ∧
      (∃ e, t.mon.evQ = s.mon.evQ ++ [e] ∧ e.code = 0x1204) ∧ Kept s t ∧ RegsKept s t [Reg.pltStatus p, Reg.pltMap p (b / 8)]))

/-! ### The burin instruction set (13_burin_isa.md, 14_burin_opcodes.md, 15_arithmetic.md) -/

/-- The words of NOP and of VNOP. -/
def Sys2Proof.Machine.nopWord : Nat := 0
@[inherit_doc Sys2Proof.Machine.nopWord] def Sys2Proof.Machine.vnopWord : Nat := 0x8000000000000000

/-- Core c executes the bundle of the words sw and vw next: it runs, its PC lies in instruction memory, the bundle reads without a double-bit
error, each word is legal in its slot, and no two of its writes collide (R283-R286). -/
def Sys2Proof.Machine.Ready (s : State) (c : Core) (e : Env) (sw vw : Nat) : Prop :=
  (s.core c).run = .running ∧ (s.core c).pc < pcEnd c ∧ s.bundleAt c (s.core c).pc = (sw, vw) ∧ (s.core c).alone = false ∧
  fetchDbe c (s.core c).pc e = none ∧ wordOk (kindOf c) false sw = true ∧ wordOk (kindOf c) true vw = true ∧ pairOk sw vw = true

/-- Core x after a bundle that goes on in sequence and whose effect on its registers is y: the loops step, the shadow shrinks, a delay slot
goes to its branch's target (R291-R296); w0 and w1 say which loop registers the bundle wrote. -/
def Sys2Proof.Machine.After (x y : CoreSt) (w0 w1 : Bool := false) : CoreSt :=
  let l := if x.handler then (y, none) else loopsAfter x y (x.pc / 16) w0 w1
  { l.1 with pc := (match x.delay with | some d => d.2 | none => l.2.getD (x.pc + 16)), shadow := x.shadow - 1, delay := none, alone := false }

/-- Nothing but core c changes, and it becomes y; the count of single-bit errors of its plate apart. -/
def Sys2Proof.Machine.CoreOnly (s t : State) (c : Core) (y : CoreSt) : Prop :=
  t = { s with regs := t.regs, plt.cores := t.plt.cores, free := t.free } ∧ (∀ k, (∀ p, k ≠ Reg.monEcc p) → t.rd k = s.rd k) ∧
  (∀ d, Core.key d ≠ Core.key c → t.core d = s.core d) ∧ t.core c = y

/-- The draws of n roundings under a word's rounding, and the generator after them (R342, R343). -/
def Sys2Proof.Machine.drawn (x : CoreSt) (w n : Nat) : List Nat × Nat :=
  if (Rnd.ofMode (modeOf x) (rndF w)).draws then srTake true n x.srseed.toNat else ([], x.srseed.toNat)

/-- Core y with the flags raised and the generator left as given. -/
def Sys2Proof.Machine.CoreSt.fin (y : CoreSt) (fl : Flags) (seed : Nat) : CoreSt :=
  { y with flags := y.flags ||| BitVec.ofNat 64 fl, srseed := BitVec.ofNat 64 seed }

/-- No flag that is raised takes FPTRAP (R306, R307). -/
def Sys2Proof.Machine.NoTrap (x : CoreSt) (fl : Flags) : Prop := Nat.land fl (trapsOf x) = 0

/-- The rows of two-operand and immediate integer arithmetic, with what they compute from `A` and `B` or the immediate (Table 14-1). -/
def Sys2Proof.Machine.intRows : List ((Core → Env → Instr) × Nat × (Word → Word → Word)) :=
  [(.add, 0x01, fun a b => a + b), (.sub, 0x02, fun a b => a - b), (.mul, 0x03, fun a b => a * b),
   (.mulh, 0x04, fun a b => ((a.signExtend 128 * b.signExtend 128) >>> 64).setWidth 64),
   (.mulhu, 0x05, fun a b => ((a.setWidth 128 * b.setWidth 128) >>> 64).setWidth 64),
   (.div, 0x06, fun a b => if b = 0 then BitVec.allOnes 64 else a.sdiv b),
   (.divu, 0x07, fun a b => if b = 0 then BitVec.allOnes 64 else a / b),
   (.rem, 0x08, fun a b => if b = 0 then a else a.srem b), (.remu, 0x09, fun a b => if b = 0 then a else a % b),
   (.and, 0x0A, fun a b => a &&& b), (.or, 0x0B, fun a b => a ||| b), (.xor, 0x0C, fun a b => a ^^^ b),
   (.shl, 0x0D, fun a b => a <<< (b.toNat % 64)), (.shr, 0x0E, fun a b => a >>> (b.toNat % 64)),
   (.sra, 0x0F, fun a b => a.sshiftRight (b.toNat % 64)), (.slt, 0x10, fun a b => if a.slt b then 1 else 0),
   (.sltu, 0x11, fun a b => if a.ult b then 1 else 0), (.min, 0x12, fun a b => if a.sle b then a else b),
   (.max, 0x13, fun a b => if a.sle b then b else a),
   (.clz, 0x14, fun a _ => BitVec.ofNat 64 ((List.range 65).foldr (fun n r => if a.toNat < 2 ^ (64 - n) then max n r else r) 0)),
   (.popc, 0x15, fun a _ => BitVec.ofNat 64 ((List.range 64).countP fun i => a.getLsbD i)),
   (.addi, 0x18, fun a b => a + b), (.andi, 0x19, fun a b => a &&& b), (.ori, 0x1A, fun a b => a ||| b),
   (.xori, 0x1B, fun a b => a ^^^ b), (.shli, 0x1C, fun a b => a <<< (b.toNat % 64)), (.shri, 0x1D, fun a b => a >>> (b.toNat % 64)),
   (.srai, 0x1E, fun a b => a.sshiftRight (b.toNat % 64)), (.slti, 0x1F, fun a b => if a.slt b then 1 else 0)]

/-- The rows of scalar floating point with what they compute from a format, a rounding, a draw and their operands (Table 14-2). -/
def Sys2Proof.Machine.fpRows : List ((Core → Env → Instr) × Nat × (Fmt → Rnd → Nat → Nat → Nat → Nat → Nat × Flags)) :=
  [(.fadd, 0x28, fun f r d a b _ => f.add r d a b), (.fsub, 0x29, fun f r d a b _ => f.sub r d a b),
   (.fmul, 0x2A, fun f r d a b _ => f.mul r d a b), (.ffma, 0x2B, fun f r d a b c => f.fma r d a b c),
   (.fdiv, 0x2C, fun f r d a b _ => f.div r d a b), (.fsqrt, 0x2D, fun f r d a _ _ => f.sqrt r d a),
   (.fmin, 0x2E, fun f r _ a b _ => f.minmax false r.daz a b), (.fmax, 0x2F, fun f r _ a b _ => f.minmax true r.daz a b),
   (.fcmpeq, 0x30, fun f r _ a b _ => (b2n (f.cmp .eq r.daz a b).1, (f.cmp .eq r.daz a b).2)),
   (.fcmplt, 0x31, fun f r _ a b _ => (b2n (f.cmp .lt r.daz a b).1, (f.cmp .lt r.daz a b).2)),
   (.fcmple, 0x32, fun f r _ a b _ => (b2n (f.cmp .le r.daz a b).1, (f.cmp .le r.daz a b).2))]

/-- NOP, VNOP, MSYNC and the rows of scalar arithmetic, from ADD to LIH and from FADD to FCVT: the bundle at the PC executes, beside a VNOP;
the destination takes what Tables 14-1 and 14-2 say of the operands as they stood, a write of s0 is discarded, the flags raised are added to
`FLAGS`, stochastic rounding steps the generator, the core goes on, and nothing else changes.
What in it is the model's own choice is said in log 42, 43. -/
def Obligations.ScalarArithmeticWritesItsDestination : Prop :=
  (∀ (s : State) (c : Core) (e : Env), Ready s c e nopWord vnopWord →
    (Gives (.nop c e) s fun t => CoreOnly s t c (After (s.core c) (s.core c))) ∧
    (Gives (.vnop c e) s fun t => CoreOnly s t c (After (s.core c) (s.core c)))) ∧
  (∀ (s : State) (c : Core) (e : Env) (w : Nat), Ready s c e w vnopWord → opc w = 0x4C →
    Gives (.msync c e) s fun t => CoreOnly s t c (After (s.core c) (s.core c))) ∧
  (∀ r ∈ intRows, ∀ (s : State) (c : Core) (e : Env) (w : Nat), Ready s c e w vnopWord → opc w = r.2.1 →
    Gives (r.1 c e) s fun t =>
      let x := s.core c
      let b : Word := if r.2.1 < 0x18 then x.sr (rB w) else (BitVec.ofNat 32 (imm32 w)).signExtend 64
      CoreOnly s t c (After x (x.setS (rD w) (r.2.2 (x.sr (rA w)) b)))) ∧
  (∀ (s : State) (c : Core) (e : Env) (w : Nat), Ready s c e w vnopWord →
    (opc w = 0x20 → Gives (.li c e) s fun t =>
      CoreOnly s t c (After (s.core c) ((s.core c).setS (rD w) ((BitVec.ofNat 48 w).signExtend 64)))) ∧
    (opc w = 0x21 → Gives (.lih c e) s fun t =>
      CoreOnly s t c (After (s.core c) ((s.core c).setS (rD w)
        (BitVec.ofNat 32 (imm32 w) ++ ((s.core c).sr (rA w)).setWidth 32))))) ∧
  (∀ r ∈ fpRows, ∀ (s : State) (c : Core) (e : Env) (w : Nat), Ready s c e w vnopWord → opc w = r.2.1 →
    let x := s.core c
    let d := if r.2.1 < 0x2E then drawn x w 1 else ([], x.srseed.toNat)
    let z (n : Nat) : Nat := if typR w = 8 then (x.sr n).toNat else (x.sr n).toNat % 2 ^ 32
    let y := r.2.2 (if typR w = 8 then .fp64 else .fp32) (Rnd.ofMode (modeOf x) (rndF w)) (d.1.headD 0) (z (rA w)) (z (rB w)) (z (rC w))
    NoTrap x y.2 → Gives (r.1 c e) s fun t => CoreOnly s t c (After x ((x.setS (rD w) (BitVec.ofNat 64 y.1)).fin y.2 d.2))) ∧
  (∀ (s : State) (c : Core) (e : Env) (w : Nat) (a b : Elt), Ready s c e w vnopWord → opc w = 0x33 → Elt.ofCode (typR w) = some a →
    Elt.ofCode (rC w) = some b →
    let x := s.core c
    let d := if ints.contains a && ints.contains b then ([], x.srseed.toNat) else drawn x w 1
    let y := convert a b (Rnd.ofMode (modeOf x) (rndF w)) (d.1.headD 0) ((x.sr (rA w)).toNat % 2 ^ a.width)
    NoTrap x y.2 → Gives (.fcvt c e) s fun t =>
      CoreOnly s t c (After x ((x.setS (rD w) (if b = .i32 then (BitVec.ofNat 32 y.1).signExtend 64 else BitVec.ofNat 64 y.1)).fin y.2 d.2)))

/-- The n bytes at address a are those at DPA d, in memory that the core reaches, past the checks and in device bias (R297-R300). -/
def Sys2Proof.Machine.Reaches (s : State) (c : Core) (a n d : Nat) (wr : Bool) : Prop :=
  inSegment c a n = true ∧ isScratch c a = false ∧ dpaOf c a = d ∧ d + n ≤ regBase ∧ s.biased d n = false ∧
  (segOf a = 2 → s.dpaCheck (coreMaster c) d n wr = none)

/-- A load leaves core c as y, and nothing else changed but the count of single-bit errors and the meter of bytes read. -/
def Sys2Proof.Machine.LoadOnly (s t : State) (c : Core) (y : CoreSt) : Prop :=
  Kept s t ∧ (∀ k, (∀ p, k ≠ Reg.monEcc p) → (∀ f, k ≠ Reg.vfmMeter f 4) → t.rd k = s.rd k) ∧
  (∀ d, Core.key d ≠ Core.key c → t.core d = s.core d) ∧ t.core c = y

/-- A store leaves core c as y, and the queue, the timebase, every other core and every register as they were, but the count of single-bit
errors and the meters of bytes read and written (the copies kept for undo count there, R423). -/
def Sys2Proof.Machine.StoreOnly (s t : State) (c : Core) (y : CoreSt) : Prop :=
  t.pending = s.pending ∧ t.grade = s.grade ∧ t.time = s.time ∧
  (∀ k, (∀ p, k ≠ Reg.monEcc p) → (∀ f i, i = 4 ∨ i = 5 → k ≠ Reg.vfmMeter f i) → t.rd k = s.rd k) ∧
  (∀ d, Core.key d ≠ Core.key c → t.core d = s.core d) ∧ t.core c = y

/-- The address of a format M word (R297). -/
def Sys2Proof.Machine.addrM (x : CoreSt) (w : Nat) : Nat :=
  wrap 64 (((x.sr (rA w)).toNat : Int) + (x.sr (rB w)).toNat * 2 ^ shM w + dispM w)

/-- Whether a slot of 32 bits, or an element of b bits, of a format M word is active. -/
def Sys2Proof.Machine.actM (x : CoreSt) (w b i : Nat) : Bool := !mvM w || nbit (x.mr (mM w)) (i * b / 32)

/-- The address of element i of a strided access, and of a gather or scatter (R329). -/
def Sys2Proof.Machine.elemAt (x : CoreSt) (w : Nat) (idx : Bool) (i : Nat) : Nat :=
  wrap 64 (((x.sr (rA w)).toNat : Int) + dispM w +
    if idx then eltAt 32 (x.vr (rB w)) (i * (eltM w).width / 32) else i * (x.sr (rB w)).toNat)

/-- LD, LDU, ST, AADD, ASWAP, ACAS, AFADD: a load gives its register the bytes at its address, extended; a store puts the low bytes of its
register there and changes no other byte; an atomic gives the old value and stores what R320 says of it; a load of a register and of scratch
reads them.
What in it is the model's own choice is said in log 42, 43, 44. -/
def Obligations.ScalarMemoryInstructionsAccessMemory : Prop :=
  (∀ r ∈ ([(.ld, 0x38, true), (.ldu, 0x39, false)] : List ((Core → Env → Instr) × Nat × Bool)),
    ∀ (s : State) (c : Core) (e : Env) (w d : Nat), Ready s c e w vnopWord → opc w = r.2.1 →
    let x := s.core c
    let n := scalarSize (typM w)
    addrM x w % n = 0 →
    (Reaches s c (addrM x w) n d false → dbeIn e d n = none → Gives (r.1 c e) s fun t =>
      LoadOnly s t c (After x (x.setS (rD w)
        (if r.2.2 then (BitVec.ofNat (8 * n) (s.ldN d n)).signExtend 64 else BitVec.ofNat 64 (s.ldN d n))))) ∧
    (inSegment c (addrM x w) n = true → segOf (addrM x w) = 2 → dpaOf c (addrM x w) = d → regBase ≤ d →
      s.dpaCheck (coreMaster c) d n false = none → dbeIn e d n = none → Gives (r.1 c e) s fun t =>
        t.core c = After x (x.setS (rD w) (if r.2.2 then (BitVec.ofNat (8 * n) (leNat (s.busRead (coreMaster c) d n).2)).signExtend 64
          else BitVec.ofNat 64 (leNat (s.busRead (coreMaster c) d n).2))) ∧ t.mem = s.mem) ∧
    (∀ i bs, c = .tport i → segOf (addrM x w) = 0 → inSegment c (addrM x w) n = true → bs.length = n →
      (∀ j, j < n → mget s.plt.scratch (i * 4096 + addrM x w + j) = some (bs.getD j 0)) → Gives (r.1 c e) s fun t =>
        LoadOnly s t c (After x (x.setS (rD w)
          (if r.2.2 then (BitVec.ofNat (8 * n) (leNat bs)).signExtend 64 else BitVec.ofNat 64 (leNat bs)))))) ∧
  (∀ (s : State) (c : Core) (e : Env) (w d : Nat), Ready s c e w vnopWord → opc w = 0x3A →
    let x := s.core c
    let n := scalarSize (typM w)
    addrM x w % n = 0 →
    (NoDirtyLog s → Reaches s c (addrM x w) n d true → Gives (.st c e) s fun t =>
      (∀ j, t.byte j = if d ≤ j ∧ j < d + n then BitVec.ofNat 8 ((x.sr (rD w)).toNat / 256 ^ (j - d)) else s.byte j) ∧
      StoreOnly s t c (After x x)) ∧
    (∀ i, c = .tport i → segOf (addrM x w) = 0 → inSegment c (addrM x w) n = true → Gives (.st c e) s fun t =>
      (∀ j, j < n → mget t.plt.scratch (i * 4096 + addrM x w + j) = some (BitVec.ofNat 8 ((x.sr (rD w)).toNat / 256 ^ j))) ∧
      t.mem = s.mem ∧ StoreOnly s t c (After x x))) ∧
  (∀ r ∈ ([(.aadd, 0x3C, fun o b _ => o + b), (.aswap, 0x3D, fun _ b _ => b), (.acas, 0x3E, fun o b g => if o = g then b else o),
      (.afadd, 0x3F, fun o b _ => BitVec.ofNat 64 (Fmt.fp64.add ⟨.rne, false, false⟩ 0 o.toNat b.toNat).1)] :
      List ((Core → Env → Instr) × Nat × (Word → Word → Word → Word))),
    ∀ (s : State) (c : Core) (e : Env) (w d : Nat), Ready s c e w vnopWord → opc w = r.2.1 →
    let x := s.core c
    let a := (x.sr (rA w) + (BitVec.ofNat 32 (imm32 w)).signExtend 64).toNat
    let old := BitVec.ofNat 64 (s.ldN d 8)
    a % 8 = 0 → segOf a < 2 → Reaches s c a 8 d false → dbeIn e d 8 = none → Gives (r.1 c e) s fun t =>
      (∀ j, t.byte j = if d ≤ j ∧ j < d + 8 then BitVec.ofNat 8 ((r.2.2 old (x.sr (rB w)) (x.sr (rD w))).toNat / 256 ^ (j - d))
        else s.byte j) ∧ StoreOnly s t c (After x (x.setS (rD w) old)))

/-- VLD, VLD2, VST, VLDS, VSTS, VGATH, VSCAT, ACCLD, ACCST: every active slot or element is read or written at its own address and an
inactive one is left alone; of elements stored at one address the highest-numbered remains; an accumulator moves whole; no other byte of
memory changes.
What in it is the model's own choice is said in log 42, 43. -/
def Obligations.VectorMemoryInstructionsAccessMemory : Prop :=
  (∀ (s : State) (c : Core) (e : Env) (w : Nat), Ready s c e nopWord w → opc w = 0xB8 →
    let x := s.core c
    (∀ i, i < 64 → actM x w 32 i = true → addrM x w % 64 = 0 ∧
      Reaches s c (addrM x w + 4 * i) 4 (dpaOf c (addrM x w + 4 * i)) false ∧ dbeIn e (dpaOf c (addrM x w + 4 * i)) 4 = none) →
    Gives (.vld c e) s fun t => ∃ v, LoadOnly s t c (After x (x.setV (rD w) v)) ∧
      ∀ i, i < 64 → eltAt 32 v i = if actM x w 32 i then s.ldN (dpaOf c (addrM x w + 4 * i)) 4 else eltAt 32 (x.vr (rD w)) i) ∧
  (∀ (s : State) (c : Core) (e : Env) (w : Nat), Ready s c e nopWord w → opc w = 0xBE →
    let x := s.core c
    (∀ i, i < 128 → actM x w 32 (i % 64) = true → addrM x w % 64 = 0 ∧
      Reaches s c (addrM x w + 4 * i) 4 (dpaOf c (addrM x w + 4 * i)) false ∧ dbeIn e (dpaOf c (addrM x w + 4 * i)) 4 = none) →
    Gives (.vld2 c e) s fun t => ∃ v u, LoadOnly s t c (After x ((x.setV (rD w) v).setV (rD w + 1) u)) ∧
      (∀ i, i < 64 → eltAt 32 v i = if actM x w 32 i then s.ldN (dpaOf c (addrM x w + 4 * i)) 4 else eltAt 32 (x.vr (rD w)) i) ∧
      (∀ i, i < 64 → eltAt 32 u i =
        if actM x w 32 i then s.ldN (dpaOf c (addrM x w + 256 + 4 * i)) 4 else eltAt 32 (x.vr (rD w + 1)) i)) ∧
  (∀ (s : State) (c : Core) (e : Env) (w : Nat), Ready s c e nopWord w → opc w = 0xB9 → NoDirtyLog s →
    let x := s.core c
    let d (i : Nat) : Nat := dpaOf c (addrM x w + 4 * i)
    (∀ i, i < 64 → actM x w 32 i = true → addrM x w % 64 = 0 ∧ Reaches s c (addrM x w + 4 * i) 4 (d i) true) →
    Gives (.vst c e) s fun t => StoreOnly s t c (After x x) ∧
      (∀ i m, i < 64 → m < 4 → actM x w 32 i = true → t.byte (d i + m) = BitVec.ofNat 8 (eltAt 8 (x.vr (rD w)) (4 * i + m))) ∧
      (∀ j, (∀ i, i < 64 → actM x w 32 i = true → ¬ (d i ≤ j ∧ j < d i + 4)) → t.byte j = s.byte j)) ∧
  (∀ r ∈ ([(.vlds, 0xBA, false), (.vgath, 0xBC, true)] : List ((Core → Env → Instr) × Nat × Bool)),
    ∀ (s : State) (c : Core) (e : Env) (w : Nat), Ready s c e nopWord w → opc w = r.2.1 →
    let x := s.core c
    let n := (eltM w).width / 8
    let d (i : Nat) : Nat := dpaOf c (elemAt x w r.2.2 i)
    (∀ i, i < 256 / n → actM x w (8 * n) i = true →
      elemAt x w r.2.2 i % n = 0 ∧ Reaches s c (elemAt x w r.2.2 i) n (d i) false ∧ dbeIn e (d i) n = none) →
    Gives (r.1 c e) s fun t => ∃ v, LoadOnly s t c (After x (x.setV (rD w) v)) ∧
      ∀ i, i < 256 / n → eltAt (8 * n) v i = if actM x w (8 * n) i then s.ldN (d i) n else eltAt (8 * n) (x.vr (rD w)) i) ∧
  (∀ r ∈ ([(.vsts, 0xBB, false), (.vscat, 0xBD, true)] : List ((Core → Env → Instr) × Nat × Bool)),
    ∀ (s : State) (c : Core) (e : Env) (w : Nat), Ready s c e nopWord w → opc w = r.2.1 → NoDirtyLog s →
    let x := s.core c
    let n := (eltM w).width / 8
    let d (i : Nat) : Nat := dpaOf c (elemAt x w r.2.2 i)
    (∀ i, i < 256 / n → actM x w (8 * n) i = true → elemAt x w r.2.2 i % n = 0 ∧ Reaches s c (elemAt x w r.2.2 i) n (d i) true) →
    Gives (r.1 c e) s fun t => StoreOnly s t c (After x x) ∧
      (∀ i m, i < 256 / n → m < n → actM x w (8 * n) i = true →
        (∀ j, i < j → j < 256 / n → actM x w (8 * n) j = true → d j ≠ d i) →
        t.byte (d i + m) = BitVec.ofNat 8 (eltAt 8 (x.vr (rD w)) (n * i + m))) ∧
      (∀ j, (∀ i, i < 256 / n → actM x w (8 * n) i = true → ¬ (d i ≤ j ∧ j < d i + n)) → t.byte j = s.byte j)) ∧
  (∀ (s : State) (c : Core) (e : Env) (w d : Nat), Ready s c e nopWord w → addrM (s.core c) w % 64 = 0 → segOf (addrM (s.core c) w) < 2 →
    let x := s.core c
    (opc w = 0xC4 → Reaches s c (addrM x w) 4096 d false → dbeIn e d 4096 = none → Gives (.accld c e) s fun t =>
      ∃ l, l.length = 1024 ∧ LoadOnly s t c (After x (x.setAcc (rD w) 0 l)) ∧ ∀ n, n < 1024 → l.getD n 0 = s.ldN (d + 4 * n) 4) ∧
    (opc w = 0xC5 → NoDirtyLog s → Reaches s c (addrM x w) 4096 d true → Gives (.accst c e) s fun t =>
      (∀ j, t.byte j = if d ≤ j ∧ j < d + 4096 then
        BitVec.ofNat 8 (x.accE (rD w) ((j - d) / 128) ((j - d) / 4 % 32) / 256 ^ ((j - d) % 4)) else s.byte j) ∧
      StoreOnly s t c (After x x)))

/-- Where a relative branch at x goes (R292). -/
def Sys2Proof.Machine.relAt (x : CoreSt) (w : Nat) : Int := (x.pc : Int) + 16 * (BitVec.ofNat 32 (imm32 w)).toInt

/-- Whether a branch may stand at x: not in a delay slot, in a shadow, or in the last bundle of an active loop or the one before it. -/
def Sys2Proof.Machine.MayBranch (x : CoreSt) : Prop :=
  x.delay = none ∧ x.shadow = 0 ∧ lastOf x (x.pc / 16) = false ∧ lastOf x (x.pc / 16 + 1) = false

/-- Core x once a branch has been decided: the delay slot is next, then the target (R292). -/
def Sys2Proof.Machine.CoreSt.branched (y : CoreSt) (pc target : Nat) : CoreSt := { y with pc := pc + 16, delay := some (pc, target) }

/-- BEQ, BNE, BLT, BGE, BLTU, BGEU, CALL, JR, LOOP, SETMODE, CRD, CWR, PHASE, HALT: a branch decides on its operands and its delay slot runs
next; CALL and JR link; a loop is armed, or skipped where its count is 0; `MODE` changes behind a shadow of two bundles; control registers are
read and written; a phase is noted; a core halts. After the END bundle of an active loop `COUNT` falls and execution goes back to START
while it is above 0.
What in it is the model's own choice is said in log 42, 43, 44. -/
def Obligations.BranchesLoopsAndModesTakeEffect : Prop :=
  (∀ r ∈ ([(.beq, 0x40, fun a b => a == b), (.bne, 0x41, fun a b => a != b), (.blt, 0x42, fun a b => a.slt b),
      (.bge, 0x43, fun a b => b.sle a), (.bltu, 0x44, fun a b => a.ult b), (.bgeu, 0x45, fun a b => b.ule a)] :
      List ((Core → Env → Instr) × Nat × (Word → Word → Bool))),
    ∀ (s : State) (c : Core) (e : Env) (w : Nat), Ready s c e w vnopWord → opc w = r.2.1 → MayBranch (s.core c) →
    0 ≤ relAt (s.core c) w → relAt (s.core c) w ≤ 0x3FFF0 → Gives (r.1 c e) s fun t =>
      let x := s.core c
      CoreOnly s t c (x.branched x.pc (if r.2.2 (x.sr (bA w)) (x.sr (bB w)) then (relAt x w).toNat else x.pc + 32))) ∧
  (∀ (s : State) (c : Core) (e : Env) (w : Nat), Ready s c e w vnopWord → MayBranch (s.core c) →
    let x := s.core c
    (opc w = 0x46 → 0 ≤ relAt x w → relAt x w ≤ 0x3FFF0 → Gives (.call c e) s fun t =>
      CoreOnly s t c ((x.setS (bA w) (BitVec.ofNat 64 (x.pc + 32))).branched x.pc (relAt x w).toNat)) ∧
    (opc w = 0x47 → (x.sr (rA w)).toNat % 16 = 0 → (x.sr (rA w)).toNat ≤ 0x3FFF0 → Gives (.jr c e) s fun t =>
      CoreOnly s t c ((x.setS (rD w) (BitVec.ofNat 64 (x.pc + 32))).branched x.pc (x.sr (rA w)).toNat))) ∧
  (∀ (s : State) (c : Core) (e : Env) (w : Nat), Ready s c e w vnopWord → opc w = 0x48 →
    let x := s.core c
    let i := x.pc / 16
    let en := i + nbits (imm32 w) 13 0
    let n := if rA w = 0 then nbits (imm32 w) 31 16 else (x.sr (rA w)).toNat % 2 ^ 32
    let v := BitVec.ofNat 64 (i + 1 + en * 2 ^ 14 + n * 2 ^ 32)
    x.delay = none → x.handler = false → en ≤ 16383 →
    (rD w = 1 → loopCount x.loop0 ≠ 0 → loopStart x.loop0 ≤ i + 1 ∧ en ≤ loopEnd x.loop0) → (rD w = 0 → loopCount x.loop1 = 0) →
    Gives (.loop c e) s fun t =>
      let z := { After x x with pc := if n = 0 then (en + 1) * 16 else x.pc + 16 }
      CoreOnly s t c (if rD w = 0 then { z with loop0 := v } else { z with loop1 := v })) ∧
  (∀ (s : State) (c : Core) (e : Env) (w : Nat), Ready s c e w vnopWord →
    let x := s.core c
    (opc w = 0x49 → x.delay = none → x.shadow = 0 → Gives (.setmode c e) s fun t =>
      CoreOnly s t c { After x x with
        mode := x.mode >>> 10 <<< 10 ||| BitVec.ofNat 64 ((if fmtOf w = 1 then imm32 w else (x.sr (rA w)).toNat) % 1024),
        shadow := 2, oldMode := x.mode }) ∧
    (opc w = 0x4A → Gives (.crd c e) s fun t => ∃ v, CoreOnly s t c (After x (x.setS (rD w) v)) ∧
      match crOf w with
      | 0 => v = x.mode | 1 => v = x.flags | 2 => v = x.loop0 | 3 => v = x.loop1 | 4 => v = x.epc | 5 => v = x.ecause
      | 6 => v = x.eaddr | 7 => v = x.evec | 8 => v = x.srseed | 10 => v = BitVec.ofNat 64 s.time | _ => True) ∧
    (opc w = 0x4B → Gives (.cwr c e) s fun t =>
      let v := x.sr (rA w)
      CoreOnly s t c (match crOf w with
        | 1 => After x { x with flags := v &&& 31 } | 2 => After x { x with loop0 := v } true false
        | 3 => After x { x with loop1 := v } false true | 4 => After x { x with epc := v } | 5 => After x { x with ecause := v }
        | 6 => After x { x with eaddr := v } | 7 => After x (if kindOf c = .tport then x else { x with evec := v })
        | _ => After x { x with srseed := v })) ∧
    (opc w = 0x4D → Gives (.phase c e) s fun t => t.core c = After x x ∧ Kept s t ∧
      (∀ d, Core.key d ≠ Core.key c → t.core d = s.core d) ∧
      ∀ p, t.plate p = if c = .seq p then { s.plate p with phase := imm32 w % 16 } else s.plate p) ∧
    (opc w = 0x4E → Gives (.halt c e) s fun t => t.core c = { After x x with run := .halted } ∧ Kept s t ∧
      ∀ p b, c = .burin p b → p < 64 → b < 32 → ∀ j, j < 32 → nbit (t.running p) j = if j = b then false else nbit (s.running p) j)) ∧
  (∀ (s : State) (c : Core) (e : Env), Ready s c e nopWord vnopWord → (s.core c).handler = false → (s.core c).delay = none →
    let x := s.core c
    (loopCount x.loop1 = 0 → loopEnd x.loop0 = x.pc / 16 → 1 < loopCount x.loop0 → Gives (.nop c e) s fun t =>
      (t.core c).pc = loopStart x.loop0 * 16 ∧ loopCount (t.core c).loop0 = loopCount x.loop0 - 1 ∧
        loopStart (t.core c).loop0 = loopStart x.loop0 ∧ loopEnd (t.core c).loop0 = loopEnd x.loop0 ∧ (t.core c).loop1 = x.loop1) ∧
    (loopEnd x.loop1 = x.pc / 16 → 1 < loopCount x.loop1 → Gives (.nop c e) s fun t =>
      (t.core c).pc = loopStart x.loop1 * 16 ∧ loopCount (t.core c).loop1 = loopCount x.loop1 - 1 ∧ (t.core c).loop0 = x.loop0) ∧
    (loopEnd x.loop1 = x.pc / 16 → loopCount x.loop1 = 1 → loopCount x.loop0 = 0 → Gives (.nop c e) s fun t =>
      (t.core c).pc = x.pc + 16 ∧ loopCount (t.core c).loop1 = 0))

/-- A handled exception has been taken (R306, R307, Tables 13-5 and 13-9): the record, and the handler. -/
def Sys2Proof.Machine.Handled (x y : CoreSt) (resume : Nat) (ds aft slotV : Bool) (shadow : Nat) (code addr info : Nat) : Prop :=
  y.epc = BitVec.ofNat 64 resume ∧ y.eaddr = BitVec.ofNat 64 addr ∧ fld y.ecause 7 0 = code ∧ fld y.ecause 8 8 = b2n ds ∧
  fld y.ecause 10 9 = shadow ∧ fld y.ecause 11 11 = b2n slotV ∧ fld y.ecause 12 12 = b2n aft ∧
  fld y.ecause 31 16 = (if shadow = 0 then 0 else fld x.oldMode 15 0) ∧ fld y.ecause 63 32 = info ∧
  y.pc = fld x.evec 13 0 * 16 ∧ y.handler = true ∧ y.shadow = 0 ∧ y.delay = none ∧ y.alone = false

/-- A before exception of the bundle at the PC: it leaves every register of the core but the record as it was; in a delay slot the branch is
what resumes (R306, Table 13-12). -/
def Sys2Proof.Machine.HandledBefore (s t : State) (c : Core) (slotV : Bool) (code addr info : Nat) : Prop :=
  let x := s.core c
  let y := t.core c
  Handled x y (match x.delay with | some d => d.1 | none => x.pc) x.delay.isSome false slotV (if x.delay.isSome then 0 else x.shadow) code addr
    info ∧ y.s = x.s ∧ y.v = x.v ∧ y.m = x.m ∧ y.acc = x.acc ∧ y.mode = x.mode ∧ y.flags = x.flags ∧ y.loop0 = x.loop0 ∧ y.loop1 = x.loop1 ∧
  y.evec = x.evec ∧ y.srseed = x.srseed ∧ t.mem = s.mem ∧ t.pending = s.pending

/-- BREAK, TRAP, ERET and the exceptions: where the handler is enabled and not running, an exception saves the resume point, the cause and the
address and goes to the handler; BREAK and TRAP after their bundle, the others before it with nothing of the bundle done. ERET resumes as
`EPC` and `ECAUSE` say. One that is not handled stops the plate with its record.
What in it is the model's own choice is said in log 42, 43. -/
def Obligations.ExceptionsAreTakenAndReturnedFrom : Prop :=
  (∀ r ∈ ([(.brk, 0x4F, 8), (.trap, 0x50, 9)] : List ((Core → Env → Instr) × Nat × Nat)),
    ∀ (s : State) (c : Core) (e : Env) (w : Nat), Ready s c e w vnopWord → opc w = r.2.1 →
    let x := s.core c
    x.shadow ≤ 3 →
    (kindOf c ≠ .tport → nbit x.evec.toNat 63 = true → x.handler = false → Gives (r.1 c e) s fun t =>
      Handled x (t.core c) (After x x).pc false true false (x.shadow - 1) r.2.2 x.pc (imm32 w) ∧ (t.core c).s = x.s ∧ Kept s t) ∧
    (∀ p, corePlate c = some p → p < 64 → (∀ b, c = .burin p b → b < 32) → nbit x.evec.toNat 63 = false ∨ x.handler = true →
      s.runs p = true → (s.plate p).stopping = none → NoColl s → Gives (r.1 c e) s fun t =>
        (t.plate p).stopping = some 3 ∧ t.on (Reg.pltStatus p) F.pltStatus_exc = true ∧ t.rf (Reg.pltExc p) F.pltExc_cause = r.2.2 ∧
        t.rf (Reg.pltExc p) F.pltExc_epc = (After x x).pc % 2 ^ 18 ∧ t.rd (Reg.pltExcAddr p) = BitVec.ofNat 64 x.pc ∧
        t.on (Reg.pltExc p) F.pltExc_double = x.handler ∧
        (∀ i, i < 33 → (t.core (participant p i)).run = .halted) ∧ t.mem = s.mem ∧ t.pending = s.pending)) ∧
  (∀ (s : State) (c : Core) (e : Env) (w : Nat), Ready s c e w vnopWord → opc w = 0x51 → (s.core c).handler = true → (s.core c).shadow = 0 →
    let x := s.core c
    Gives (.eret c e) s fun t => CoreOnly s t c { x with
      pc := fld x.epc 17 4 * 16, handler := false, alone := nbit x.ecause.toNat 8, shadow := fld x.ecause 10 9,
      oldMode := BitVec.ofNat 64 (fld x.ecause 31 16), delay := none }) ∧
  (∀ (s : State) (c : Core) (e : Env), (s.core c).run = .running → kindOf c ≠ .tport → nbit (s.core c).evec.toNat 63 = true →
    (s.core c).handler = false → (s.core c).shadow ≤ 3 → (s.core c).alone = false →
    let x := s.core c
    -- past the end of instruction memory; a word that is not legal in its slot
    (pcEnd c ≤ x.pc → Gives (.nop c e) s fun t => HandledBefore s t c false 10 x.pc 0) ∧
    (∀ r ∈ intRows, ∀ sw vw, x.pc < pcEnd c → s.bundleAt c x.pc = (sw, vw) → fetchDbe c x.pc e = none → opc sw = r.2.1 →
      (wordOk (kindOf c) false sw = false ∨ pairOk sw vw = false → Gives (r.1 c e) s fun t => HandledBefore s t c false 1 x.pc 0) ∧
      (wordOk (kindOf c) false sw = true → pairOk sw vw = true → wordOk (kindOf c) true vw = false →
        Gives (r.1 c e) s fun t => HandledBefore s t c true 1 x.pc 0)) ∧
    -- memory: misaligned; outside the segments; turned away by a check; a double-bit error
    (∀ r ∈ ([(.ld, 0x38, false), (.ldu, 0x39, false), (.st, 0x3A, true)] : List ((Core → Env → Instr) × Nat × Bool)),
      ∀ w d, Ready s c e w vnopWord → opc w = r.2.1 →
      let n := scalarSize (typM w)
      let a := addrM x w
      (a % n ≠ 0 → Gives (r.1 c e) s fun t => HandledBefore s t c false 2 a 0) ∧
      (a % n = 0 → inSegment c a n = false → Gives (r.1 c e) s fun t => HandledBefore s t c false 3 a 0) ∧
      (a % n = 0 → inSegment c a n = true → segOf a = 2 → dpaOf c a = d → (s.dpaCheck (coreMaster c) d n r.2.2).isSome = true →
        Gives (r.1 c e) s fun t => ∃ i, HandledBefore s t c false 4 a i) ∧
      (∀ y, r.2.2 = false → a % n = 0 → Reaches s c a n d false → dbeIn e d n = some y →
        Gives (r.1 c e) s fun t => HandledBefore s t c false 5 a 0)) ∧
    -- a flag that traps
    (∀ r ∈ fpRows, ∀ w, Ready s c e w vnopWord → opc w = r.2.1 →
      let dr := if r.2.1 < 0x2E then drawn x w 1 else ([], x.srseed.toNat)
      let z (n : Nat) : Nat := if typR w = 8 then (x.sr n).toNat else (x.sr n).toNat % 2 ^ 32
      let y := r.2.2 (if typR w = 8 then .fp64 else .fp32) (Rnd.ofMode (modeOf x) (rndF w)) (dr.1.headD 0) (z (rA w)) (z (rB w)) (z (rC w))
      ¬ NoTrap x y.2 → y.2 < 32 → Gives (r.1 c e) s fun t => HandledBefore s t c false 6 x.pc y.2))

/-- BARW, BARMASK, BARGEN, CLAIM: a participant waits until every other one of the mask has arrived or halted, and then all go on and the
generation rises; a core outside the mask does not wait; a mask narrows; a claim takes the dispenser's next index below `LIMIT`, in fixed mode
its own share, and else answers 0xFFFFFFFF.
What in it is the model's own choice is said in log 42, 43. -/
def Obligations.BarriersHoldAndDispensersClaim : Prop :=
  (∀ (s : State) (c : Core) (e : Env) (w p i : Nat), Ready s c e w vnopWord → opc w = 0x58 → barId c = some (p, i) → i ≤ 32 → p < 64 →
    (∀ b, c = .burin p b → b < 32) →
    let x := s.core c
    let n := imm32 w
    let v := s.bar p n
    let away (j : Nat) : Bool := nbit v.mask j && !nbit v.arrived j && decide ((s.core (participant p j)).run ≠ .halted)
    (nbit v.mask i = false → Gives (.barw c e) s fun t => CoreOnly s t c (After x x)) ∧
    (∀ j, nbit v.mask i = true → j < 33 → j ≠ i → away j = true → Gives (.barw c e) s fun t =>
      t.core c = { After x x with run := .barrier n } ∧ nbit (t.bar p n).arrived i = true ∧ (t.bar p n).mask = v.mask ∧
        (t.bar p n).gen = v.gen ∧ (∀ k, k ≠ n → t.bar p k = s.bar p k) ∧ (∀ d, Core.key d ≠ Core.key c → t.core d = s.core d) ∧
        Kept s t ∧ RegsKept s t [Reg.monEcc p]) ∧
    (nbit v.mask i = true → (∀ j, j < 33 → j ≠ i → away j = false) → Gives (.barw c e) s fun t =>
      t.core c = After x x ∧ (t.bar p n).arrived = 0 ∧ (t.bar p n).mask = v.mask ∧ (t.bar p n).gen = (v.gen + 1) % 2 ^ 32 ∧
        (∀ j, j < 33 → j ≠ i → t.core (participant p j) =
          if (s.core (participant p j)).run = .barrier n then { s.core (participant p j) with run := .running }
          else s.core (participant p j)) ∧
        (∀ k, k ≠ n → t.bar p k = s.bar p k) ∧ Kept s t ∧ RegsKept s t [Reg.monEcc p])) ∧
  (∀ (s : State) (c : Core) (e : Env) (w p : Nat), Ready s c e w vnopWord → corePlate c = some p →
    let x := s.core c
    let n := imm32 w
    let v := s.bar p n
    (opc w = 0x59 → v.arrived = 0 → Gives (.barmask c e) s fun t =>
      t.core c = After x x ∧ t.bar p n = { v with mask := Nat.land v.mask ((x.sr (rA w)).toNat % 2 ^ 33) } ∧
        (∀ k, k ≠ n → t.bar p k = s.bar p k) ∧ Kept s t ∧ RegsKept s t [Reg.monEcc p]) ∧
    (opc w = 0x5A → Gives (.bargen c e) s fun t =>
      CoreOnly s t c (After x (x.setS (rD w) (BitVec.ofNat 64 (v.gen % 2 ^ 32)))))) ∧
  (∀ (s : State) (c : Core) (e : Env) (w : Nat), Ready s c e w vnopWord → opc w = 0x5B →
    let x := s.core c
    let n := imm32 w
    (∀ p b, c = .burin p b → p < 64 → s.dmode p = false → ∃ u, u = (if s.rf (Reg.pltDisp p n) F.pltDisp_next < s.rf (Reg.pltDisp p n) F.pltDisp_limit
        then s.rf (Reg.pltDisp p n) F.pltDisp_next else 0xFFFFFFFF) ∧ Gives (.claim c e) s fun t =>
      t.core c = After x (x.setS (rD w) (BitVec.ofNat 64 u)) ∧
        t.rf (Reg.pltDisp p n) F.pltDisp_next = (if u = 0xFFFFFFFF then s.rf (Reg.pltDisp p n) F.pltDisp_next else u + 1) ∧
        t.rf (Reg.pltDisp p n) F.pltDisp_limit = s.rf (Reg.pltDisp p n) F.pltDisp_limit ∧ Kept s t ∧
        RegsKept s t [Reg.pltDisp p n, Reg.monEcc p]) ∧
    (∀ p b, c = .burin p b → p < 64 → s.dmode p = true → Gives (.claim c e) s fun t =>
      let j := (mget (s.plate p).claims (n * 32 + b)).getD 0
      t.core c = After x (x.setS (rD w)
        (BitVec.ofNat 64 (if b + 32 * j < s.rf (Reg.pltDisp p n) F.pltDisp_limit then b + 32 * j else 0xFFFFFFFF))) ∧
      mget (t.plate p).claims (n * 32 + b) = some (j + 1) ∧ Kept s t ∧ RegsKept s t [Reg.pltDisp p n, Reg.monEcc p]) ∧
    (∀ p, c = .seq p → Gives (.claim c e) s fun t => CoreOnly s t c (After x (x.setS (rD w) 0xFFFFFFFF))))

/-- XPOST, XCOUNT, XWAIT, XERR, XCLR, CISSUE, CWAIT: a sound descriptor joins its queue and answers the count at which it will have ended; a
full queue stalls and changes nothing; a wait ends once the count has been reached; the error flag is read and cleared; a collective takes
the lowest free ticket and joins its group's queue, a malformed one ends at once; a ticket's status is read once it has ended, and frees
it.
What in it is the model's own choice is said in log 42, 43. -/
def Obligations.TransfersAndTicketsMoveOn : Prop :=
  (∀ (s : State) (e : Env) (w p d : Nat), Ready s (.seq p) e nopWord w → opc w = 0xD0 →
    let x := s.core (.seq p)
    let a := (x.sr (rA w)).toNat
    let q := s.mq p (imm32 w)
    let ws := wordsOf 8 (s.bytes d 64)
    a % 64 = 0 → segOf a = 1 → Reaches s (.seq p) a 64 d false → dbeIn e d 64 = none → dFaults ws = 0 →
    (q.q.length < 16 → Gives (.xpost (.seq p) e) s fun t =>
      t.core (.seq p) = After x (x.setS (rD w) (BitVec.ofNat 64 ((q.ended + q.q.length + 1) % 2 ^ 32))) ∧
      t.mq p (imm32 w) = { q with q := q.q ++ [ws.take 5] } ∧ (∀ k, k ≠ imm32 w → t.mq p k = s.mq p k) ∧ Kept s t ∧
      RegsKept s t [Reg.monEcc p]) ∧
    (16 ≤ q.q.length → Gives (.xpost (.seq p) e) s fun t => t.core (.seq p) = x ∧ t.plt = s.plt ∧ Kept s t ∧ RegsKept s t [Reg.monEcc p])) ∧
  (∀ (s : State) (c : Core) (e : Env) (w p : Nat), Ready s c e nopWord w → corePlate c = some p →
    let x := s.core c
    let q := s.mq p (imm32 w)
    (opc w = 0xD1 → Gives (.xcount c e) s fun t => CoreOnly s t c (After x (x.setS (rD w) (BitVec.ofNat 64 q.ended)))) ∧
    (opc w = 0xD2 → q.ended < 2 ^ 32 →
      (((BitVec.ofNat 32 q.ended - (x.sr (rA w)).setWidth 32).toNat < 2 ^ 31) →
        Gives (.xwait c e) s fun t => CoreOnly s t c (After x x)) ∧
      ((2 ^ 31 ≤ (BitVec.ofNat 32 q.ended - (x.sr (rA w)).setWidth 32).toNat) →
        Gives (.xwait c e) s fun t => CoreOnly s t c x)) ∧
    (opc w = 0xD3 → Gives (.xerr c e) s fun t => CoreOnly s t c (After x (x.setS (rD w) (if q.err then 1 else 0)))) ∧
    (opc w = 0xD4 → Gives (.xclr c e) s fun t => t.core c = After x x ∧ t.mq p (imm32 w) = { q with err := false } ∧
      (∀ k, k ≠ imm32 w → t.mq p k = s.mq p k) ∧ Kept s t ∧ RegsKept s t [Reg.monEcc p])) ∧
  (∀ (s : State) (c : Core) (e : Env) (w p d : Nat), Ready s c e nopWord w → opc w = 0xD8 → corePlate c = some p →
    let x := s.core c
    let a := (x.sr (rA w)).toNat
    let ws := wordsOf 8 (s.bytes d 64)
    a % 64 = 0 → segOf a < 2 → Reaches s c a 64 d false → dbeIn e d 64 = none →
    (s.freeTicket p = none → Gives (.cissue c e) s fun t => CoreOnly s t c x) ∧
    (∀ n, s.freeTicket p = some n →
      (ws.getD 7 0 ≠ 0 ∨ collReserved ws ≠ 0 → Gives (.cissue c e) s fun t =>
        t.core c = After x (x.setS (rD w) (BitVec.ofNat 64 n)) ∧ mget (t.plate p).tickets n = some { status := some 0x01 } ∧ t.col = s.col ∧
        Kept s t ∧ RegsKept s t [Reg.monEcc p]) ∧
      (∀ g, ws.getD 7 0 = 0 → collReserved ws = 0 → s.pd 93 ≠ 3 → s.collCheck (s.plateOwner p) ws = none → cKind ws ≠ 0 →
        s.group (cGroup ws) = some g → g.queue.length < 64 → Gives (.cissue c e) s fun t =>
          t.core c = After x (x.setS (rD w) (BitVec.ofNat 64 n)) ∧ mget (t.plate p).tickets n = some { status := none } ∧
          t.group (cGroup ws) = some { g with queue := g.queue ++ [⟨ws, s.plateOwner p, .ticket p n, s.clk⟩] } ∧ Kept s t ∧
          RegsKept s t [Reg.monEcc p]))) ∧
  (∀ (s : State) (c : Core) (e : Env) (w p : Nat), Ready s c e nopWord w → opc w = 0xD9 → corePlate c = some p →
    let x := s.core c
    let n := (x.sr (rA w)).toNat
    (mget (s.plate p).tickets n = none → Gives (.cwait c e) s fun t => CoreOnly s t c (After x (x.setS (rD w) 0x01))) ∧
    (mget (s.plate p).tickets n = some { status := none } → Gives (.cwait c e) s fun t => CoreOnly s t c x) ∧
    (∀ st, mget (s.plate p).tickets n = some { status := some st } → Gives (.cwait c e) s fun t =>
      t.core c = After x (x.setS (rD w) (BitVec.ofNat 64 st)) ∧ mget (t.plate p).tickets n = none ∧
      (∀ k, k ≠ n → mget (t.plate p).tickets k = mget (s.plate p).tickets k) ∧ Kept s t ∧ RegsKept s t [Reg.monEcc p]))

/-- Whether element i of b bits of a format R word is active (R288, R323). -/
def Sys2Proof.Machine.actR (x : CoreSt) (w b i : Nat) : Bool := !mvR w || nbit (x.mr (mR w)) (i * b / 32)

/-- The active elements among n, and the number of those before element i: its draw. -/
def Sys2Proof.Machine.onR (x : CoreSt) (w b n : Nat) : List Nat := (List.range n).filter (actR x w b)

/-- A vector result: every active element i of n is the result of r on it and its draw, every other one is as in `old`; the flags of the
active elements are raised and the generator stands as after their draws. -/
def Sys2Proof.Machine.VecOnly (s t : State) (c : Core) (w b n old : Nat) (d : List Nat × Nat) (r : Nat → Nat → Nat × Flags) : Prop :=
  let x := s.core c
  let rank (i : Nat) : Nat := (onR x w b i).length
  ∃ v, (∀ i, i < n → eltAt b v i = if actR x w b i then (r i (d.1.getD (rank i) 0)).1 % 2 ^ b else eltAt b old i) ∧
    CoreOnly s t c (After x ((x.setV (rD w) v).fin ((onR x w b n).foldl (fun a i => Nat.lor a (r i (d.1.getD (rank i) 0)).2) 0) d.2))

/-- The rows of vector arithmetic with what they compute from two or three elements: of an FP format, and of an integer one; and whether
they draw (Table 14-6). -/
def Sys2Proof.Machine.vecRows :
    List ((Core → Env → Instr) × Nat × Bool × (Fmt → Rnd → Nat → Nat → Nat → Nat → Nat × Flags) × (Nat → Nat → Nat → Nat)) :=
  [(.vadd, 0x81, true, fun f r d a b _ => f.add r d a b, fun _ a b => a + b),
   (.vsub, 0x82, true, fun f r d a b _ => f.sub r d a b, fun n a b => a + (2 ^ n - b)),
   (.vmul, 0x83, true, fun f r d a b _ => f.mul r d a b, fun _ a b => a * b),
   (.vfma, 0x84, true, fun f r d a b c => f.fma r d a b c, fun _ a _ => a),
   (.vmin, 0x85, false, fun f r _ a b _ => f.minmax false r.daz a b, fun n a b => if sgn n a ≤ sgn n b then a else b),
   (.vmax, 0x86, false, fun f r _ a b _ => f.minmax true r.daz a b, fun n a b => if sgn n a ≤ sgn n b then b else a),
   (.vabs, 0x87, false, fun f _ _ a _ _ => (f.abs a, 0), fun _ a _ => a), (.vneg, 0x88, false, fun f _ _ a _ _ => (f.neg a, 0), fun _ a _ => a),
   (.vdiv, 0x89, true, fun f r d a b _ => f.div r d a b, fun _ a _ => a), (.vsqrt, 0x8A, true, fun f r d a _ _ => f.sqrt r d a, fun _ a _ => a)]

/-- The value of an active element of vector logic, a shift or a move, by opcode: of the core, the word, the width and the element's number
(Tables 14-6 and 14-11). -/
def Sys2Proof.Machine.plainValue (o : Nat) (x : CoreSt) (w b i : Nat) : Nat :=
  let p : BitVec b := BitVec.ofNat b (eltAt b (x.vr (rA w)) i)
  let q : BitVec b := BitVec.ofNat b (eltAt b (x.vr (rB w)) i)
  match o with
  | 0x8C => (p &&& q).toNat
  | 0x8D => (p ||| q).toNat
  | 0x8E => (p ^^^ q).toNat
  | 0x8F => (p <<< (q.toNat % b)).toNat
  | 0x90 => (p >>> (q.toNat % b)).toNat
  | 0x91 => (p.sshiftRight (q.toNat % b)).toNat
  | 0xA0 => p.toNat
  | 0xA2 => eltAt b (x.vr (rA w)) (q.toNat % (2048 / b))
  | _ => (x.sr (rA w)).toNat % 2 ^ b

/-- VADD to VSQRT, VAND to VSRA, VCMPEQ to VCMPUN, VMOV to VINS, MAND to MPOPC: every active element of the destination takes the result of
its own elements, every inactive one keeps its value; a compare sets the bits of its active elements; VSEL chooses by the mask; a mask
instruction takes masks whole; nothing else of the machine changes.
What in it is the model's own choice is said in log 42, 43. -/
def Obligations.VectorElementsAreComputedOneByOne : Prop :=
  (∀ r ∈ vecRows, ∀ (s : State) (c : Core) (e : Env) (w : Nat), Ready s c e nopWord w → opc w = r.2.1 →
    let x := s.core c
    let b := (eltR w).width
    let n := 2048 / b
    let el (k i : Nat) : Nat := eltAt b (x.vr k) i
    (∀ f, (eltR w).fmt = some f →
      let d := if r.2.2.1 then drawn x w (onR x w b n).length else ([], x.srseed.toNat)
      let y (i k : Nat) : Nat × Flags := r.2.2.2.1 f (Rnd.ofMode (modeOf x) (rndF w)) k (el (rA w) i) (el (rB w) i) (el (rC w) i)
      NoTrap x ((onR x w b n).foldl (fun a i => Nat.lor a (y i (d.1.getD (onR x w b i).length 0)).2) 0) →
      Gives (r.1 c e) s fun t => VecOnly s t c w b n (x.vr (rD w)) d y) ∧
    ((eltR w).fmt = none → Gives (r.1 c e) s fun t => VecOnly s t c w b n (x.vr (rD w)) ([], x.srseed.toNat) fun i _ =>
      (r.2.2.2.2 b (el (rA w) i) (el (rB w) i), 0))) ∧
  (∀ r ∈ ([(.vand, 0x8C), (.vor, 0x8D), (.vxor, 0x8E), (.vshl, 0x8F), (.vshr, 0x90), (.vsra, 0x91), (.vmov, 0xA0), (.vperm, 0xA2),
      (.vbcast, 0xA3)] : List ((Core → Env → Instr) × Nat)),
    ∀ (s : State) (c : Core) (e : Env) (w : Nat), Ready s c e nopWord w → opc w = r.2 →
    let x := s.core c
    let b := (eltR w).width
    Gives (r.1 c e) s fun t => VecOnly s t c w b (2048 / b) (x.vr (rD w)) ([], x.srseed.toNat) fun i _ => (plainValue r.2 x w b i, 0)) ∧
  (∀ (s : State) (c : Core) (e : Env) (w : Nat), Ready s c e nopWord w →
    let x := s.core c
    let b := (eltR w).width
    let n := 2048 / b
    (opc w = 0xA1 → Gives (.vsel c e) s fun t => VecOnly s t c w b n (x.vr (rB w)) ([], x.srseed.toNat) fun i _ => (eltAt b (x.vr (rA w)) i, 0)) ∧
    (opc w = 0xA4 → Gives (.vext c e) s fun t =>
      CoreOnly s t c (After x (x.setS (rD w) (BitVec.ofNat 64 (eltAt b (x.vr (rA w)) ((x.sr (rB w)).toNat % n)))))) ∧
    (opc w = 0xA5 → Gives (.vins c e) s fun t => ∃ v, CoreOnly s t c (After x (x.setV (rD w) v)) ∧
      ∀ i, i < n → eltAt b v i = if i = (x.sr (rB w)).toNat % n then (x.sr (rA w)).toNat % 2 ^ b else eltAt b (x.vr (rD w)) i)) ∧
  (∀ r ∈ ([(.vcmpeq, 0x94, .eq), (.vcmplt, 0x95, .lt), (.vcmple, 0x96, .le), (.vcmpun, 0x97, .un)] : List ((Core → Env → Instr) × Nat × Cmp)),
    ∀ (s : State) (c : Core) (e : Env) (w : Nat), Ready s c e nopWord w → opc w = r.2.1 →
    let x := s.core c
    let b := (eltR w).width
    let n := 2048 / b
    let p (i : Nat) : Nat := eltAt b (x.vr (rA w)) i
    let q (i : Nat) : Nat := eltAt b (x.vr (rB w)) i
    let y (i : Nat) : Bool × Flags := match (eltR w).fmt with
      | some f => f.cmp r.2.2 (Rnd.ofMode (modeOf x) (rndF w)).daz (p i) (q i)
      | none => (match r.2.2 with
        | .eq => decide (p i = q i) | .lt => decide (sgn b (p i) < sgn b (q i)) | .le => decide (sgn b (p i) ≤ sgn b (q i)) | .un => false, 0)
    let fl := (onR x w b n).foldl (fun a i => Nat.lor a (y i).2) 0
    NoTrap x fl → Gives (r.1 c e) s fun t => ∃ v, CoreOnly s t c (After x ((x.setM (rD w) v).fin fl x.srseed.toNat)) ∧
      ∀ i j, i < n → j < b / 32 →
        nbit v (i * (b / 32) + j) = if actR x w b i then (y i).1 else nbit (x.mr (rD w)) (i * (b / 32) + j)) ∧
  (∀ (s : State) (c : Core) (e : Env) (w : Nat), Ready s c e nopWord w →
    let x := s.core c
    let m (k : Nat) : Word := BitVec.ofNat 64 (x.mr k)
    (∀ r ∈ ([(.mand, 0xA8, m (rA w) &&& m (rB w)), (.mor, 0xA9, m (rA w) ||| m (rB w)), (.mxor, 0xAA, m (rA w) ^^^ m (rB w)),
        (.mnot, 0xAB, ~~~ m (rA w)), (.mset, 0xAC, x.sr (rA w))] : List ((Core → Env → Instr) × Nat × Word)),
      opc w = r.2.1 → Gives (r.1 c e) s fun t => CoreOnly s t c (After x (x.setM (rD w) r.2.2.toNat))) ∧
    (opc w = 0xAD → Gives (.mget c e) s fun t => CoreOnly s t c (After x (x.setS (rD w) (m (rA w))))) ∧
    (opc w = 0xAE → Gives (.mpopc c e) s fun t =>
      CoreOnly s t c (After x (x.setS (rD w) (BitVec.ofNat 64 ((List.range 64).countP fun i => (m (rA w)).getLsbD i))))))

/-- VCVT, VSCALE, VQNT, VDQ, VREDADD, VREDMAX, VREDMIN, VBADD, VBMRG, VBRND, MMA, ACCZ, ACCGET, ACCPUT: a part is converted and the other parts
stay; blocks are scaled, quantized and restored; an integer sum is the sum of the active elements and a maximum is one of them and bounds
them; an FP sum takes the fixed tree; binned sums add and merge whatever the order; a product is accumulated with one rounding; an
accumulator is cleared, read and written by rows.
What in it is the model's own choice is said in log 42, 43, 44. -/
def Obligations.ConversionsReductionsAndProducts : Prop :=
  (∀ (s : State) (c : Core) (e : Env) (w : Nat) (a b : Elt), Ready s c e nopWord w → opc w = 0x98 → Elt.ofCode (typR w) = some a →
    Elt.ofCode (rC w) = some b →
    let x := s.core c
    let n := 2048 / max a.width b.width
    let d := if ints.contains a && ints.contains b then ([], x.srseed.toNat) else drawn x w n
    let from_ (i : Nat) : Nat := eltAt a.width (x.vr (rA w)) (if b.width < a.width then i else mR w * n + i)
    let y (i : Nat) : Nat × Flags := convert a b (Rnd.ofMode (modeOf x) (rndF w)) (d.1.getD i 0) (from_ i)
    let fl := (List.range n).foldl (fun k i => Nat.lor k (y i).2) 0
    NoTrap x fl → Gives (.vcvt c e) s fun t => ∃ v, CoreOnly s t c (After x ((x.setV (rD w) v).fin fl d.2)) ∧
      (∀ i, i < n → eltAt b.width v (if b.width < a.width then mR w * n + i else i) = (y i).1 % 2 ^ b.width) ∧
      (∀ j, b.width < a.width → j < 2048 / b.width → j / n ≠ mR w → eltAt b.width v j = eltAt b.width (x.vr (rD w)) j)) ∧
  (∀ (s : State) (c : Core) (e : Env) (w : Nat) (f : Fmt), Ready s c e nopWord w → (eltR w).fmt = some f →
    let x := s.core c
    let rn := Rnd.ofMode (modeOf x) (rndF w)
    let b := (eltR w).width
    let n := 2048 / b
    let el (i : Nat) : Nat := eltAt b (x.vr (rA w)) i
    let sc (i : Nat) : Nat := (x.sr (rB w)).toNat / 256 ^ (i / 32) % 256
    let cb := (eltC w).width
    (opc w = 0x99 →
      let y (j : Nat) : Nat × Flags := blockScale f rn.daz (decide (eltC w = .bs8)) ((List.range 32).map fun i => el (32 * j + i))
      let fl := (List.range (n / 32)).foldl (fun k j => Nat.lor k (y j).2) 0
      NoTrap x fl → Gives (.vscale c e) s fun t => ∃ v : Word, CoreOnly s t c (After x ((x.setS (rD w) v).fin fl x.srseed.toNat)) ∧
        ∀ j, j < 8 → v.toNat / 256 ^ j % 256 = if j < n / 32 then (y j).1 else 0) ∧
    (opc w = 0x9A →
      (∀ i, i < n → eltC w = .bs4 → sc i = 0xFF ∨ ∃ g m q, f.read rn.daz (el i) = .fin g m q) →
      let d := drawn x w n
      let y (i : Nat) : Nat × Flags := if sc i = 0xFF then (if eltC w = .bs8 then 0x7F else 0, Flags.iv) else
        match f.read rn.daz (el i) with
        | .fin g m q => (blkFmt (eltC w)).round { rn with ftz := false } (d.1.getD i 0) g m (q - ((sc i : Int) - 127))
        | z => (blkFmt (eltC w)).ofVal { rn with ftz := false } (d.1.getD i 0) z
      let fl := (List.range n).foldl (fun k i => Nat.lor k (y i).2) 0
      NoTrap x fl → Gives (.vqnt c e) s fun t => ∃ v, CoreOnly s t c (After x ((x.setV (rD w) v).fin fl d.2)) ∧
        (∀ i, i < n → eltAt cb v (mR w * n + i) = (y i).1 % 2 ^ cb) ∧
        (∀ j, j < 2048 / cb → j / n ≠ mR w → eltAt cb v j = eltAt cb (x.vr (rD w)) j)) ∧
    (opc w = 0x9B →
      let d := drawn x w n
      let y (i : Nat) : Nat × Flags := if sc i = 0xFF then (f.nan, Flags.iv) else
        match (blkFmt (eltC w)).dec (eltAt cb (x.vr (rA w)) (mR w * n + i)) with
        | .fin g m q => f.round rn (d.1.getD i 0) g m (q + ((sc i : Int) - 127))
        | _ => (f.nan, 0)
      let fl := (List.range n).foldl (fun k i => Nat.lor k (y i).2) 0
      NoTrap x fl → Gives (.vdq c e) s fun t => ∃ v, CoreOnly s t c (After x ((x.setV (rD w) v).fin fl d.2)) ∧
        ∀ i, i < n → eltAt b v i = (y i).1 % 2 ^ b)) ∧
  (∀ (s : State) (c : Core) (e : Env) (w : Nat), Ready s c e nopWord w →
    let x := s.core c
    let rn := Rnd.ofMode (modeOf x) (rndF w)
    let b := (eltR w).width
    let n := 2048 / b
    let el (i : Nat) : Nat := eltAt b (x.vr (rA w)) i
    let on := onR x w b n
    (opc w = 0x9C → (eltR w).fmt = none → Gives (.vredadd c e) s fun t =>
      CoreOnly s t c (After x (x.setV (rD w) ((on.map el).sum % 2 ^ b)))) ∧
    (∀ f, opc w = 0x9C → (eltR w).fmt = some f →
      let d := drawn x w (n - 1)
      let y := tree (fun k p q => f.add rn k p q) 6 ((List.range n).map fun i => if actR x w b i then el i else 0) d.1
      NoTrap x y.2 → Gives (.vredadd c e) s fun t => CoreOnly s t c (After x ((x.setV (rD w) y.1).fin y.2 d.2))) ∧
    (∀ r ∈ ([(.vredmax, 0x9D, true), (.vredmin, 0x9E, false)] : List ((Core → Env → Instr) × Nat × Bool)), opc w = r.2.1 →
      ((eltR w).fmt = none → Gives (r.1 c e) s fun t => ∃ v, CoreOnly s t c (After x (x.setV (rD w) v)) ∧
        (if on = [] then v = (if r.2.2 then 2 ^ (b - 1) else 2 ^ (b - 1) - 1)
          else (∃ i ∈ on, v = el i) ∧ ∀ i ∈ on, if r.2.2 then sgn b (el i) ≤ sgn b v else sgn b v ≤ sgn b (el i))) ∧
      (∀ f, (eltR w).fmt = some f → on = [] → Gives (r.1 c e) s fun t =>
        CoreOnly s t c (After x (x.setV (rD w) (f.signed r.2.2 f.infCode)))) ∧
      (∀ f i l, (eltR w).fmt = some f → on = i :: l →
        let fl := if on.any (fun k => (f.read rn.daz (el k)).snan) then Flags.iv else 0
        NoTrap x fl → Gives (r.1 c e) s fun t => CoreOnly s t c (After x ((x.setV (rD w)
          (l.foldl (fun m k => (f.minmax r.2.2 rn.daz m (el k)).1) (f.codeOf rn.daz (el i)))).fin fl x.srseed.toNat)))) ∧
    (∀ f, opc w = 0xB0 → (eltR w).fmt = some f →
      let y := on.foldl (fun k i => ((bsAdd f k.1 (el i)).1, Nat.lor k.2 (bsAdd f k.1 (el i)).2)) (x.vr (rD w), 0)
      NoTrap x y.2 → Gives (.vbadd c e) s fun t =>
        CoreOnly s t c (After x ((x.setV (rD w) (bsMake (bsCount y.1) (bsFlags y.1) (bsN y.1))).fin y.2 x.srseed.toNat))) ∧
    (opc w = 0xB1 → Gives (.vbmrg c e) s fun t =>
      let p := x.vr (rA w)
      let q := x.vr (rD w)
      CoreOnly s t c (After x (x.setV (rD w) (bsMake (bsCount p + bsCount q) (Nat.lor (bsFlags p) (bsFlags q)) (bsN p + bsN q))))) ∧
    (∀ f, opc w = 0xB2 → (eltR w).fmt = some f →
      let v := x.vr (rA w)
      let g := bsFlags v
      (nbit g 0 = true ∨ (nbit g 1 = true ∧ nbit g 2 = true) ∨ 2 ^ 39 ≤ bsCount v → Gives (.vbrnd c e) s fun t => ∃ k,
        CoreOnly s t c (After x ((x.setV (rD w) f.nan).fin 0 k))) ∧
      (g = 0 → bsCount v < 2 ^ 39 → sgn bsBits (bsN v) ≠ 0 →
        let d := drawn x w 1
        let y := f.round { rn with ftz := false } (d.1.headD 0) (decide (sgn bsBits (bsN v) < 0)) (sgn bsBits (bsN v)).natAbs (-920)
        NoTrap x y.2 → Gives (.vbrnd c e) s fun t => CoreOnly s t c (After x ((x.setV (rD w) y.1).fin y.2 d.2))))) ∧
  (∀ (f : Fmt) (v y z : Nat), (bsAdd f (bsAdd f v y).1 z).1 = (bsAdd f (bsAdd f v z).1 y).1) ∧
  (∀ (s : State) (c : Core) (e : Env) (w : Nat), Ready s c e nopWord w →
    let x := s.core c
    (opc w = 0xC0 →
      let t := eltR w
      let d := drawn x w 1024
      let row (i j : Nat) : FVal := matVal t (eltAt t.width (x.vr (rA w + (32 * i + j) * t.width / 2048)) ((32 * i + j) % (2048 / t.width)))
      let col (i j : Nat) : FVal := matVal t (eltAt t.width (x.vr (rB w + (32 * j + i) * t.width / 2048)) ((32 * j + i) % (2048 / t.width)))
      let sc (i j : Nat) : Option Int := if t = .bs8 ∨ t = .bs4 then
          let p := eltAt 8 (x.vr (rC w)) i
          let q := eltAt 8 (x.vr (rC w)) (32 + j)
          if p = 0xFF ∨ q = 0xFF then none else some ((p : Int) + q - 254)
        else some 0
      let y (n : Nat) : Nat × Flags :=
        dotRound { mode := (Rnd.ofMode (modeOf x) (rndF w)).mode, daz := false, ftz := false } (d.1.getD n 0) (x.accE (rD w) (n / 32) (n % 32))
          ((List.range 32).map fun k => mulVal (row (n / 32) k) (col k (n % 32))) (sc (n / 32) (n % 32))
      let fl := (List.range 1024).foldl (fun k n => Nat.lor k (y n).2) 0
      NoTrap x fl → Gives (.mma c e) s fun u => CoreOnly s u c (After x ((x.setAcc (rD w) 0 ((List.range 1024).map fun n => (y n).1)).fin fl d.2))) ∧
    (opc w = 0xC1 → Gives (.accz c e) s fun t => ∃ y : CoreSt, CoreOnly s t c (After x { x with acc := y.acc }) ∧
      ∀ n i j, i < 32 → j < 32 → y.accE n i j = if n = rD w then 0 else x.accE n i j) ∧
    (opc w = 0xC2 → Gives (.accget c e) s fun t => ∃ v, CoreOnly s t c (After x (x.setV (rD w) v)) ∧
      ∀ n, n < 64 → eltAt 32 v n = x.accE (rA w) (2 * rC w + n / 32) (n % 32)) ∧
    (opc w = 0xC3 → Gives (.accput c e) s fun t => ∃ y : CoreSt, CoreOnly s t c (After x { x with acc := y.acc }) ∧
      ∀ n i j, i < 32 → j < 32 → y.accE n i j =
        if n = rD w ∧ i / 2 = rC w then eltAt 32 (x.vr (rA w)) (i % 2 * 32 + j) else x.accE n i j))

/-! ### Collectives (16_collectives.md) -/

/-- The group that the argument registers of function f describe (Table 16-7). -/
def Sys2Proof.Machine.State.argGroup (s : State) (f : Nat) : Group :=
  let a := s.colArg f 1
  { owner := f, plates := platesOf (s.colArg f 0), dims := nbits a 2 0, tc := nbits a 5 3, align := nbit a 6, weight := nbits a 14 7,
    slots := nbits a 19 15, slotKib := nbits a 27 20, stageOff := nbits a 49 28, carry := s.colArg f 2 / 65536 * 65536,
    carryLen := s.colArg f 3 % 2 ^ 32, region := 0 }

/-- CREATE_GROUP, SET_RING, SET_PROG, ENABLE_GROUP, DISABLE_GROUP, DESTROY_GROUP, QUERY_GROUP: a group described by the arguments takes the
lowest free number and a staging region whose key is returned; a ring and a program are bound to a Created group; a group without a program
is Ready at once, one with the default program once its plates have started it; a Ready group is taken out of use; a destroyed one revokes
its staging region; a group is shown. A command on a group of another function ends with ST_COL_GROUP_STATE.
What in it is the model's own choice is said in log 15, 41. -/
def Obligations.GroupCommandsEndAsStated : Prop :=
  (∀ (s : State) (f n i : Nat), f ≤ 1024 → Idle s (Reg.colCmd f) F.colCmd_go →
    let g := s.argGroup f
    g.plates ≠ [] → 1 ≤ g.dims → g.dims ≤ 6 → g.weight ≠ 0 → 1 ≤ g.slots → g.slots ≤ 16 → g.slotKib ≠ 0 → g.stageOff % 64 = 0 →
    g.stageOff + 3 * g.dims * g.slots * g.slot ≤ 4194304 → (∀ p ∈ g.plates, s.plateOwner p = f) →
    s.on (Reg.cpfVgeom f) F.cpfVgeom_en = false → (s.col.groups.filter fun e => e.2.owner = f).length < s.quota f F.vfmFnQuota_grp 1 4096 →
    s.regionUse f < s.quota f F.vfmFnQuota_reg 4096 (2 ^ 24) → n < 4096 → s.group n = none → (∀ m, m < n → s.group m ≠ none) →
    s.freeIndex = some i → i < 2 ^ 24 → Gives (.createGroup f) s fun t =>
      t.group n = some { g with region := i } ∧
      (∃ r, mget t.qpe.regions i = some r ∧ r.owner = some f ∧ r.len = g.plates.length * (3 * g.dims * g.slots * g.slot) ∧
        r.remoteW = true ∧ r.stage = some (g.plates, g.stageOff, 3 * g.dims * g.slots * g.slot) ∧ t.colArg f 0 = i * 256 + r.gen ∧
        r.gen = (((mget s.qpe.regions i).map (·.gen)).getD 0 + 1) % 256) ∧
      t.rf (Reg.colCmd f) F.colCmd_obj = n ∧ Ended t (Reg.colCmd f) F.colCmd_go F.colCmd_status 0 ∧ Kept s t ∧
      RegsKept s t [Reg.colCmd f, Reg.colArg f 0]) ∧
  (∀ (s : State) (f n : Nat) (g : Group), f ≤ 1024 → n < 4096 → Idle s (Reg.colCmd f) F.colCmd_go → s.group n = some g → g.owner = f →
    let a (i : Nat) : Nat := s.colArg f i
    (∀ x y, g.st = .created → g.enabling = none → nbits (a 0) 2 0 < g.dims → nbits (a 0) 18 11 < nbits (a 0) 10 3 + 1 →
      mget s.qpe.qps (nbits (a 1) 17 0) = some x → mget s.qpe.qps (nbits (a 1) 35 18) = some y → (∀ q ∈ [x, y], q.owner = f ∧ q.st = .active ∧ q.transport = 0) →
      Gives (.setRing f n) s fun t =>
        (∃ r : Ring, r = ⟨nbits (a 0) 10 3 + 1, nbits (a 0) 18 11, nbits (a 1) 17 0, nbits (a 1) 35 18, nbits (a 2) 31 0⟩ ∧
          t.group n = some { g with rings := mput g.rings (nbits (a 0) 2 0) r }) ∧
        Ended t (Reg.colCmd f) F.colCmd_go F.colCmd_status 0 ∧ Kept s t ∧ RegsKept s t [Reg.colCmd f]) ∧
    (g.st = .created → g.enabling = none → nbits (a 0) 1 0 ≠ 3 → Gives (.setProg f n) s fun t =>
      t.group n = some { g with pkind := nbits (a 0) 1 0, pspace := nbits (a 0) 3 2, image := a 1 / 64 * 64, digest := a 2 / 8 * 8,
                                recOff := nbits (a 3) 21 14 * 16384 } ∧
      Ended t (Reg.colCmd f) F.colCmd_go F.colCmd_status 0 ∧ Kept s t ∧ RegsKept s t [Reg.colCmd f]) ∧
    (∀ ext, g.st = .created → g.enabling = none → g.pkind = 2 → (∀ p ∈ g.plates, mget s.col.bound p = none ∧ s.runs p = false) →
      Gives (.enableGroup f n ext) s fun t =>
        t.group n = some { g with st := .ready, seq := 0 } ∧ Ended t (Reg.colCmd f) F.colCmd_go F.colCmd_status 0 ∧ Kept s t ∧
        RegsKept s t [Reg.colCmd f]) ∧
    (∀ ext p, g.st = .created → g.enabling = none → g.pkind = 0 → g.plates = [p] → p < 64 → mget s.col.bound p = none → s.runs p = false →
      (s.plate p).load = none → (s.plate p).resetting = false → Gives (.enableGroup f n ext) s fun t =>
        (∃ x, t.group n = some x ∧ x.st = .created ∧ x.enabling = some [p]) ∧ (t.plate p).load = some (0, builtIn) ∧
        t.on (Reg.pltStatus p) F.pltStatus_loading = true ∧ t.on (Reg.colCmd f) F.colCmd_go = true ∧ Kept s t ∧
        RegsKept s t [Reg.colCmd f, Reg.pltStatus p]) ∧
    (g.st = .ready → g.run = none → g.queue = [] → g.pkind = 2 → Gives (.disableGroup f n) s fun t =>
      (∃ x, t.group n = some x ∧ x.st = .created ∧ x.queue = [] ∧ x.seq = 0 ∧ x.rings = g.rings) ∧
      Ended t (Reg.colCmd f) F.colCmd_go F.colCmd_status 0 ∧ Kept s t ∧ RegsKept s t [Reg.colCmd f]) ∧
    (∀ r, g.st = .created → g.enabling = none → mget s.qpe.regions g.region = some r → Gives (.destroyGroup f n) s fun t =>
      mget t.qpe.regions g.region = some { r with gen := (r.gen + 1) % 256, revoking := some true } ∧
      t.on (Reg.colCmd f) F.colCmd_go = true ∧ Kept s t ∧ RegsKept s t [Reg.colCmd f]) ∧
    (Gives (.queryGroup f n) s fun t =>
      t.colArg f 0 = (g.st.code + min 255 g.queue.length * 2 ^ 8 + g.seq % 2 ^ 32 * 2 ^ 32) ∧ t.colArg f 1 = g.slack % 2 ^ 64 ∧
      t.colArg f 2 = g.late % 2 ^ 32 + g.steps % 2 ^ 32 * 2 ^ 32 ∧ t.col = s.col ∧
      Ended t (Reg.colCmd f) F.colCmd_go F.colCmd_status 0 ∧ Kept s t ∧
      RegsKept s t (Reg.colCmd f :: (List.range 4).map (Reg.colArg f)))) ∧
  (∀ (s : State) (f n : Nat) (g : Group) (ext : List Byte), f ≤ 1024 → n < 4096 → Idle s (Reg.colCmd f) F.colCmd_go → s.group n = some g →
    g.owner ≠ f → ∀ c ∈ [Instr.setRing f n, .setProg f n, .enableGroup f n ext, .disableGroup f n, .destroyGroup f n, .queryGroup f n],
      Gives c s fun t => t.col = s.col ∧ Ended t (Reg.colCmd f) F.colCmd_go F.colCmd_status 0x61 ∧ Kept s t ∧ RegsKept s t [Reg.colCmd f])

/-- LAUNCH, ALLREDUCE, REDUCE_SCATTER, ALLGATHER, BROADCAST, REDUCE, ALLTOALL, BARRIER, COLLECTIVE_START, CHUNK_START, CHUNK_NOTICE_RECEIVED,
SLOT_RETURN_RECEIVED, RECORD_DONE, COLLECTIVE_END, COLLECTIVE_TIMEOUT: an entry that passes the checks joins its group's queue, or begins its
plate's load; the oldest starts alone; a chunk goes to the ring's next QP with its notice and takes a slot; a notice with the running
sequence number notes its chunk, and another breaks the group; a returned slot is free; a record's output becomes ready to send; a
collective that is over tells the ticket that waits for it, as does one that has timed out.
What in it is the model's own choice is said in log 40, 41. -/
def Obligations.CollectivesRunToTheirEnd : Prop :=
  (∀ r ∈ ([(.allreduce, 1), (.reduceScatter, 2), (.allgather, 3), (.broadcast, 4), (.reduce, 5), (.alltoall, 6), (.barrier, 7)] :
      List ((Nat → List Byte → Instr) × Nat)),
    ∀ (s : State) (w : Nat) (ext : List Byte) (q : Wq) (e : Ent) (g : Group), s.nextEnt w 0x10 = some (q, e) → q.ents = [e] → e.st = .fetched →
    cKind e.words = r.2 → collReserved e.words = 0 → s.pd 93 ≠ 3 → s.collCheck q.owner e.words = none → s.group (cGroup e.words) = some g →
    (g.queue.length < 64 → Gives (r.1 w ext) s fun t =>
      t.group (cGroup e.words) = some { g with queue := g.queue ++ [⟨e.words, q.owner, .entry w e.slot, s.clk⟩] } ∧
      (∃ y, mget t.wqe.wqs w = some y ∧
        y.ents = [{ e with st := .started, start := s.clk, allSent := true, open_ := e.open_ + 1 }]) ∧ Kept s t ∧ RegsKept s t []) ∧
    (64 ≤ g.queue.length → exec (r.1 w ext) s = .next s)) ∧
  (∀ (s u : State) (w : Nat) (ext dig rest : List Byte) (q : Wq) (e : Ent) (p : Nat), s.nextEnt w 0x10 = some (q, e) → q.ents = [e] → e.st = .fetched →
    cKind e.words = 0 → collReserved e.words = 0 → s.pd 93 ≠ 3 → s.collCheck q.owner e.words = none → cPlate e.words = p →
    s.collRead q.owner (cSspace e.words) p ext [(cw e.words 2, 48)] = .ok u dig rest → u.plt = s.plt → u.regs = s.regs → u.wqe = s.wqe →
    u.grade = s.grade → dig.length = 48 → s.runs p = false → (s.plate p).load = none → (s.plate p).resetting = false →
    Gives (.launch w ext) s fun t =>
      (t.plate p).load = some (cw e.words 1, cSspace e.words) ∧ t.digest p = beNat dig ∧
      mget t.col.launches p = some (⟨e.words, q.owner, .entry w e.slot, s.clk⟩, true) ∧
      (∃ y x, mget t.wqe.wqs w = some y ∧ y.ents = [x] ∧ x.st = .started)) ∧
  (∀ (s : State) (g : Nat) (ext : List Byte) (x : Group) (j : CollJob) (q : List CollJob), s.group g = some x → x.run = none → x.queue = j :: q →
    x.st = .ready → cKind j.words = 7 → (∀ e ∈ s.col.groups, ∀ r ∈ e.2.rings, s.ringCause r.2.next = none ∧ s.ringCause r.2.prev = none) →
    Gives (.collectiveStart g ext) s fun t =>
      (∃ y r, t.group g = some y ∧ y.queue = q ∧ y.seq = (x.seq + 1) % 2 ^ 32 ∧ y.run = some r ∧ r.job = j ∧ r.seq = x.seq) ∧ Kept s t ∧
      RegsKept s t []) ∧
  (∀ (s : State) (g : Nat) (ext : List Byte) (x : Group), s.group g = some x → x.run.isSome → exec (.collectiveStart g ext) s = .next s) ∧
  (∀ (s : State) (n g : Nat) (ext : List Byte) (credit : Map Nat) (x : Group) (r : CollRun) (k : Chunk) (ring : Ring) (q : Qp) (bs : List Byte),
    s.chunkTurn n = some (g, credit) → s.group g = some x → s.chunkNext n x = some (r, k, ring) → x.align = false →
    mget s.qpe.qps ring.next = some q → q.st = .active → s.trkFree ring.next q = true → mget r.data k.key = some bs →
    Gives (.chunkStart n ext) s fun t =>
      (∃ y, t.group g = some y ∧ y.busy = sins x.busy (k.ring * 65536 + slotNum x k.k) ∧
        y.run = some { r with started := sins r.started k.key, data := mdel r.data k.key }) ∧
      (∃ z l v, mget t.qpe.qps ring.next = some z ∧ z.txq = q.txq ++ l ++ [v] ∧ v.type = 2 ∧
        v.argA = 2 ^ 30 + r.seq % 1024 * 2 ^ 20 + k.k % 2 ^ 20 ∧ (bs = [] → l = [])) ∧ Kept s t) ∧
  (∀ (s u : State) (q g d v : Nat) (ext : List Byte) (x : Group) (r : CollRun), s.frontNotice q = some (v, u) → s.ringOf q false = some (g, x, d) →
    x.run = some r → nbits v 31 30 = 1 →
    (∀ c, nbits v 29 20 = r.seq % 1024 → cKind r.job.words = 7 → r.todo = [] →
      (planRing x r.job.words d false).find? (fun c => decide (c.k % 2 ^ 20 = nbits v 19 0) && (mget r.arrived c.key).isNone) = some c →
      Gives (.chunkNoticeReceived q ext) s fun t =>
        (∃ y z, t.group g = some y ∧ y.run = some z ∧ mget z.arrived c.key = some s.clk ∧ c.key ∈ z.spent) ∧ t.col.notices = u.col.notices ∧
        t.mem = s.mem) ∧
    (∀ p k, nbits v 29 20 ≠ r.seq % 1024 → nbits v 29 20 ≠ (r.seq + 1) % 1024 → s.group g = some x → x.queue = [] → r.job.who = .ticket p k →
      (mget (s.plate p).tickets k).isSome = true → Gives (.chunkNoticeReceived q ext) s fun t =>
        (∃ y, t.group g = some y ∧ y.st = .broken ∧ y.run = none) ∧ mget (t.plate p).tickets k = some { status := some 0x67 })) ∧
  (∀ (s u : State) (q g d v : Nat) (x : Group), s.frontNotice q = some (v, u) → s.ringOf q true = some (g, x, d) → nbits v 31 30 = 2 →
    Gives (.slotReturnReceived q) s fun t =>
      t.group g = some { x with busy := sdel x.busy (d * 65536 + slotNum x (nbits v 19 0)) } ∧ t.col.notices = u.col.notices ∧ Kept s t ∧
      RegsKept s t []) ∧
  (∀ (s : State) (p n g off b : Nat) (ext : List Byte) (x : Group) (r : CollRun) (k : Chunk),
    ((s.recRing p).open_.find? fun e => e.1 = n) = some (n, some (g, ⟨1, k, p⟩)) → mget s.col.bound p = some (b, off) →
    nbit (s.ldN (winBase p + off + n % 256 * 64 + 56) 8) 63 = true → nbits (s.ldN (winBase p + off + n % 256 * 64 + 56) 8) 7 0 = 0 →
    (s.recRing p).stop = false → s.group g = some x → x.run = some r → r.todo = [] →
    (∀ c ∈ planAll x r.job.words true, c.link = 0 → r.asked.contains c.key = true) → Gives (.recordDone p n ext) s fun t =>
      (∃ y z, t.group g = some y ∧ y.run = some z ∧ z.live = r.live - 1 ∧ (mget z.ready k.key).isSome = true ∧
        mget z.data k.key = some (s.bytes (winBase p + x.slotOff 2 k.ring k.k) (k.units * wireUnit r.job.words))) ∧
      (∀ e ∈ (t.recRing p).open_, e.1 ≠ n) ∧ Kept s t ∧ RegsKept s t []) ∧
  (∀ (s : State) (g p k : Nat) (x : Group) (r : CollRun), s.group g = some x → x.run = some r → r.job.who = .ticket p k →
    (mget (s.plate p).tickets k).isSome = true →
    (collOver x r = true → s.hif.flushes = [] → s.hif.dests = [] → Gives (.collectiveEnd g) s fun t =>
      (∃ y, t.group g = some y ∧ y.run = none ∧ y.slack = (collSlack x r).1 ∧ y.queue = x.queue ∧ y.st = x.st) ∧
      mget (t.plate p).tickets k = some { status := some 0 } ∧ Kept s t ∧ RegsKept s t []) ∧
    (collOver x r = false → exec (.collectiveEnd g) s = .next s) ∧
    (cTimeout r.job.words ≠ 0 → r.job.at_ + cTimeout r.job.words * 1000 ≤ s.clk → x.queue = [] → Gives (.collectiveTimeout g) s fun t =>
      (∃ y, t.group g = some y ∧ y.run = none ∧ y.st = .broken) ∧ mget (t.plate p).tickets k = some { status := some 0x63 }) ∧
    (s.clk < r.job.at_ + cTimeout r.job.words * 1000 → exec (.collectiveTimeout g) s = .next s))

/-! ### Counterproof (17_reproducibility.md) -/

/-- `STATE` and `END_CAUSE` of CPF_STATUS. -/
def Sys2Proof.Machine.State.cpfAt (s : State) : Nat × Nat := (s.rf Reg.cpfStatus F.cpfStatus_state, s.rf Reg.cpfStatus F.cpfStatus_end_cause)

/-- CPF_GO, CPF_ORIGIN_REACHED, CPF_STOP, TRACE_RECORD_ARRIVAL, REPLAY_INPUT, COMPARATOR_SELFTEST, VERIFIED_REPORT: `GO` arms a role while Off; at
the origin a module whose conditions hold runs from cycle 0, the lead sending its digest and timebase, a follower taking on the lead's
identity, and one whose conditions fail ends with cause 7; a record enters the FIFO; an input due takes effect, an observation that agrees is
dropped, one that differs ends with cause 2 and both words latched, comparators that disagree with cause 3, the end record with 11; a
self-test counts; `STOP` ends with cause 1, and returns from Ended to Off.
What in it is the model's own choice is said in log 46, 47. -/
def Obligations.CounterproofArmsRunsComparesAndEnds : Prop :=
  (∀ (s : State) (m : Nat), s.check m (regBase + Reg.cpfCtrl) = none →
    (s.cpfAt.1 = 0 → s.cpfRole ≠ 0 → Gives (.cpfGo m) s fun t => t.cpfAt = (1, 0) ∧ t.on Reg.cpfCtrl F.cpfCtrl_go = true ∧ t.cpf.fifo = [] ∧
      (∀ i, i < 4 → t.rd (Reg.cpfMismatchLead i) = 0 ∧ t.rd (Reg.cpfMismatchFoll i) = 0) ∧ Kept s t ∧
      RegsKept s t (Reg.cpfCtrl :: Reg.cpfStatus :: ((List.range 4).map Reg.cpfMismatchLead ++ (List.range 4).map Reg.cpfMismatchFoll))) ∧
    (s.cpfAt.1 ≠ 0 ∨ s.cpfRole = 0 → exec (.cpfGo m) s = .next s) ∧
    (s.cpfAt.1 = 1 → Gives (.cpfStop m) s fun t => t.cpfAt = (3, 1) ∧ t.on Reg.cpfCtrl F.cpfCtrl_go = false ∧ Kept s t ∧
      RegsKept s t [Reg.cpfCtrl, Reg.cpfStatus]) ∧
    (s.cpfAt.1 = 2 → s.cpf.vol = none → s.cpfRole = 1 → Gives (.cpfStop m) s fun t => t.cpfAt = (3, 1) ∧
      t.out = s.out ++ [⟨.trace, [0, 0x1F, s.cpfCycle], none, []⟩] ∧ t.rf Reg.cpfCycle F.cpfCycle_cycle = s.cpfCycle % 2 ^ 48 ∧ Kept s t ∧
      RegsKept s t [Reg.cpfCtrl, Reg.cpfStatus, Reg.cpfCycle]) ∧
    (s.cpfAt.1 = 3 → s.cpfRole = 1 → s.cpf.saved = [] → Gives (.cpfStop m) s fun t => t.cpfAt = (0, s.cpfAt.2) ∧ t.cpf = {} ∧ Kept s t ∧
      RegsKept s t [Reg.cpfStatus])) ∧
  (∀ (s : State) (top fw dig delay : Nat) (ok : Bool) (ident : List (Nat × Word)) (plan : Map Nat), s.cpfAt.1 = 1 → s.cpfRole ≠ 3 →
    (s.time < s.rf Reg.cpfOrigin F.cpfOrigin_time → exec (.cpfOriginReached top fw dig delay ok ident plan) s = .next s) ∧
    (s.rf Reg.cpfOrigin F.cpfOrigin_time ≤ s.time → s.originOk top fw dig delay ok = true →
      (s.cpfRole = 1 → s.cpf.vol = none → Gives (.cpfOriginReached top fw dig delay ok ident plan) s fun t =>
        t.cpfAt.1 = 2 ∧ t.on Reg.cpfCtrl F.cpfCtrl_go = false ∧ t.cpfOwn = 0 ∧ t.cpf.peerPlan = plan ∧ t.xlt.cache = [] ∧ t.wqe.due = [] ∧
        t.out = s.out ++ [⟨.trace, [0, 1, 0], none, beBytes 48 s.cfgDig⟩, ⟨.trace, [0, 8, 0], none, leBytes 8 s.time⟩] ∧ Kept s t ∧
        RegsKept s t [Reg.cpfCtrl, Reg.cpfStatus]) ∧
      (∀ v, s.cpfRole = 2 → ident = [(Reg.topInc, v)] → Gives (.cpfOriginReached top fw dig delay ok ident plan) s fun t =>
        t.cpfAt.1 = 2 ∧ t.cpfOwn = 0 ∧ t.rd Reg.topInc = v ∧ t.cpf.saved = [(Reg.topInc, s.rd Reg.topInc)] ∧ t.xlt.cache = [] ∧ Kept s t ∧
        RegsKept s t [Reg.cpfCtrl, Reg.cpfStatus, Reg.topInc])) ∧
    (s.rf Reg.cpfOrigin F.cpfOrigin_time ≤ s.time → s.originOk top fw dig delay ok = false → s.pd 94 = 2 → s.mon.evQ.length < 384 →
      s.on Reg.cpfCtrl F.cpfCtrl_on_mismatch = false → s.cpfRole = 1 → Gives (.cpfOriginReached top fw dig delay ok ident plan) s fun t =>
        t.cpfAt = (3, 7) ∧ (∃ e, t.mon.evQ = s.mon.evQ ++ [e] ∧ e.code = 0x1003 ∧ e.arg0 = 7) ∧ Kept s t ∧
        RegsKept s t [Reg.cpfCtrl, Reg.cpfStatus])) ∧
  (∀ (s : State) (r : TraceRec) (lc : Nat), s.cpfRole = 2 → (s.cpf.fifo.foldl (fun a x => a + recBytes x) 0) + recBytes r ≤ 8388608 →
    (s.cpfAt.1 = 1 → exec (.traceRecordArrival r lc false) s = .next { s with cpf.fifo := s.cpf.fifo ++ [r] }) ∧
    (s.cpfAt.1 = 2 → s.cpfOwn ≤ r.cyc + s.cpfDelay → s.cpfOwn ≤ lc + 1250 → lc ≤ s.cpfOwn + 1250 →
      exec (.traceRecordArrival r lc false) s = .next { s with cpf.fifo := s.cpf.fifo ++ [r] }) ∧
    (s.cpfAt.1 = 2 → r.cyc + s.cpfDelay < s.cpfOwn → Gives (.traceRecordArrival r lc false) s fun t => t.cpfAt = (3, 5) ∧ t.cpf.halted = true)) ∧
  (∀ (s : State) (r : TraceRec) (l : List TraceRec), s.follows = true → s.cpfRole = 2 → s.cpf.fifo = r :: l → r.cyc + s.cpfDelay ≤ s.cpfOwn →
    (r.kind = 8 → s.cpf.own = [] → exec (.replayInput false false) s = .next { s with cpf.fifo := l, time := leNat (r.data.take 8) }) ∧
    (∀ o, s.cpf.own = [o] → o.src = r.src → o.kind = r.kind → o.cyc = r.cyc → r.kind = 0x10 →
      (o.data = r.data → exec (.replayInput false false) s = .next { s with cpf.fifo := l, cpf.own := [] }) ∧
      (o.data ≠ r.data → s.col.groups = [] → Gives (.replayInput false false) s fun t => t.cpfAt = (3, 2) ∧ t.cpf.halted = true ∧
        ∀ i, i < 4 → t.rd (Reg.cpfMismatchLead i) = obsWord r.data i ∧ t.rd (Reg.cpfMismatchFoll i) = obsWord o.data i) ∧
      (∀ fa, Gives (.replayInput fa (!fa)) s fun t => t.cpfAt = (3, 3) ∧ t.cpf.halted = true)) ∧
    (r.kind = 0x1F → s.cpf.own = [] → Gives (.replayInput false false) s fun t => t.cpfAt = (3, 11) ∧ t.cpf.halted = true)) ∧
  (∀ (s : State) (r : TraceRec) (l : List TraceRec) (fa fb : Bool), s.follows = true → s.cpf.fifo = r :: l → s.cpf.own = [] →
    s.cpfOwn < r.cyc + s.cpfDelay → exec (.replayInput fa fb) s = .next s) ∧
  (∀ (s : State) (r : TraceRec), s.follows = true → s.cpf.fifo = [r] → r.kind = 0x10 →
    (Gives (.comparatorSelftest false false) s fun t => t.rf Reg.cpfStatus F.cpfStatus_selftests =
      min (s.rf Reg.cpfStatus F.cpfStatus_selftests + 1) 65535 ∧ t.cpf.fifo = s.cpf.fifo ∧ Kept s t ∧ RegsKept s t [Reg.cpfStatus]) ∧
    (∀ fa, Gives (.comparatorSelftest fa (!fa)) s fun t => t.cpfAt = (3, 3) ∧ t.cpf.halted = true)) ∧
  (∀ (s : State) (cyc : Nat),
    (s.leads = true → Gives (.verifiedReport cyc) s fun t =>
      t.rf Reg.cpfVerified F.cpfVerified_cycle = cyc % 2 ^ 48 ∧ t.out = s.out ∧ Kept s t ∧ RegsKept s t [Reg.cpfVerified]) ∧
    (s.follows = true → s.cpfRole = 2 → Gives (.verifiedReport cyc) s fun t =>
      t.rf Reg.cpfVerified F.cpfVerified_cycle = s.verified % 2 ^ 48 ∧ Kept s t ∧ RegsKept s t [Reg.cpfVerified]))

/-! ### Proof jobs (18_proofs.md) -/

/-- A PRF command of function f with its code and object, under way. -/
def Sys2Proof.Machine.State.prfBegun (s : State) (f c obj : Nat) : State :=
  ((s.wf (Reg.prfCmd f) F.prfCmd_cmd c).wf (Reg.prfCmd f) F.prfCmd_obj obj).wf (Reg.prfCmd f) F.prfCmd_go 1

/-- A PRF command of function f that has ended with a status. -/
def Sys2Proof.Machine.PrfEnded (t : State) (f code : Nat) : Prop := Ended t (Reg.prfCmd f) F.prfCmd_go F.prfCmd_status code

/-- `OBJ` of a function's PRF command register. -/
def Sys2Proof.Machine.State.prfObj (s : State) (f : Nat) : Nat := s.rf (Reg.prfCmd f) F.prfCmd_obj

/-- CREATE_JOB, ADD_REGION, REMOVE_REGION, BIND_QP, BIND_COMMIT_WQ, STEP, RESUME, RESTORE_FLASH, FLASH_RESTORE_DONE, DESTROY_JOB,
ADD_SPARES, ADD_SPARES_REPORT_RECEIVED: a job is created Idle with its staging region and key, refused where one exists, sixteen do or its
table is bad; regions join and leave the image; queue pairs and the commit WQ are bound; the next proof's cut is taken, marking each page
whose log bit is set with its delta, or waits; a recovered job runs again; a flash proof held is loaded, its number becoming the committed
one, one not held ends with ST_PRF_NO_FLASH; a job destroyed is gone and its staging region's revoke under way; added spares take force at
the coordinator's acknowledgement.
What in it is the model's own choice is said in log 50, 65. -/
def Obligations.ProofJobCommandsEndAsStated : Prop :=
  (∀ (s t : State) (f : Nat) (host : List Byte) (mem : List Member) (grp : List ParityGroup) (i : Nat) (j : Job), f ≤ 1024 →
    Idle s (Reg.prfCmd f) F.prfCmd_go → s.job f = none → s.prf.jobs.length < 16 →
    (s.prfBegun f 1 (s.prfObj f)).readTable f (s.prfArg f 1 / 4096 * 4096) (nbits (s.prfArg f 0) 63 48 + 1) (nbits (s.prfArg f 1) 11 0 + 1) host =
      (t, some (mem, grp)) →
    j = { id := nbits (s.prfArg f 0) 31 0, self := nbits (s.prfArg f 0) 47 32, rebuild := nbit (s.prfArg f 4) 0, members := mem, groups := grp,
          table := s.prfArg f 1 / 4096 * 4096, undo := s.prfArg f 2 / 65536 * 65536, undoPages := nbits (s.prfArg f 3) 31 0,
          parity := s.prfArg f 4 / 65536 * 65536, parityPages := nbits (s.prfArg f 3) 63 32, flashEvery := nbits (s.prfArg f 2) 15 0,
          region := i, pickable := nbits (s.prfArg f 0) 63 48 + 1 } →
    1 ≤ nbits (s.prfArg f 0) 63 48 → j.self ≤ nbits (s.prfArg f 0) 63 48 → j.me.spare = false → j.me.node = t.node → tableBad j = false →
    j.parityPages ≥ 1024 + 3 * j.parityHeld j.self → (j.me.data = false ∨ 2 * (grp.getD j.me.group ⟨[], [], 0⟩).maxPages ≤ j.undoPages) →
    t.regionUse f < t.quota f F.vfmFnQuota_reg 4096 (2 ^ 24) → t.freeIndex = some i → Gives (.createJob f host) s fun w =>
      w.job f = some j ∧ (∃ r, mget w.qpe.regions i = some r ∧ r.owner = some f ∧ r.base = j.parity ∧ r.len = 1024 * pageSize ∧ r.remoteW = true ∧
        r.remoteR = false ∧ r.localW = false ∧ r.use = .job f ∧ r.gen = (((mget t.qpe.regions i).map (·.gen)).getD 0 + 1) % 256 ∧
        w.prfArg f 5 = (i * 256 + r.gen) % 2 ^ 64) ∧
      w.committed f = 0 ∧ w.jobSt f = 1 ∧ w.mem = t.mem ∧ PrfEnded w f 0) ∧
  (∀ (s : State) (f : Nat) (host : List Byte), f ≤ 1024 → Idle s (Reg.prfCmd f) F.prfCmd_go →
    ((s.job f).isSome = true → Gives (.createJob f host) s fun t => t.prf = s.prf ∧ PrfEnded t f 0x70 ∧ Kept s t ∧ RegsKept s t [Reg.prfCmd f]) ∧
    (s.job f = none → 16 ≤ s.prf.jobs.length → Gives (.createJob f host) s fun t =>
      t.prf = s.prf ∧ PrfEnded t f 0x72 ∧ Kept s t ∧ RegsKept s t [Reg.prfCmd f])) ∧
  (∀ (s t : State) (f n : Nat) (j : Job) (l : List (Tgt × Nat)), f ≤ 1024 → Idle s (Reg.prfCmd f) F.prfCmd_go → s.job f = some j →
    (s.jobSt f = 1 ∨ s.jobSt f = 2) →
    (s.prfArg f 0 % pageSize = 0 → nbits (s.prfArg f 1) 47 0 % pageSize = 0 → nbits (s.prfArg f 1) 47 0 ≠ 0 → nbits (s.prfArg f 1) 49 48 = 0 →
      j.me.data = true → j.imageEnd + nbits (s.prfArg f 1) 47 0 / pageSize ≤ (j.groups.getD j.me.group ⟨[], [], 0⟩).maxPages →
      firstFrom (fun n => (mget j.regions n).isNone) 0 64 = some n →
      (s.prfBegun f 2 (s.prfObj f)).xlRange f 0 .write false 5 0 (xlFuel (nbits (s.prfArg f 1) 47 0)) (s.prfArg f 0) (nbits (s.prfArg f 1) 47 0) =
        (t, .ok l) → t.prf = s.prf → Gives (.addRegion f) s fun w =>
        (∃ j' r, w.job f = some j' ∧ mget j'.regions n = some r ∧ r.base = s.prfArg f 0 ∧ r.len = nbits (s.prfArg f 1) 47 0 ∧ r.space = 0 ∧
          r.page = j.imageEnd ∧ r.fresh = true ∧ r.hbm.length = l.length) ∧
        w.prfArg f 3 = j.imageEnd * pageSize % 2 ^ 64 ∧ w.prfObj f = n % 64 ∧ w.mem = t.mem ∧ PrfEnded w f 0) ∧
    (s.prfArg f 0 % pageSize ≠ 0 ∨ nbits (s.prfArg f 1) 47 0 % pageSize ≠ 0 ∨ nbits (s.prfArg f 1) 49 48 % 2 = 1 → Gives (.addRegion f) s fun w =>
        w.prf = s.prf ∧ PrfEnded w f 0x71 ∧ Kept s w ∧ RegsKept s w [Reg.prfCmd f])) ∧
  (∀ (s : State) (f : Nat) (j : Job), f ≤ 1024 → Idle s (Reg.prfCmd f) F.prfCmd_go → s.job f = some j → s.jobSt f = 3 → Gives (.addRegion f) s fun t =>
    t.prf = s.prf ∧ PrfEnded t f 0x70 ∧ Kept s t ∧ RegsKept s t [Reg.prfCmd f]) ∧
  (∀ (s : State) (f obj : Nat) (j : Job) (r : ProtRegion), f ≤ 1024 → Idle s (Reg.prfCmd f) F.prfCmd_go → s.job f = some j →
    (s.jobSt f = 1 ∨ s.jobSt f = 2 ∨ s.jobSt f = 5) → mget j.regions (obj % 64) = some r → Gives (.removeRegion f obj) s fun t =>
      (∃ j', t.job f = some j' ∧ mget j'.regions (obj % 64) = none ∧ (r.fresh = true → j'.gone = j.gone) ∧
        (r.fresh = false → r.space = 0 → sorted j.gone = true → ∀ i, i < r.len / pageSize →
          mget j'.gone (r.page + i) = some (s.pageOld j (j.cut + 1) (r.page + i)))) ∧
      PrfEnded t f 0 ∧ Kept s t ∧ RegsKept s t [Reg.prfCmd f]) ∧
  (∀ (s : State) (f q i : Nat) (j : Job) (x : Qp), f ≤ 1024 → Idle s (Reg.prfCmd f) F.prfCmd_go → s.job f = some j →
    (s.jobSt f = 1 ∨ s.jobSt f = 2 ∨ s.jobSt f = 4) → q = nbits (s.prfArg f 0) 17 0 → i = nbits (s.prfArg f 0) 33 18 →
    mget s.qpe.qps q = some x → x.owner = f → x.transport = 0 → i < j.members.length → i ≠ j.self → s.engineQp q = false →
    (x.st = .active → Gives (.bindQp f) s fun t => t.job f = some { j with qps := mput j.qps i (q, nbits (s.prfArg f 1) 31 0) } ∧
      PrfEnded t f 0 ∧ Kept s t ∧ RegsKept s t [Reg.prfCmd f]) ∧
    (x.st ≠ .active → Gives (.bindQp f) s fun t => t.prf = s.prf ∧ PrfEnded t f 0x71 ∧ Kept s t ∧ RegsKept s t [Reg.prfCmd f])) ∧
  (∀ (s : State) (f w : Nat) (j : Job) (q : Wq), f ≤ 1024 → Idle s (Reg.prfCmd f) F.prfCmd_go → s.job f = some j →
    (s.jobSt f = 1 ∨ s.jobSt f = 2 ∨ s.jobSt f = 4) → w = nbits (s.prfArg f 0) 15 0 → mget s.wqe.wqs w = some q → q.owner = f →
    (q.st = .disabled → Gives (.bindCommitWq f) s fun t => t.job f = some { j with commitWq := some w } ∧
      mget t.wqe.wqs w = some { q with completed := 0, firstFail := none } ∧ PrfEnded t f 0 ∧ Kept s t ∧ RegsKept s t [Reg.prfCmd f]) ∧
    (q.st ≠ .disabled → Gives (.bindCommitWq f) s fun t => t.prf = s.prf ∧ t.wqe = s.wqe ∧ PrfEnded t f 0x71 ∧ Kept s t ∧
      RegsKept s t [Reg.prfCmd f])) ∧
  (∀ (s : State) (f n : Nat) (j : Job), f ≤ 1024 → Idle s (Reg.prfCmd f) F.prfCmd_go → s.job f = some j → n = s.prfArg f 0 → j.rebuild = false →
    ((s.jobSt f = 1 ∨ s.jobSt f = 2) → n = j.cut + 1 → j.stepping = false → s.on (Reg.prfJob f) F.prfJob_flash_busy = false →
      Gives (.step f) s fun t =>
        (∃ j', t.job f = some j' ∧ j'.cut = n ∧ j'.stepping = true ∧ j'.waiting = none ∧ j'.regions = j.regions ∧
          (∀ e ∈ j.regions, ∀ x ∈ e.2.hbm.zipIdx, s.loggedIn f x.1 = true → mget j'.deltas (e.2.page + x.2) =
            some (pxor ((s.pageNow j (e.2.page + x.2)).getD []) (s.pageOld j n (e.2.page + x.2))))) ∧
        t.jobSt f = 3 ∧ t.on (Reg.prfCmd f) F.prfCmd_go = true ∧
        t.rf (Reg.vfmDlogCmd f) F.vfmDlogCmd_active1 = 1 - s.rf (Reg.vfmDlogCmd f) F.vfmDlogCmd_active1 ∧
        (∀ a, t.byte a = if s.dlogBuf f 1 ≤ a ∧ a < s.dlogBuf f 1 + s.dlogLen f then 0 else s.byte a)) ∧
    (s.jobSt f = 3 → n = j.cut + 1 → j.stepping = true → Gives (.step f) s fun t => t.job f = some { j with waiting := some n } ∧
      t.on (Reg.prfCmd f) F.prfCmd_go = true ∧ Kept s t ∧ RegsKept s t [Reg.prfCmd f]) ∧
    ((s.jobSt f = 1 ∨ s.jobSt f = 2 ∨ s.jobSt f = 3) → n ≠ j.cut + 1 → Gives (.step f) s fun t =>
      t.prf = s.prf ∧ PrfEnded t f 0x71 ∧ Kept s t ∧ RegsKept s t [Reg.prfCmd f])) ∧
  (∀ (s : State) (f : Nat) (j : Job), f ≤ 1024 → Idle s (Reg.prfCmd f) F.prfCmd_go → s.job f = some j →
    (s.jobSt f = 4 → j.recovered = true → Gives (.resume f) s fun t => t.job f = some { j with recovered := false, restoring := false } ∧
      t.jobSt f = 2 ∧ (∀ w, j.commitWq = some w → ∀ q, mget t.wqe.wqs w = some q → q.firstFail = none) ∧ PrfEnded t f 0 ∧ Kept s t ∧
      RegsKept s t [Reg.prfCmd f, Reg.prfJob f]) ∧
    (s.jobSt f = 4 → j.recovered = false → Gives (.resume f) s fun t => t.prf = s.prf ∧ PrfEnded t f 0x70 ∧ Kept s t ∧
      RegsKept s t [Reg.prfCmd f]) ∧
    (s.jobSt f = 5 → ∀ c ∈ [Instr.resume f, .step f, .bindQp f, .bindCommitWq f, .addRegion f], Gives c s fun t =>
      t.prf = s.prf ∧ PrfEnded t f 0x73 ∧ Kept s t ∧ RegsKept s t [Reg.prfCmd f])) ∧
  (∀ (s : State) (f : Nat) (j : Job), f ≤ 1024 → Idle s (Reg.prfCmd f) F.prfCmd_go → s.job f = some j → (s.jobSt f = 1 ∨ s.jobSt f = 5) →
    j.rebuild = false →
    (∀ p, (s.flashHeld f).find? (fun p => decide (p.n = s.prfArg f 0)) = some p → s.psState ≠ 3 →
      (s.jobSt f = 5 ∨ p.regions = j.regions.map fun e => (e.2.base, e.2.len, e.2.space)) → Gives (.restoreFlash f) s fun t =>
        t.job f = some { j with loading := some (s.prfArg f 0) } ∧ t.on (Reg.prfCmd f) F.prfCmd_go = true ∧ Kept s t ∧
        RegsKept s t [Reg.prfCmd f]) ∧
    ((∀ p ∈ s.flashHeld f, p.n ≠ s.prfArg f 0) → Gives (.restoreFlash f) s fun t =>
        t.prf = s.prf ∧ PrfEnded t f 0x74 ∧ Kept s t ∧ RegsKept s t [Reg.prfCmd f])) ∧
  (∀ (s : State) (f n v : Nat) (j : Job) (p : FlashProof) (x : Vol), f ≤ 1024 → s.job f = some j → j.loading = some n → j.rebuild = false →
    n < 2 ^ 64 → s.proofVol f = some (v, x) → (s.flashHeld f).find? (fun p => decide (p.n = n)) = some p →
    (s.psState < 3 → Gives (.flashRestoreDone f true) s fun t =>
      (∃ j', t.job f = some j' ∧ j'.loading = none ∧ j'.cut = n ∧ j'.parityMem = p.parity ∧ j'.recovered = true ∧ j'.lostSet = [] ∧
        j'.gens = []) ∧ t.committed f = n ∧ t.jobSt f = 4 ∧ PrfEnded t f 0) ∧
    (s.pd 94 = 2 → s.mon.evQ.length < 384 → Gives (.flashRestoreDone f false) s fun t =>
      t.job f = some { j with loading := none } ∧ (∃ e, t.mon.evQ = s.mon.evQ ++ [e] ∧ e.cls = .fault ∧ e.code = 0xF0A ∧ e.fn = f ∧ e.inst = v) ∧
      PrfEnded t f 0x74 ∧ t.mem = s.mem ∧ t.committed f = s.committed f)) ∧
  (∀ (s : State) (f : Nat) (j : Job) (r : Region), f ≤ 1024 → Idle s (Reg.prfCmd f) F.prfCmd_go → s.job f = some j →
    1 ≤ s.jobSt f → s.jobSt f ≤ 6 → mget s.qpe.regions j.region = some r → Quiet s → Gives (.destroyJob f) s fun t =>
      t.job f = none ∧ t.rd (Reg.prfJob f) = 0 ∧ mget t.qpe.regions j.region = some { r with gen := (r.gen + 1) % 256, revoking := some true } ∧
      (∀ c m, j.leads = false → j.coord = some c → j.members[c]? = some m → t.out = s.out ++ [⟨.msg, [7, m.node, 111, j.id, j.self], none, []⟩]) ∧
      t.on (Reg.prfCmd f) F.prfCmd_go = true ∧ Kept s t ∧ RegsKept s t [Reg.prfCmd f, Reg.prfJob f]) ∧
  (∀ (s t : State) (f c : Nat) (host : List Byte) (j : Job) (mem : List Member) (grp : List ParityGroup) (x : Member), f ≤ 1024 →
    Idle s (Reg.prfCmd f) F.prfCmd_go → s.job f = some j → (s.jobSt f = 2 ∨ s.jobSt f = 4) → j.coord = some c →
    j.members[c]? = some x → (s.prfBegun f 10 (s.prfObj f)).readTable f (s.prfArg f 1 / 4096 * 4096) (nbits (s.prfArg f 0) 63 48 + 1)
      (nbits (s.prfArg f 1) 11 0 + 1) host = (t, some (mem, grp)) → t.prf = s.prf → Quiet t → (t.rd (Reg.prfCmd f)).getLsbD 63 = true →
    (mem.take j.members.length = j.members → j.members.length ≤ nbits (s.prfArg f 0) 63 48 + 1 →
      (∀ m ∈ mem.drop j.members.length, m.spare = true) → grp = j.groups → j.leads = false → Gives (.addSpares f host) s fun w =>
        w.job f = some { j with newMembers := some mem, table := s.prfArg f 1 / 4096 * 4096 } ∧
        w.out = t.out ++ [⟨.msg, [7, x.node, 112, j.id, nbits (s.prfArg f 0) 63 48 + 1, j.self], none, []⟩] ∧
        w.on (Reg.prfCmd f) F.prfCmd_go = true) ∧
    (mem.take j.members.length = j.members → j.members.length ≤ nbits (s.prfArg f 0) 63 48 + 1 →
      (∀ m ∈ mem.drop j.members.length, m.spare = true) → grp = j.groups → j.leads = true → t.rf (Reg.prfCmd f) F.prfCmd_cmd = 10 →
      Gives (.addSpares f host) s fun w => (w.job f).map (·.members) = some mem ∧ (w.job f).map (·.newMembers) = some none ∧ PrfEnded w f 0) ∧
    (grp ≠ j.groups → Gives (.addSpares f host) s fun w => w.prf = s.prf ∧ PrfEnded w f 0x71)) ∧
  (∀ (s : State) (id m n f : Nat) (j : Job), f ≤ 1024 → s.jobOf id = some (f, j) → s.job f = some j →
    (∀ l, j.newMembers = some l → l.length = n → s.on (Reg.prfCmd f) F.prfCmd_go = true → s.rf (Reg.prfCmd f) F.prfCmd_cmd = 10 →
      Gives (.addSparesReportReceived id m n true) s fun t => t.job f = some { j with members := l, newMembers := none } ∧ PrfEnded t f 0 ∧
        Kept s t ∧ RegsKept s t [Reg.prfCmd f]) ∧
    (∀ x, j.leads = true → j.members[m]? = some x → Quiet s → (∃ y ∈ j.ranks, y ∉ j.lostSet ∧ y ∉ j.spareReports ∧ y ≠ m) →
      Gives (.addSparesReportReceived id m n false) s fun t => t.job f = some { j with spareReports := sins j.spareReports m } ∧
        t.out = s.out ++ [⟨.msg, [7, x.node, 113, j.id, n], none, []⟩] ∧ Kept s t ∧ RegsKept s t []))

/-! ### Proof steps, losses and recovery (18_proofs.md) -/

/-- Nothing of function f runs: no plate, collective, counterproof run, enabled queue; its queue pairs are the job's own. -/
def Sys2Proof.Machine.Settled (s : State) (f : Nat) : Prop :=
  Quiet s ∧ s.logs = true ∧ s.rf Reg.cpfStatus F.cpfStatus_state = 0 ∧ s.col.groups = [] ∧ s.col.launches = [] ∧ (∀ p, p < 64 → s.runs p = false) ∧
    (∀ e ∈ s.wqe.wqs, e.2.owner = f → e.2.st = .disabled) ∧ ∀ e ∈ s.qpe.qps, e.2.owner = f → s.engineQp e.1 = true

/-- The job of function f has gone back to committed proof c, whose pages are still to be restored. -/
def Sys2Proof.Machine.RolledBack (s t : State) (f c : Nat) : Prop :=
  t.jobSt f = 4 ∧ t.committed f = c ∧
    (∃ j, t.job f = some j ∧ j.target = c ∧ j.restoring = true ∧ j.stepping = false ∧ j.waiting = none ∧ j.deltas = [] ∧ j.recovered = false) ∧
    (s.on (Reg.prfCmd f) F.prfCmd_go = true → s.rf (Reg.prfCmd f) F.prfCmd_cmd = 6 →
      t.on (Reg.prfCmd f) F.prfCmd_go = false ∧ t.rf (Reg.prfCmd f) F.prfCmd_status = 0x0F) ∧
    (∃ e ∈ t.mon.logVol, e.cls = .fault ∧ e.code = 0xF05 ∧ e.fn = f ∧ e.arg1 = c) ∧ t.mem = s.mem

/-- The job of a `JOB_ID`: function f's. -/
def Sys2Proof.Machine.Holds (s : State) (id f : Nat) (j : Job) : Prop := f ≤ 1024 ∧ s.jobOf id = some (f, j) ∧ s.job f = some j

/-- UNDO_COPY_DONE, PEER_COPY_DONE, DELTA_NOTICE_RECEIVED, MEMBER_PREPARED, PREPARED_RECEIVED, COMMIT_RECEIVED, FAIL_RECEIVED,
FLASH_PROOF_WRITTEN, FLASH_DONE_RECEIVED, FLASH_FAILED_RECEIVED, FLASH_USABLE_RECEIVED: a page is kept once per interval; a peer copy gives
its deltas, a failed one a FAIL; a delta is folded into P and its slot returned, an end notice counted; a prepared member completes STEP and
tells its parent, and the coordinator, once its children are, commits; a commit sets the committed number, drops its undo generation, counts
on the commit WQ and leaves the trace event; a FAIL rolls back; a flash proof written is reported, and usable once every member has it.
What in it is the model's own choice is said in log 50, 65. -/
def Obligations.ProofStepsCommitAtEveryMember : Prop :=
  (∀ (s : State) (f g i : Nat) (j : Job), f ≤ 1024 → s.prf.jobs = [(f, j)] → j.imagePage g = some i →
    (mget ((mget j.gens (j.cut + 1)).getD []) i = none → Gives (.undoCopyDone g) s fun t =>
      (∃ j', t.job f = some j' ∧ mget ((mget j'.gens (j.cut + 1)).getD []) i = some (s.pageAt (g * pageSize)) ∧ j'.cut = j.cut) ∧ Kept s t ∧
      RegsKept s t [Reg.vfmMeter f 4, Reg.vfmMeter f 5]) ∧
    ((mget ((mget j.gens (j.cut + 1)).getD []) i).isSome = true → exec (.undoCopyDone g) s = .next s)) ∧
  (∀ (s : State) (f r : Nat) (j : Job) (x : ProtRegion) (data : List Byte), f ≤ 1024 → s.job f = some j → mget j.regions r = some x →
    r ∈ j.peersLeft →
    (Gives (.peerCopyDone f r true data) s fun t => ∃ j', t.job f = some j' ∧ r ∉ j'.peersLeft ∧
      ∀ i, i < x.len / pageSize → mget j'.peerNew (x.page + i) = some (pageOf ((data.drop (i * pageSize)).take pageSize)) ∧
        (x.fresh = true → mget j.gone (x.page + i) = none → pageOf ((data.drop (i * pageSize)).take pageSize) ≠ [] →
          mget j'.deltas (x.page + i) = some (pageOf ((data.drop (i * pageSize)).take pageSize)))) ∧
    (∀ c m, j.stepping = true → j.ready = false → j.failSent = false → j.leads = false → j.coord = some c → j.members[c]? = some m → Quiet s →
      Gives (.peerCopyDone f r false data) s fun t => t.out = s.out ++ [⟨.msg, [7, m.node, 103, j.id, j.cut], none, []⟩] ∧
        t.job f = some { j with failSent := true } ∧ Kept s t ∧ RegsKept s t [])) ∧
  (∀ (s : State) (f q p key z v : Nat) (j : Job) (host : List Byte), f ≤ 1024 → s.prf.jobs = [(f, j)] → j.qps = [(p, q, key)] →
    s.col.notices = [(q, v, z)] →
    (nbits v 31 28 = 2 → Gives (.deltaNoticeReceived q host) s fun t => t.job f = some { j with announced := mput j.announced p (nbits v 27 0) } ∧
      t.col.notices = [] ∧ Kept s t ∧ RegsKept s t []) ∧
    (nbits v 31 28 = 3 → j.stepping = false → Gives (.deltaNoticeReceived q host) s fun t =>
      (∃ j', t.job f = some j' ∧ ∀ l, mget j.slots p = some l → mget j'.slots p = some (sdel l (nbits v 27 0 - 16 * j.slotRank p j.self))) ∧
      t.col.notices = [] ∧ Kept s t ∧ RegsKept s t []) ∧
    (∀ u bs x, nbits v 31 28 = 1 → mget s.qpe.qps q = some x → x.st = .active →
      ({ s with col.notices := [] } : State).prfRead f (j.parity + (16 * j.slotRank j.self p + (mget j.slotIn p).getD 0) * pageSize) pageSize host =
        (u, some bs) → u.prf = s.prf → u.qpe = s.qpe → u.committed f = s.committed f → Gives (.deltaNoticeReceived q host) s fun t =>
        (∃ j', t.job f = some j' ∧ mget j'.got p = some ((mget j.got p).getD 0 + 1) ∧
          (∀ m g, j.members[p]? = some m → j.groups[m.group]? = some g → g.p[nbits v 27 0 % 8]? = some j.self →
            g.q[nbits v 27 0 % 8]? ≠ some j.self → g.q.length = 8 →
            mget j'.parityMem (parityKey m.group (nbits v 27 0 % 8) 0 (nbits v 27 0 / 8)) =
              some (pxor ((mget j.parityMem (parityKey m.group (nbits v 27 0 % 8) 0 (nbits v 27 0 / 8))).getD []) (pageOf bs)))) ∧
        (∃ x', mget t.qpe.qps q = some x' ∧ x'.txq.getLast?.map (·.argA) =
          some (3 * 2 ^ 28 + (16 * j.slotRank j.self p + (mget j.slotIn p).getD 0))))) ∧
  (∀ (s : State) (f : Nat) (j : Job), f ≤ 1024 → s.job f = some j →
    (s.isPrepared j = false → exec (.memberPrepared f) s = .next s) ∧
    (∀ p m, s.isPrepared j = true → j.leads = false → j.forwarded = false → j.kidList = [] → j.parent j.self = some p → j.members[p]? = some m →
      Quiet s → s.on (Reg.prfCmd f) F.prfCmd_go = true → s.rf (Reg.prfCmd f) F.prfCmd_cmd = 6 → Gives (.memberPrepared f) s fun t =>
        t.job f = some { j with ready := true, forwarded := true } ∧ t.out = s.out ++ [⟨.msg, [7, m.node, 101, j.id, j.cut, j.self], none, []⟩] ∧
        PrfEnded t f 0 ∧ Kept s t ∧ RegsKept s t [Reg.prfCmd f])) ∧
  (∀ (s : State) (id n m f : Nat) (j : Job), Holds s id f j → s.jobSt f < 4 → n = s.committed f + 1 →
    (j.ready = false → Gives (.preparedReceived id n m) s fun t => t.job f = some { j with kids := sins j.kids m } ∧ Kept s t ∧ RegsKept s t []) ∧
    (j.ready = true → j.forwarded = false → j.leads = true → (∀ i ∈ j.kidList, i = m ∨ i ∈ j.kids) → j.cut = n → n < 2 ^ 64 → j.waiting = none →
      j.flashEvery = 0 → s.on Reg.cpfCtrl F.cpfCtrl_state_cmp = false → Gives (.preparedReceived id n m) s fun t =>
        t.committed f = n ∧ t.jobSt f = 2 ∧ (∃ j', t.job f = some j' ∧ j'.stepping = false ∧ j'.gens = mdel j.gens n ∧ j'.kids = []) ∧ t.mem = s.mem)) ∧
  (∀ (s : State) (id n f : Nat) (j : Job), Holds s id f j →
    (n ≠ s.committed f + 1 → exec (.commitReceived id n none) s = .next s) ∧
    (n = s.committed f + 1 → j.stepping = true → n < 2 ^ 64 → j.waiting = none → (j.flashEvery = 0 ∨ n % j.flashEvery ≠ 0) →
      s.on Reg.cpfCtrl F.cpfCtrl_state_cmp = false → Gives (.commitReceived id n none) s fun t =>
        t.committed f = n ∧ t.jobSt f = 2 ∧
        (∃ j', t.job f = some j' ∧ j'.stepping = false ∧ j'.gens = mdel j.gens n ∧ j'.parityGens = mdel j.parityGens n ∧ j'.peerOld = j.peerNew) ∧
        (∀ w q, j.commitWq = some w → mget s.wqe.wqs w = some q → mget t.wqe.wqs w = some { q with completed := q.completed + 1 }) ∧
        (s.pd 94 = 2 → s.pd 95 = 2 → s.mon.evQ.length < 384 → ∃ e, t.mon.evQ = s.mon.evQ ++ [e] ∧ e.cls = .trace ∧ e.code = 0xF04 ∧ e.arg1 = n) ∧
        (∀ i m, j.kidList = [i] → j.members[i]? = some m → Quiet s → t.out = s.out ++ [⟨.msg, [7, m.node, 102, j.id, n], none, []⟩]) ∧
        t.mem = s.mem) ∧
    (∀ m y, j.asking = true → y ∈ j.ranks → y ≠ j.self → y ∉ j.lostSet → y ≠ m → mget j.answers y = none →
      Gives (.commitReceived id n (some m)) s fun t => t.job f = some { j with answers := mput j.answers m n } ∧ Kept s t ∧ RegsKept s t [])) ∧
  (∀ (s : State) (id n f : Nat) (j : Job), Holds s id f j → j.leads = true → n = s.committed f + 1 →
    (s.jobSt f < 4 → j.lostSet = [] → s.prf.jobs = [(f, j)] → Settled s f → Gives (.failReceived id n) s fun t => RolledBack s t f (s.committed f)) ∧
    (4 ≤ s.jobSt f → exec (.failReceived id n) s = .next s)) ∧
  (∀ (s : State) (f v : Nat) (j : Job) (p : FlashProof) (x : Vol), f ≤ 1024 → s.job f = some j → s.proofVol f = some (v, x) → j.snap = some p →
    j.waiting = none → j.kidList = [] → j.leads = false → s.ps.failed = false →
    (∀ i m, s.psState < 2 → j.flashFailed = false → j.parent j.self = some i → j.members[i]? = some m → Quiet s → Gives (.flashProofWritten f) s fun t =>
      mget t.ps.vols v = some { x with proofs := x.proofs ++ [p] } ∧ t.job f = some { j with snap := none, flashSelf := true } ∧
      t.on (Reg.prfJob f) F.prfJob_flash_busy = false ∧ t.out = s.out ++ [⟨.msg, [7, m.node, 104, j.id, j.flashN, j.self], none, []⟩] ∧ Kept s t) ∧
    (2 ≤ s.psState → Quiet s → s.pd 94 = 2 → s.mon.evQ.length < 384 → Gives (.flashProofWritten f) s fun t =>
      t.ps = s.ps ∧ t.job f = some { j with snap := none, flashN := p.n, flashFailed := true } ∧
      t.on (Reg.prfJob f) F.prfJob_flash_busy = false ∧ (∃ e, t.mon.evQ = s.mon.evQ ++ [e] ∧ e.code = 0xF0B ∧ e.inst = v) ∧ Kept s t ∧
      RegsKept s t [Reg.prfJob f])) ∧
  (∀ (s : State) (id n m f : Nat) (j : Job), Holds s id f j →
    (j.flashN = n → j.flashSelf = false → Gives (.flashDoneReceived id n m) s fun t =>
      t.job f = some { j with flashKids := sins j.flashKids m } ∧ Kept s t ∧ RegsKept s t []) ∧
    (∀ v x, j.flashN = n → j.flashSelf = true → j.flashFailed = false → j.leads = true → (∀ i ∈ j.kidList, i = m ∨ i ∈ j.flashKids) →
      s.proofVol f = some (v, x) → Quiet s → Gives (.flashDoneReceived id n m) s fun t => t.rd (Reg.prfFlash f) = BitVec.ofNat 64 n ∧
        (∃ y, mget t.ps.vols v = some y ∧ y.proofs.length = min 2 x.proofs.length ∧ ∀ p ∈ y.proofs, p.n = n → p.usable = true) ∧ Kept s t ∧
        RegsKept s t [Reg.prfFlash f]) ∧
    (j.flashN ≠ n → exec (.flashDoneReceived id n m) s = .next s ∧ exec (.flashFailedReceived id n m) s = .next s) ∧
    (∀ p x, j.flashN = n → j.flashFailed = false → m ∈ j.kidList → j.parent j.self = some p → j.members[p]? = some x → Quiet s →
      Gives (.flashFailedReceived id n m) s fun t => t.job f = some { j with flashFailed := true } ∧
        t.out = s.out ++ [⟨.msg, [7, x.node, 105, j.id, n, j.self], none, []⟩] ∧ Kept s t ∧ RegsKept s t []) ∧
    (∀ v x, s.proofVol f = some (v, x) → Quiet s → Gives (.flashUsableReceived id n) s fun t => t.rd (Reg.prfFlash f) = BitVec.ofNat 64 n ∧
        (∃ y, mget t.ps.vols v = some y ∧ y.proofs.length = min 2 x.proofs.length ∧ ∀ p ∈ y.proofs, p.n = n → p.usable = true) ∧ Kept s t ∧
        RegsKept s t [Reg.prfFlash f]))

/-- HEARTBEAT_DUE, HEARTBEAT_RECEIVED, HEARTBEAT_SILENCE, SUSPECT_RECEIVED, LEAVE_RECEIVED, LOST_RECEIVED, FAULT_REPORT_RECEIVED,
FAULT_REPORT_WINDOW_END, ROLLBACK_RECEIVED, ROLLBACK_RESTORE_DONE, ROLLED_RECEIVED, TAKEOVER_RECEIVED, MOVE_RECEIVED, REBUILD_DONE,
RECOVERED_RECEIVED: every neighbour is sent a heartbeat; one heard ends the suspicion, one silent too long starts it, a second suspicion puts
the node into the fault map with the alarm; a module named is fenced; the sink counts reports of a signature for a millisecond, tells them
as one event and blames by Table 18-3; a rollback makes the job Recovering, restores each page from the oldest generation that holds it and
reports ROLLED; a spare takes the lost node's identity through a warm reset, its move is recorded, its pages rebuilt; RECOVERED leaves the
job waiting for RESUME.
What in it is the model's own choice is said in log 50, 51, 65, 66. -/
def Obligations.LostMembersAreReplaced : Prop :=
  (∀ s : State, Quiet s →
    (s.on Reg.prfCtrl F.prfCtrl_hb_en = true → Gives .heartbeatDue s fun t =>
      t.out = s.out ++ (s.neighbours s.node).map (fun x => ⟨.msg, [7, x, 120, s.node], none, []⟩) ∧ Kept s t ∧ RegsKept s t []) ∧
    (s.on Reg.prfCtrl F.prfCtrl_hb_en = false → exec .heartbeatDue s = .next s)) ∧
  (∀ (s : State) (x : Nat), Quiet s → s.on Reg.prfCtrl F.prfCtrl_hb_en = true →
    (x ∈ s.neighbours s.node → Gives (.heartbeatReceived x) s fun t => mget t.prf.heard x = some s.clk ∧
      t.prf.suspects = sdel s.prf.suspects (x * 65536 + s.node) ∧ Kept s t ∧ RegsKept s t []) ∧
    (x ∉ s.neighbours s.node → exec (.heartbeatReceived x) s = .next s)) ∧
  (∀ (s : State) (x t0 : Nat), s.on Reg.prfCtrl F.prfCtrl_hb_en = true → mget s.prf.heard x = some t0 →
    (x ∈ s.neighbours s.node → s.nodeLostAt x = false → (∀ k ∈ s.prf.suspects, k / 65536 ≠ x) → (s.neighbours x).length ≠ 1 →
      t0 + max 10 (s.rf Reg.prfCtrl F.prfCtrl_loss_ms) * 1000000 ≤ s.clk → s.pd 94 = 2 → s.mon.evQ.length < 384 → Quiet s →
      Gives (.heartbeatSilence x) s fun t => t.prf.suspects = sins s.prf.suspects (x * 65536 + s.node) ∧
        t.out = s.out ++ ((s.neighbours x).filter fun y => decide (y ≠ s.node)).map (fun y => ⟨.msg, [7, y, 121, x, s.node, 0], none, []⟩) ∧
        (∃ e, t.mon.evQ = s.mon.evQ ++ [e] ∧ e.cls = .warning ∧ e.code = 0xF01 ∧ e.arg0 = x) ∧ Kept s t ∧ RegsKept s t []) ∧
    (s.clk < t0 + max 10 (s.rf Reg.prfCtrl F.prfCtrl_loss_ms) * 1000000 → exec (.heartbeatSilence x) s = .next s)) ∧
  (∀ (s : State) (x y : Nat),
    exec (.suspectReceived x y true) s = .next { s with prf.suspects := sdel s.prf.suspects (x * 65536 + y) } ∧
    (x ≠ s.node → y < 65536 → y ≠ s.node → s.prf.suspects = [x * 65536 + s.node] → s.nodeLostAt x = false → s.prf.jobs = [] → s.qpe.qps = [] →
      s.col.groups = [] → (∀ n, n < 12 → s.fabActive n = false) → s.logs = true → Gives (.suspectReceived x y false) s fun t =>
        (∃ e, t.fab.faults = s.fab.faults ++ [e] ∧ e.lost = true ∧ e.node = x ∧ e.stamp = s.time) ∧ t.fab.routeDue = true ∧
        (∃ e ∈ t.mon.logVol, e.cls = .alarm ∧ e.code = 0xF02 ∧ e.arg0 = x) ∧ Kept s t)) ∧
  (∀ (s : State) (f y : Nat) (j : Job), f ≤ 1024 → s.prf.jobs = [(f, j)] → s.jobSt f ≠ 6 → Settled s f → (∀ e ∈ s.qpe.qps, e.2.owner ≠ f) →
    ∀ c ∈ [Instr.lostReceived s.node, .suspectReceived s.node y false], Gives c s fun t =>
      t.jobSt f = 6 ∧ (∃ e ∈ t.mon.logVol, e.cls = .alarm ∧ e.code = 0xF06 ∧ e.fn = f) ∧
      (∃ j', t.job f = some j' ∧ j'.stepping = false ∧ j'.waiting = none) ∧ t.mem = s.mem) ∧
  (∀ (s : State) (x : Nat), x ≠ s.node → exec (.lostReceived x) s = .next s) ∧
  (∀ (s : State) (id m f : Nat) (j : Job), Holds s id f j → s.jobSt f < 4 → m ∈ j.ranks → m ∉ j.lostSet → m ≠ j.self →
    (j.leads = true → (({ j with lostSet := sins j.lostSet m } : Job).leads) = true → s.committed f ≠ 0 → s.prf.jobs = [(f, j)] →
      ({ j with lostSet := sins j.lostSet m } : Job).broken = none → Settled s f → Gives (.leaveReceived id m) s fun t =>
        t.jobSt f = 4 ∧ (∃ j', t.job f = some j' ∧ j'.lostSet = sins j.lostSet m ∧ j'.target = s.committed f ∧ j'.restoring = true) ∧
        t.rf (Reg.prfJob f) F.prfJob_lost_count = min (s.rf (Reg.prfJob f) F.prfJob_lost_count + 1) 65535) ∧
    (j.leads = false → ({ j with lostSet := sins j.lostSet m } : Job).coord = j.coord → Gives (.leaveReceived id m) s fun t =>
        (∃ j', t.job f = some j' ∧ j'.lostSet = sins j.lostSet m) ∧ t.jobSt f = s.jobSt f ∧ Kept s t ∧ RegsKept s t [Reg.prfJob f])) ∧
  (∀ (s : State) (o u sig at_ n : Nat) (link : List Nat),
    (s.rf Reg.prfCtrl F.prfCtrl_sink_node = s.node → Gives (.faultReportReceived o u sig at_ n link) s fun t =>
      (∃ w, mget t.prf.windows sig = some w ∧ o ∈ w.origins ∧
        (mget s.prf.windows sig = none → w.opened = s.clk ∧ w.count = 1 + n ∧ w.first.origin = o ∧ w.first.time = at_) ∧
        (∀ w', mget s.prf.windows sig = some w' → w.opened = w'.opened ∧ w.count = w'.count + 1 + n ∧ w.first = w'.first)) ∧ Kept s t ∧
      RegsKept s t []) ∧
    (s.rf Reg.prfCtrl F.prfCtrl_sink_node ≠ s.node → exec (.faultReportReceived o u sig at_ n link) s = .next s)) ∧
  (∀ (s : State) (sig : Nat) (w : FaultWindow), mget s.prf.windows sig = some w →
    (s.clk < w.opened + 1000000 → exec (.faultReportWindowEnd sig) s = .next s) ∧
    (w.opened + 1000000 ≤ s.clk → mget s.prf.windows sig = some w → s.pd 94 = 2 → s.mon.evQ.length < 384 → Gives (.faultReportWindowEnd sig) s fun t =>
      mget t.prf.windows sig = none ∧ (∃ e, t.mon.evQ = s.mon.evQ ++ [e] ∧ e.cls = .fault ∧ e.code = 0xF03 ∧ e.arg0 = sig ∧
        e.count = min (2 ^ 32 - 1) w.count) ∧ Kept s t ∧ RegsKept s t []) ∧
    (∀ (r x : FaultReport) (ra ga aa n p rb gb ab m q : Nat), w.opened + 1000000 ≤ s.clk → w.reports = [r] → r.link = some (ra, ga, aa, n, p) →
      x.link = some (rb, gb, ab, m, q) → r.otherEnd x = true → s.prf.downs = [x] →
      ((ra = 2 ∧ rb = 2) ∨ (ra = 1 ∧ rb = 1) → Gives (.faultReportWindowEnd sig) s fun t => .cable r.origin x.origin ∈ t.prf.blames) ∧
      (ra = 3 → aa = (gb + 1) % 4096 → Gives (.faultReportWindowEnd sig) s fun t => .direction r.origin x.origin ∈ t.prf.blames) ∧
      (ra = 3 → aa ≠ (gb + 1) % 4096 → Gives (.faultReportWindowEnd sig) s fun t => .direction x.origin r.origin ∈ t.prf.blames))) ∧
  (∀ (s : State) (id c f : Nat) (lost : List Nat) (j : Job), Holds s id f j →
    (s.jobSt f < 4 → c = s.committed f → s.prf.jobs = [(f, j)] → Settled s f → Gives (.rollbackReceived id c lost false) s fun t =>
      RolledBack s t f c ∧ ∀ i m, ({ j with lostSet := ((lost.foldl sins []).filter fun i => !j.lostSet.contains i).foldl sins j.lostSet } : Job).kidList = [i] →
        j.members[i]? = some m → ⟨.msg, [7, m.node, 107, j.id, c, 0] ++ lost.foldl sins [], none, []⟩ ∈ t.out) ∧
    (s.jobSt f = 6 → exec (.rollbackReceived id c lost false) s = .next s) ∧
    (s.jobSt f ≠ 6 → s.jobSt f < 6 → Gives (.rollbackReceived id 0 lost true) s fun t => t.jobSt f = 5 ∧ t.mem = s.mem)) ∧
  (∀ (s : State) (f i g n p : Nat) (j : Job) (r : ProtRegion) (pg : Page) (m : Member), f ≤ 1024 → s.prf.jobs = [(f, j)] → j.restoring = true →
    j.gens = [(n, [(r.page, pg)])] → j.peerOld = [] → j.regions = [(i, r)] → r.space = 0 → r.hbm = [g] → r.len = pageSize →
    g * pageSize + pageSize ≤ hbmEnd → NoDirtyLog s → j.leads = false → j.kidList = [] → j.rolledSent = false → j.parent j.self = some p →
    j.members[p]? = some m → Quiet s → Gives (.rollbackRestoreDone f) s fun t =>
      (∀ a, ¬ (s.rf (Reg.vfmDlogBase f 1) F.vfmDlogBase_base * 4096 ≤ a ∧
          a < s.rf (Reg.vfmDlogBase f 1) F.vfmDlogBase_base * 4096 + 2 * (cdiv (s.dlogLen f) 4096 * 4096)) →
        t.byte a = if g * pageSize ≤ a ∧ a < (g + 1) * pageSize then dget pg 0 (a - g * pageSize) else s.byte a) ∧
      (∀ a, s.dlogBuf f 1 ≤ a → a < s.dlogBuf f 1 + s.dlogLen f → t.byte a = 0) ∧
      (∃ j', t.job f = some j' ∧ j'.gens = [] ∧ j'.parityGens = [] ∧ j'.cut = j.target ∧ j'.restoring = false ∧ j'.rolledSelf = true) ∧
      t.out = s.out ++ [⟨.msg, [7, m.node, 108, j.id, s.committed f, j.self], none, []⟩] ∧ t.pending = s.pending) ∧
  (∀ (s : State) (id m f : Nat) (j : Job), Holds s id f j → (s.jobSt f = 4 ∨ s.jobSt f = 5) →
    (j.rolledSelf = false → Gives (.rolledReceived id m false) s fun t => t.job f = some { j with rolled := sins j.rolled m } ∧ Kept s t ∧ RegsKept s t []) ∧
    (j.rolledSelf = false → Gives (.rolledReceived id m true) s fun t => t.job f = some { j with rebuilt := sins j.rebuilt m } ∧ Kept s t ∧ RegsKept s t []) ∧
    (s.jobSt f = 4 → j.rolledSelf = true → j.leads = true → j.recovered = false → (∀ i ∈ j.kidList, i ∈ j.rolled) →
      (∀ i ∈ j.lostSet, i = m ∨ i ∈ j.rebuilt) → Gives (.rolledReceived id m true) s fun t =>
        (∃ j', t.job f = some j' ∧ j'.recovered = true ∧ j'.lostSet = [] ∧ j'.cut = s.committed f) ∧ t.jobSt f = 4 ∧
        t.committed f = s.committed f ∧ t.mem = s.mem)) ∧
  (∀ (s : State) (x : Nat),
    (s.top.held = false → s.top.stopped = false → Gives (.takeoverReceived x) s fun t => t.rf Reg.topReset F.topReset_node_ovr = x % 65536 ∧
      t.on Reg.topReset F.topReset_node_ovr_en = true ∧ t.rf Reg.topBootStatus F.topBootStatus_cause = 4 ∧
      t.rf Reg.topBootStatus F.topBootStatus_ready = 0 ∧ t.prf = {} ∧ t.pending = s.pending) ∧
    (s.top.held = true ∨ s.top.stopped = true → exec (.takeoverReceived x) s = .next s)) ∧
  (∀ (s : State) (x pos frm : Nat),
    (mget s.fab.moves x = some pos → exec (.moveReceived x pos frm) s = .next s) ∧
    (mget s.fab.moves x ≠ some pos → Quiet s → Gives (.moveReceived x pos frm) s fun t => mget t.fab.moves x = some pos ∧ t.fab.routeDue = true ∧
      t.out = s.out ++ ((List.range 12).filter fun n => s.fabActive n && decide (n ≠ frm)).map
        (fun n => ⟨.msg, [7, (s.link n).peerNode, 117, x, pos], none, []⟩) ∧ Kept s t)) ∧
  (∀ (s : State) (f c i g x : Nat) (j : Job) (r : ProtRegion) (pulls : List Pull) (pg : Page) (m : Member), f ≤ 1024 → s.prf.jobs = [(f, j)] →
    j.rebuild = true → j.rolledSelf = false → j.me.data = true → j.regions = [(i, r)] → r.space = 0 → r.page = 0 → r.len = pageSize → r.hbm = [g] →
    g * pageSize + pageSize ≤ hbmEnd → NoDirtyLog s → j.loading = none → j.coord = some x → j.members[x]? = some m → Quiet s →
    rebuildPage pulls (j.members.filterMap fun m' => if m'.data ∧ m'.group = j.me.group then some m'.pos else none) j.me.group 0 j.me.pos = some pg →
    Gives (.rebuildDone f c pulls) s fun t =>
      (∀ a, t.byte a = if g * pageSize ≤ a ∧ a < (g + 1) * pageSize then dget pg 0 (a - g * pageSize) else s.byte a) ∧
      (∃ j', t.job f = some j' ∧ j'.cut = c ∧ j'.rolledSelf = true ∧ j'.gens = []) ∧
      t.out = s.out ++ [⟨.msg, [7, m.node, 116, j.id, j.self], none, []⟩] ∧ t.pending = s.pending) ∧
  (∀ (s : State) (id c f : Nat) (j : Job), Holds s id f j → c < 2 ^ 64 → Quiet s →
    (s.jobSt f = 4 ∨ j.rebuild = true → Gives (.recoveredReceived id c) s fun t => t.committed f = c ∧ t.jobSt f = 4 ∧
      (∃ j', t.job f = some j' ∧ j'.recovered = true ∧ j'.rebuild = false ∧ j'.lostSet = [] ∧ j'.cut = c) ∧ Kept s t ∧
      RegsKept s t [Reg.prfJob f, Reg.prfCommitted f]) ∧
    (s.jobSt f ≠ 4 → j.rebuild = false → exec (.recoveredReceived id c) s = .next s))

/-- R421: whatever the pages of a group's data members hold, the pages pulled of the others rebuild the lost one byte by byte: all the others'
with P or with Q, or all but one of them with both. A page pulled is its bytes; P is their sum and Q their sum weighted by g to the POS.
What in it is the model's own choice is said in log 65. -/
def Obligations.TwoLostPagesOfAStripeAreRebuilt : Prop :=
  ∀ (d : Nat → Nat → Byte) (poss : List Nat) (l : List Pull) (g k i : Nat), poss.Nodup → (∀ p ∈ poss, p < 16) → i ∈ poss →
    (∀ p ∈ poss, ∀ q, pull l g k p = some q → ∀ x, dget q 0 x = d p x) →
    (∀ q, pull l g k 16 = some q → ∀ x, dget q 0 x = poss.foldl (fun a p => a ^^^ d p x) 0) →
    (∀ q, pull l g k 17 = some q → ∀ x, dget q 0 x = poss.foldl (fun a p => a ^^^ gfPow p (d p x)) 0) →
    (((∀ p ∈ poss, p ≠ i → (pull l g k p).isSome = true) ∧ ((pull l g k 16).isSome = true ∨ (pull l g k 17).isSome = true)) ∨
      ((∃ m ∈ poss, m ≠ i ∧ ∀ p ∈ poss, p ≠ i → p ≠ m → (pull l g k p).isSome = true) ∧
        (pull l g k 16).isSome = true ∧ (pull l g k 17).isSome = true)) →
    ∃ q, rebuildPage l poss g k i = some q ∧ ∀ x, dget q 0 x = d i x

/-! ### The proof store (19_proof_store.md) -/

/-- A store that is not failed, whose hold-up is good, and whose command register master m may start. -/
def Sys2Proof.Machine.PsIdle (s : State) (m : Nat) : Prop :=
  s.check m (regBase + Reg.prfPsCmd) = none ∧ s.on Reg.prfPsCmd F.prfPsCmd_go = false ∧ s.ps.failed = false ∧ s.psState ≠ 3 ∧ s.ps.holdupLow = false

/-- A store command that has ended with a `RESULT`. -/
def Sys2Proof.Machine.PsEnded (t : State) (r : Nat) : Prop := Ended t Reg.prfPsCmd F.prfPsCmd_go F.prfPsCmd_result r

/-- CREATE_VOL, DELETE_VOL, QUERY_VOL, VOLUME_READ, VOLUME_WRITE, TRUNCATE, POWER_FAIL, PS_CHECKPOINT, HOLDUP_TEST, PS_SCRUB,
WEAR_LEVEL_MOVE, PROGRAM_FAILURE, ERASE_FAILURE: volumes are created of the least erased segments, deleted, shown, read into memory, appended
to in whole stripe rows and truncated; each refusal has its `RESULT`; a power failure loses what is not programmed and holds the module; a
checkpoint keeps the metadata; a refresh or a move changes no byte of a volume; a failed block takes a spare, a failed die is retired.
What in it is the model's own choice is said in log 48, 49. -/
def Obligations.StoreCommandsAndUpkeepKeepVolumes : Prop :=
  (∀ (s : State) (m : Nat), PsIdle s m → s.psArg 0 7 6 < 2 → s.psArg 0 47 32 ≠ 0 → (s.psArg 0 7 6 = 1 ∨ s.psArg 0 18 8 ≤ 1024) →
    (4 ≤ s.psVol → mget s.ps.vols s.psVol = none → s.psArg 0 47 32 ≤ s.freeSegs → Gives (.createVol m) s fun t =>
      (∃ x, mget t.ps.vols s.psVol = some x ∧ x.kind = (if s.psArg 0 7 6 = 0 then .proof else .trace) ∧
        x.owner = (if s.psArg 0 7 6 = 0 then s.psArg 0 18 8 else moduleSet) ∧ x.segs = (takeSegs (s.psArg 0 47 32) s.ps.free).1 ∧
        x.data = [] ∧ x.proofs = []) ∧ t.ps.free = (takeSegs (s.psArg 0 47 32) s.ps.free).2 ∧ PsEnded t 0 ∧ t.mem = s.mem) ∧
    (s.psVol < 4 ∨ (mget s.ps.vols s.psVol).isSome = true → Gives (.createVol m) s fun t =>
      t.ps.vols = s.ps.vols ∧ PsEnded t 2 ∧ Kept s t ∧ RegsKept s t [Reg.prfPsCmd]) ∧
    (4 ≤ s.psVol → mget s.ps.vols s.psVol = none → s.freeSegs < s.psArg 0 47 32 → Gives (.createVol m) s fun t =>
      t.ps.vols = s.ps.vols ∧ PsEnded t 3 ∧ Kept s t ∧ RegsKept s t [Reg.prfPsCmd])) ∧
  (∀ (s : State) (m : Nat), PsIdle s m → 2 ≤ s.psArg 0 7 6 → Gives (.createVol m) s fun t => t.ps.vols = s.ps.vols ∧ PsEnded t 1 ∧ Kept s t ∧
    RegsKept s t [Reg.prfPsCmd]) ∧
  (∀ (s : State) (m : Nat) (x : Vol), PsIdle s m → mget s.ps.vols s.psVol = some x →
    (4 ≤ s.psVol → (x.kind = .trace ∨ mget s.prf.jobs x.owner = none) → s.tracing s.psVol = false → Gives (.deleteVol m) s fun t =>
      mget t.ps.vols s.psVol = none ∧ t.ps.free = giveSegs x.segs s.ps.free ∧ PsEnded t 0 ∧ t.mem = s.mem) ∧
    (s.psVol < 4 → Gives (.deleteVol m) s fun t => t.ps.vols = s.ps.vols ∧ PsEnded t 2 ∧ Kept s t ∧ RegsKept s t [Reg.prfPsCmd]) ∧
    (Gives (.queryVol m) s fun t => (t.rd (Reg.prfPsArg 1)).toNat = s.durable s.psVol % 2 ^ 64 ∧ t.psVol = s.psVol ∧
      t.psArg 0 7 6 = x.kind.code ∧ (x.owner < 2 ^ 11 → t.psArg 0 18 8 = x.owner) ∧ (x.owner < 2 ^ 11 → t.psArg 0 47 32 = min 65535 x.segs.length) ∧
      t.ps.vols = s.ps.vols ∧ PsEnded t 0 ∧ Kept s t ∧ RegsKept s t [Reg.prfPsCmd, Reg.prfPsArg 0, Reg.prfPsArg 1, Reg.prfPsArg 2, Reg.prfPsArg 3])) ∧
  (∀ (s : State) (m : Nat) (x : Vol), PsIdle s m → mget s.ps.vols s.psVol = some x → s.psArg 1 47 0 % 4096 = 0 → s.psArg 2 47 0 % 4096 = 0 →
    (s.durable s.psVol < s.psArg 1 47 0 + s.psArg 2 47 0 → Gives (.volumeRead m 0 0 none) s fun t =>
      t.ps.vols = s.ps.vols ∧ PsEnded t 4 ∧ Kept s t ∧ RegsKept s t [Reg.prfPsCmd]) ∧
    (x.kind = .trace → s.psArg 1 47 0 + s.psArg 2 47 0 ≤ x.data.length → (∀ l ∈ linesOf (s.psArg 3 39 6 * 64) (s.psArg 2 47 0), s.check 0 (l * 64) = none) →
      s.psArg 3 39 6 * 64 + s.psArg 2 47 0 ≤ hbmEnd → s.biased (s.psArg 3 39 6 * 64) (s.psArg 2 47 0) = false → NoDirtyLog s →
      Gives (.volumeRead m 0 0 none) s fun t =>
        (∀ j, t.byte j = if s.psArg 3 39 6 * 64 ≤ j ∧ j < s.psArg 3 39 6 * 64 + s.psArg 2 47 0
          then x.data.getD (s.psArg 1 47 0 + (j - s.psArg 3 39 6 * 64)) 0 else s.byte j) ∧
        t.ps.vols = s.ps.vols ∧ PsEnded t 0 ∧ t.pending = s.pending) ∧
    (∀ b, s.psArg 1 47 0 ≤ b → b < s.psArg 1 47 0 + s.psArg 2 47 0 → s.psArg 1 47 0 + s.psArg 2 47 0 ≤ s.durable s.psVol → s.pd 94 = 2 →
      s.mon.evQ.length < 384 → Gives (.volumeRead m 0 0 (some b)) s fun t =>
        (∃ e, t.mon.evQ = s.mon.evQ ++ [e] ∧ e.cls = .fault ∧ e.code = 0xF0A ∧ e.inst = s.psVol ∧ e.arg1 = b) ∧ PsEnded t 5 ∧ t.mem = s.mem)) ∧
  (∀ (s : State) (m : Nat) (x : Vol), PsIdle s m → mget s.ps.vols s.psVol = some x → s.psArg 2 47 0 % 4096 = 0 → s.tracing s.psVol = false →
    (x.kind ≠ .trace → Gives (.volumeWrite m []) s fun t => t.ps.vols = s.ps.vols ∧ PsEnded t 2 ∧ Kept s t ∧ RegsKept s t [Reg.prfPsCmd]) ∧
    (x.kind = .trace → s.psState = 2 → Gives (.volumeWrite m []) s fun t => t.ps.vols = s.ps.vols ∧ PsEnded t 6 ∧ Kept s t ∧
      RegsKept s t [Reg.prfPsCmd]) ∧
    (x.kind = .trace → s.psState < 2 → x.data.length + cdiv (s.psArg 2 47 0) rowBytes * rowBytes ≤ x.segs.length * segBytes →
      (∀ l ∈ linesOf (s.psArg 3 39 6 * 64) (s.psArg 2 47 0), s.check 0 (l * 64) = none) → s.biased (s.psArg 3 39 6 * 64) (s.psArg 2 47 0) = false →
      Gives (.volumeWrite m []) s fun t =>
        mget t.ps.vols s.psVol = some { x with
          data := x.data ++ s.bytes (s.psArg 3 39 6 * 64) (s.psArg 2 47 0) ++
            List.replicate (cdiv (s.psArg 2 47 0) rowBytes * rowBytes - s.psArg 2 47 0) 0
          buf := [] } ∧ PsEnded t 0 ∧ Kept s t) ∧
    (x.kind = .trace → s.psState < 2 → x.segs.length * segBytes < x.data.length + cdiv (s.psArg 2 47 0) rowBytes * rowBytes → s.pd 94 = 2 →
      s.mon.evQ.length < 384 → Gives (.volumeWrite m []) s fun t => t.ps.vols = s.ps.vols ∧
        (∃ e, t.mon.evQ = s.mon.evQ ++ [e] ∧ e.cls = .warning ∧ e.code = 0xF0B ∧ e.inst = s.psVol) ∧ PsEnded t 3 ∧ Kept s t)) ∧
  (∀ (s : State) (m : Nat) (x : Vol), PsIdle s m → mget s.ps.vols s.psVol = some x →
    (x.kind = .trace → Gives (.truncate m) s fun t => mget t.ps.vols s.psVol = some { x with data := [], buf := [] } ∧ PsEnded t 0 ∧ Kept s t ∧
      RegsKept s t [Reg.prfPsCmd]) ∧
    (x.kind = .log → Gives (.truncate m) s fun t => t.mon.logVol = [] ∧ t.ps.vols = s.ps.vols ∧ PsEnded t 0 ∧ Kept s t ∧ RegsKept s t [Reg.prfPsCmd]) ∧
    (x.kind = .proof → Gives (.truncate m) s fun t => t.ps.vols = s.ps.vols ∧ PsEnded t 2 ∧ Kept s t ∧ RegsKept s t [Reg.prfPsCmd])) ∧
  (∀ (s : State) (m : Nat), s.check m (regBase + Reg.prfPsCmd) = none → s.on Reg.prfPsCmd F.prfPsCmd_go = false → s.ps.failed = false →
    s.psState = 3 → s.ps.holdupLow = false → ∀ c ∈ [Instr.createVol m, .deleteVol m, .queryVol m, .volumeRead m 0 0 none, .volumeWrite m [], .truncate m],
      Gives c s fun t => t.ps.vols = s.ps.vols ∧ PsEnded t 5 ∧ Kept s t ∧ RegsKept s t [Reg.prfPsCmd]) ∧
  (∀ (s : State) (pg : Bool),
    (s.top.held = false → Gives (.powerFail pg) s fun t => t.top.held = true ∧ t.ps.failed = true ∧ t.top.pgIn = (s.top.pgIn && !pg) ∧
      t.on Reg.topBootStatus F.topBootStatus_ready = false ∧ (∀ d, d < 96 → t.pd d = 0 ∨ t.pd d = 3) ∧ t.pending = s.pending) ∧
    (s.top.held = true → exec (.powerFail false) s = .next s)) ∧
  (∀ s : State, s.ps.failed = false → s.psState ≠ 3 →
    (s.ps.clean = false → Gives .psCheckpoint s fun t => t.ps.ckpt = s.ps.vols ∧ t.ps.vols = s.ps.vols ∧ t.ps.clean = true ∧
      t.ps.ckptInc = s.rf Reg.topInc F.topInc_inc ∧ (s.ps.waitCkpt = true → t.on Reg.prfPsCmd F.prfPsCmd_go = false) ∧ Kept s t ∧
      RegsKept s t [Reg.prfPsCmd]) ∧
    (s.ps.clean = true → exec .psCheckpoint s = .next s)) ∧
  (∀ (s : State) (us : Nat),
    (5000 ≤ us → Gives (.holdupTest us) s fun t => t.ps.holdupLow = false ∧ t.mem = s.mem) ∧
    (us < 5000 → s.logs = true → s.psState < 2 → s.ps.dies = [] → Gives (.holdupTest us) s fun t => t.ps.holdupLow = true ∧
      (∃ e ∈ t.mon.logVol, e.cls = .fault ∧ e.code = 0xF0D ∧ e.arg0 = us) ∧ t.on Reg.prfPsHealth F.prfPsHealth_holdup_low = true ∧ t.mem = s.mem)) ∧
  (∀ (s : State) (v i corr old c : Nat) (aged : Bool) (x : Vol) (fr : Map Nat), s.ps.failed = false → s.psState ≠ 3 → mget s.ps.vols v = some x →
    x.segs[i]? = some old → takeSeg s.ps.free = some (c, fr) →
    (corr ≤ 96 → aged = false → Gives (.psScrub v i corr aged 0 0) s fun t => t.ps = s.ps ∧ Kept s t ∧ RegsKept s t []) ∧
    (96 < corr ∨ aged = true → Gives (.psScrub v i corr aged 0 0) s fun t => mget t.ps.vols v = some { x with segs := x.segs.set i c } ∧
      t.ps.free = giveSegs [old] fr ∧ t.mem = s.mem) ∧
    (∀ days, 30 ≤ days → old + 300 < s.rf Reg.prfPsHealth F.prfPsHealth_max_pe → Gives (.wearLevelMove v i days) s fun t =>
      mget t.ps.vols v = some { x with segs := x.segs.set i c } ∧ t.ps.free = giveSegs [old] fr ∧ t.mem = s.mem) ∧
    (∀ days, days < 30 ∨ s.rf Reg.prfPsHealth F.prfPsHealth_max_pe ≤ old + 300 → exec (.wearLevelMove v i days) s = .next s)) ∧
  (∀ (s : State) (d moved : Nat), d < 128 → s.ps.dies.contains d = false →
    (s.spareBlocks d ≠ 0 → ∀ c ∈ [Instr.programFailure d moved false, .eraseFailure d false], Gives c s fun t =>
      t.spareBlocks d = s.spareBlocks d - 1 ∧ t.ps.dies = s.ps.dies ∧ t.ps.vols = s.ps.vols ∧
      t.rf (Reg.prfPsStat 5) F.prfPsStat_count = min (s.rf (Reg.prfPsStat 5) F.prfPsStat_count + 1) (2 ^ 64 - 1) ∧ t.mem = s.mem) ∧
    (s.pd 94 = 2 → s.mon.evQ.length < 384 → ∀ c ∈ [Instr.programFailure d moved true, .eraseFailure d true], Gives c s fun t =>
      d ∈ t.ps.dies ∧ t.spareBlocks d = 0 ∧ t.ps.vols = s.ps.vols ∧ (∃ e ∈ t.mon.evQ, e.cls = .warning ∧ e.code = 0xF0E ∧ e.inst = d) ∧ t.mem = s.mem))

/-! ### Mailboxes, interrupts and monitors (20_mailboxes_interrupts.md, 22_monitors.md) -/

/-- MBX_SEND, MBX_POP, WAKE_HOLD_EXPIRY, EDGE_SOURCE_EVENT, LEVEL_SOURCE_CHANGE, ICU_CLAIM, ICU_COMPLETE, ICU_SRC_WRITE,
MSIX_COALESCE_TIMEOUT, MSIX_UNMASK: a notice of a channel's sender is queued with its sequence number and time, dropped and counted when the
channel is full, refused from another master; a pop takes the oldest, or sets UNDERFLOW; an edge sets the latch and PEND, or counts; PEND
follows a level; a claim answers the eligible source of the highest priority, the lowest number among equals, and puts it in service, and
completion ends that; a vector's message is sent when its time is up or its masks have cleared.
What in it is the model's own choice is said in log 17, 59. -/
def Obligations.NoticesAndInterruptsReachTheirTargets : Prop :=
  (∀ (s : State) (m c : Nat) (v : Word), c < 512 →
    (s.mbxEn c = true → m = s.mbxSender c → (0x400 < s.mbxReceiver c ∨ (s.fnEn (s.mbxReceiver c) = true ∧
        s.on (Reg.vfmFnCtrl (s.mbxReceiver c)) F.vfmFnCtrl_flr_busy = false)) →
      (96 ≤ s.rf (Reg.mbxChan c) F.mbxChan_domain ∨ s.pd (s.rf (Reg.mbxChan c) F.mbxChan_domain) ≠ 3) →
      ((s.chan c).q.length < s.mbxSlots c → s.on (Reg.mbxChan c) F.mbxChan_wake = false → Gives (.mbxSend m c v) s fun t =>
        (t.chan c).q = (s.chan c).q ++ [⟨v.toNat, (s.chan c).nextSeq, s.time⟩] ∧ (t.chan c).nextSeq = ((s.chan c).nextSeq + 1) % 2 ^ 16 ∧
        Kept s t ∧ RegsKept s t []) ∧
      (s.mbxSlots c ≤ (s.chan c).q.length → isUnit m = false → mget s.mon.limited (2817 * 2 ^ 32 + c) = none → s.pd 94 = 2 →
        s.mon.evQ.length < 384 → Gives (.mbxSend m c v) s fun t => t.icu = s.icu ∧ t.on (Reg.mbxTxStat c) F.mbxTxStat_full = true ∧
          t.rf (Reg.mbxTxStat c) F.mbxTxStat_drops = min (s.rf (Reg.mbxTxStat c) F.mbxTxStat_drops + 1) (2 ^ 32 - 1) ∧
          (∃ e, t.mon.evQ = s.mon.evQ ++ [e] ∧ e.cls = .warning ∧ e.code = 0xB01 ∧ e.arg0 = c + 65536) ∧ Kept s t ∧ RegsKept s t [Reg.mbxTxStat c])) ∧
    (s.mbxEn c = true → m ≠ s.mbxSender c → s.pd 94 = 2 → s.mon.evQ.length < 384 → Gives (.mbxSend m c v) s fun t => t.icu = s.icu ∧
      (∃ e, t.mon.evQ = s.mon.evQ ++ [e] ∧ e.cls = .fault ∧ e.code = 0x003 ∧ e.arg0 = m % 4096) ∧ Kept s t ∧ RegsKept s t [])) ∧
  (∀ (s : State) (m c : Nat), c < 512 →
    (∀ h l, m = s.mbxReceiver c → (s.chan c).q = h :: l → mget s.icu.woken (s.rf (Reg.mbxChan c) F.mbxChan_domain) = none →
      Gives (.mbxPop m c) s fun t => (t.chan c).q = l ∧ Kept s t ∧ RegsKept s t []) ∧
    (∀ h w, m = s.mbxReceiver c → (s.chan c).q = [h] → mget s.icu.woken (s.rf (Reg.mbxChan c) F.mbxChan_domain) = some w →
      Gives (.mbxPop m c) s fun t => (t.chan c).q = [] ∧
        mget t.icu.woken (s.rf (Reg.mbxChan c) F.mbxChan_domain) = some (some (s.clk + 1000000)) ∧ Kept s t ∧ RegsKept s t []) ∧
    (m = s.mbxReceiver c → (s.chan c).q = [] → Gives (.mbxPop m c) s fun t => t.icu = s.icu ∧
      t.on (Reg.mbxRxStat c) F.mbxRxStat_underflow = true ∧ Kept s t ∧ RegsKept s t [Reg.mbxRxStat c]) ∧
    (m ≠ s.mbxReceiver c → Gives (.mbxPop m c) s fun t => t.icu = s.icu ∧ Kept s t)) ∧
  (∀ (s : State) (d t0 : Nat), mget s.icu.woken d = some (some t0) →
    (t0 ≤ s.clk → exec (.wakeHoldExpiry d) s = .next { s with icu.woken := mdel s.icu.woken d }) ∧
    (s.clk < t0 → exec (.wakeHoldExpiry d) s = .next s)) ∧
  (∀ (s : State) (i : Nat), i < 4096 → s.on (Reg.icuSrc i) F.icuSrc_trig = true → s.on (Reg.icuSrc i) F.icuSrc_host = false →
    (s.on (Reg.icuSrc i) F.icuSrc_latch = false → s.on (Reg.icuSrc i) F.icuSrc_insvc = false → Gives (.edgeSourceEvent i) s fun t =>
      t.on (Reg.icuSrc i) F.icuSrc_latch = true ∧ t.on (Reg.icuSrc i) F.icuSrc_pend = true ∧ Kept s t ∧ RegsKept s t [Reg.icuSrc i]) ∧
    (s.on (Reg.icuSrc i) F.icuSrc_latch = false → s.on (Reg.icuSrc i) F.icuSrc_insvc = true → Gives (.edgeSourceEvent i) s fun t =>
      t.on (Reg.icuSrc i) F.icuSrc_latch = true ∧ t.on (Reg.icuSrc i) F.icuSrc_pend = s.on (Reg.icuSrc i) F.icuSrc_pend ∧ Kept s t ∧
      RegsKept s t [Reg.icuSrc i]) ∧
    (s.on (Reg.icuSrc i) F.icuSrc_latch = true → Gives (.edgeSourceEvent i) s fun t =>
      t.rf Reg.icuLatchOvf F.icuLatchOvf_count = min (s.rf Reg.icuLatchOvf F.icuLatchOvf_count + 1) (2 ^ 32 - 1) ∧ Kept s t ∧
      RegsKept s t [Reg.icuLatchOvf])) ∧
  (∀ (s : State) (i f v : Nat), i < 4096 → s.on (Reg.icuSrc i) F.icuSrc_trig = true → s.on (Reg.icuSrc i) F.icuSrc_host = true →
    s.on (Reg.icuSrc i) F.icuSrc_en = true → f = min 1024 (s.rf (Reg.icuSrc i) F.icuSrc_fn) → v = s.rf (Reg.icuSrc i) F.icuSrc_vec →
    s.fnEn f = true → v < s.msixLimit f → s.rf (coalKey f v) F.icuCoalPf_time = 0 → s.msixMasked f v = false → Quiet s →
    Gives (.edgeSourceEvent i) s fun t => t.out = s.out ++ [⟨.msix, [f, v, (s.msixEnt f v).addr, (s.msixEnt f v).data], none, []⟩] ∧ Kept s t ∧
      RegsKept s t [coalKey f v]) ∧
  (∀ (s : State) (i : Nat) (up : Bool), 0x400 ≤ i → i < 4096 → s.on (Reg.icuSrc i) F.icuSrc_trig = false → s.on (Reg.icuSrc i) F.icuSrc_host = false →
    s.on (Reg.icuSrc i) F.icuSrc_insvc = false → s.icu.level.contains i = !up → Gives (.levelSourceChange i up) s fun t =>
      t.on (Reg.icuSrc i) F.icuSrc_pend = up ∧ t.icu.level.contains i = up ∧ Kept s t ∧ RegsKept s t [Reg.icuSrc i]) ∧
  (∀ (s : State) (m t : Nat), s.check m (regBase + Reg.icuClaim t) = none → Quiet s →
    (s.eligible t ≠ [] → ∃ i ∈ s.eligible t, i < 4096 ∧ (∀ j ∈ s.eligible t, s.claimKey j ≤ s.claimKey i) ∧ Gives (.icuClaim m t) s fun u =>
      u.out = s.out ++ [⟨.resp, [m, regBase + Reg.icuClaim t, 0], none, leBytes 8 (2 ^ 63 + i)⟩] ∧ u.on (Reg.icuSrc i) F.icuSrc_insvc = true ∧
      u.on (Reg.icuSrc i) F.icuSrc_pend = false ∧ u.on (Reg.icuSrc i) F.icuSrc_latch = false ∧ Kept s u ∧ RegsKept s u [Reg.icuSrc i]) ∧
    (s.eligible t = [] → Gives (.icuClaim m t) s fun u =>
      u.out = s.out ++ [⟨.resp, [m, regBase + Reg.icuClaim t, 0], none, leBytes 8 0⟩] ∧ u.icu = s.icu ∧ Kept s u ∧ RegsKept s u [])) ∧
  (∀ (s : State) (m t i : Nat), i < 4096 → t < 4 → s.check m (regBase + Reg.icuComplete t) = none →
    (s.on (Reg.icuSrc i) F.icuSrc_insvc = true → s.rf (Reg.icuSrc i) F.icuSrc_core = t → s.on Reg.icuCtrl F.icuCtrl_svc_mode = false →
      Gives (.icuComplete m t i) s fun u => u.on (Reg.icuSrc i) F.icuSrc_insvc = false ∧
        u.on (Reg.icuSrc i) F.icuSrc_pend = (if s.on (Reg.icuSrc i) F.icuSrc_trig then s.on (Reg.icuSrc i) F.icuSrc_latch else s.icu.level.contains i) ∧
        Kept s u ∧ RegsKept s u [Reg.icuSrc i]) ∧
    (s.on (Reg.icuSrc i) F.icuSrc_insvc = false ∨ s.rf (Reg.icuSrc i) F.icuSrc_core ≠ t → Gives (.icuComplete m t i) s fun u =>
      u.on (Reg.icuThresh t) F.icuThresh_err = true ∧ Kept s u ∧ RegsKept s u [Reg.icuThresh t])) ∧
  (∀ (s : State) (i : Nat) (v : Word), s.check 0 (regBase + Reg.icuSrc i) = none →
    (i < 0x100 → s.icu.level.contains i = false → Gives (.icuSrcWrite 0 i v) s fun t =>
      (∀ f ∈ [F.icuSrc_en, F.icuSrc_prio, F.icuSrc_host, F.icuSrc_core, F.icuSrc_fn, F.icuSrc_vec], t.rf (Reg.icuSrc i) f = fld v f.hi f.lo) ∧
      (∀ f ∈ [F.icuSrc_insvc, F.icuSrc_pend, F.icuSrc_latch, F.icuSrc_trig], t.rf (Reg.icuSrc i) f = s.rf (Reg.icuSrc i) f) ∧ Kept s t ∧
      RegsKept s t [Reg.icuSrc i]) ∧
    (0x400 ≤ i → exec (.icuSrcWrite 0 i v) s = .next s)) ∧
  (∀ (s : State) (f v t0 : Nat), f ≤ 1024 → v < 2048 → (f = 0 ∨ v < 64) → (s.msixEnt f v).first = some t0 →
    s.rf (coalKey f v) F.icuCoalPf_events ≠ 0 → Quiet s →
    (t0 + s.rf (coalKey f v) F.icuCoalPf_time * 100 ≤ s.clk → s.msixMasked f v = false → Gives (.msixCoalesceTimeout f v) s fun t =>
      t.out = s.out ++ [⟨.msix, [f, v, (s.msixEnt f v).addr, (s.msixEnt f v).data], none, []⟩] ∧ t.rf (coalKey f v) F.icuCoalPf_events = 0 ∧
      (t.msixEnt f v).first = none ∧ (t.msixEnt f v).pend = false ∧ Kept s t ∧ RegsKept s t [coalKey f v]) ∧
    (t0 + s.rf (coalKey f v) F.icuCoalPf_time * 100 ≤ s.clk → s.msixMasked f v = true → Gives (.msixCoalesceTimeout f v) s fun t =>
      t.out = s.out ∧ (t.msixEnt f v).pend = true ∧ Kept s t ∧ RegsKept s t [coalKey f v]) ∧
    (s.clk < t0 + s.rf (coalKey f v) F.icuCoalPf_time * 100 → exec (.msixCoalesceTimeout f v) s = .next s)) ∧
  (∀ (s : State) (f v : Nat), (s.msixEnt f v).pend = true → Quiet s →
    (s.msixMasked f v = false → Gives (.msixUnmask f v) s fun t =>
      t.out = s.out ++ [⟨.msix, [f, v, (s.msixEnt f v).addr, (s.msixEnt f v).data], none, []⟩] ∧ (t.msixEnt f v).pend = false ∧ Kept s t ∧
      RegsKept s t []) ∧
    (s.msixMasked f v = true → exec (.msixUnmask f v) s = .next s))

/-- CAPTURE_SAMPLE, CAPTURE_CLEAR, EVENT_QUEUE_DRAIN, LOG_HEAD_WRITE, LOG_RING_ENABLE, ALARM_POP: a sample counts in its unit and its bin and
moves sum, minimum and maximum; a clear empties the unit; the oldest event is written into its ring as 32 bytes with PHASE and counted, or
counted as discarded; the consumer's index is taken; a ring that is enabled starts empty, one that reaches outside its function's memory is
refused with the warning; the alarm queue loses its head.
What in it is the model's own choice is said in log 60. -/
def Obligations.MonitorsCaptureAndLog : Prop :=
  (∀ (s : State) (u b : Nat) (v : Int), u < 64 →
    (s.on (Reg.monCapCfg u) F.monCapCfg_en = true → 1 ≤ s.rf (Reg.monCapCfg u) F.monCapCfg_src → s.rf (Reg.monCapCfg u) F.monCapCfg_src ≤ 14 →
      b = captureBin (sgn 64 (s.rd (Reg.monCapBase u)).toNat) (satS 64 v) (s.rf (Reg.monCapCfg u) F.monCapCfg_shift) (s.on (Reg.monCapCfg u) F.monCapCfg_log) →
      Gives (.captureSample u v) s fun t =>
        (t.rd (Reg.monCapCount u)).toNat = min ((s.rd (Reg.monCapCount u)).toNat + 1) (2 ^ 64 - 1) ∧ b < 32 ∧
        t.rf (Reg.monCapBin u (b / 2)) (if b % 2 = 0 then F.monCapBin_even else F.monCapBin_odd) =
          min (s.rf (Reg.monCapBin u (b / 2)) (if b % 2 = 0 then F.monCapBin_even else F.monCapBin_odd) + 1) (2 ^ 32 - 1) ∧
        t.rf (Reg.monCapBin u (b / 2)) (if b % 2 = 0 then F.monCapBin_odd else F.monCapBin_even) =
          s.rf (Reg.monCapBin u (b / 2)) (if b % 2 = 0 then F.monCapBin_odd else F.monCapBin_even) ∧
        sgn 64 (t.rd (Reg.monCapSum u)).toNat = satS 64 (sgn 64 (s.rd (Reg.monCapSum u)).toNat + satS 64 v) ∧
        sgn 64 (t.rd (Reg.monCapMin u)).toNat = min (sgn 64 (s.rd (Reg.monCapMin u)).toNat) (satS 64 v) ∧
        sgn 64 (t.rd (Reg.monCapMax u)).toNat = max (sgn 64 (s.rd (Reg.monCapMax u)).toNat) (satS 64 v) ∧ Kept s t ∧
        RegsKept s t [Reg.monCapCount u, Reg.monCapBin u (b / 2), Reg.monCapSum u, Reg.monCapMin u, Reg.monCapMax u]) ∧
    (s.on (Reg.monCapCfg u) F.monCapCfg_en = false → exec (.captureSample u v) s = .next s)) ∧
  (∀ (base : Int) (v : Int) (shift : Nat), v < base → captureBin base v shift true = 0 ∧ captureBin base v shift false = 0) ∧
  (∀ (base : Int) (n shift i : Nat), (i + 1 < 31 → i * 2 ^ shift ≤ n → n < (i + 1) * 2 ^ shift → captureBin base (base + n) shift false = i + 1) ∧
    (i + 1 < 31 → (2 ^ i - 1) * 2 ^ shift ≤ n → n < (2 ^ (i + 1) - 1) * 2 ^ shift → captureBin base (base + n) shift true = i + 1)) ∧
  (∀ (s : State) (m u : Nat) (v : Word), u < 64 →
    (s.check m (regBase + Reg.monCapCfg u) = none → fld v 62 62 = 1 → Gives (.captureClear m u false v) s fun t =>
      t.rd (Reg.monCapCount u) = 0 ∧ t.rd (Reg.monCapSum u) = 0 ∧ t.rd (Reg.monCapMin u) = BitVec.ofNat 64 0x7FFFFFFFFFFFFFFF ∧
      t.rd (Reg.monCapMax u) = BitVec.ofNat 64 0x8000000000000000 ∧ (∀ i, i < 16 → t.rd (Reg.monCapBin u i) = 0) ∧
      (∀ f ∈ [F.monCapCfg_en, F.monCapCfg_autoclr, F.monCapCfg_log, F.monCapCfg_shift, F.monCapCfg_sel, F.monCapCfg_src],
        t.rf (Reg.monCapCfg u) f = fld v f.hi f.lo) ∧ Kept s t) ∧
    (s.check m (regBase + Reg.monCapBase u) = none → s.rd (Reg.monCapBase u) ≠ v → Gives (.captureClear m u true v) s fun t =>
      t.rd (Reg.monCapBase u) = v ∧ t.rd (Reg.monCapCount u) = 0 ∧ (∀ i, i < 16 → t.rd (Reg.monCapBin u i) = 0) ∧ Kept s t)) ∧
  (∀ (s : State) (e : EvRec) (q : List EvRec), s.mon.evQ = e :: q →
    (e.cls ≠ .trace → e.ring ≤ 1024 → fld (s.rd (Reg.monLog e.ring)) 63 63 = 0 → Gives .eventQueueDrain s fun t => t.mon.evQ = q ∧
      t.rf Reg.monLogNoring F.monLogNoring_count = min (s.rf Reg.monLogNoring F.monLogNoring_count + 1) (2 ^ 32 - 1) ∧ Kept s t ∧
      RegsKept s t [Reg.monLogNoring]) ∧
    (e.cls = .trace → fld (s.rd Reg.monTrace) 63 63 = 0 → Gives .eventQueueDrain s fun t => t.mon.evQ = q ∧
      t.rf Reg.monLogStat F.monLogStat_trace_dropped = min (s.rf Reg.monLogStat F.monLogStat_trace_dropped + 1) (2 ^ 32 - 1) ∧ Kept s t ∧
      RegsKept s t [Reg.monLogStat]) ∧
    (∀ r n prod a, (e.cls ≠ .trace → e.ring ≤ 1024) → r = (if e.cls = .trace then 2000 else e.ring) → (r = 2000 ∨ r ≤ 1024) → fld (s.rd (ringCfg r)) 63 63 = 1 →
      (r = 2000 ∨ r = 0 ∨ fld (s.rd (ringCfg r)) 62 62 = 0) → s.ringRoom r = true → s.ringDue r = false → n = 2 ^ ringLog (s.rd (ringCfg r)) →
      prod = fld (s.rd (ringIdx r)) 63 32 → a = fld (s.rd (ringCfg r)) 39 12 * 4096 + prod % n * 32 → NoDirtyLog s → Gives .eventQueueDrain s fun t =>
        t.mon.evQ = q ∧ (∀ j, t.byte j = if a ≤ j ∧ j < a + 32 then (e.bytes ((prod / n + 1) % 2)).getD (j - a) 0 else s.byte j) ∧
        fld (t.rd (ringIdx r)) 63 32 = (prod + 1) % 2 ^ 32 ∧ fld (t.rd (ringIdx r)) 31 0 = fld (s.rd (ringIdx r)) 31 0 ∧ t.pending = s.pending)) ∧
  (∀ (s : State) (m f : Nat) (v : Word), (f ≤ 1024 ∨ f = 2000) → Passes s m f (ringIdx f) → s.ringDue f = false → Gives (.logHeadWrite m f v) s fun t =>
    fld (t.rd (ringIdx f)) 31 0 = fld v 31 0 ∧ fld (t.rd (ringIdx f)) 63 32 = fld (s.rd (ringIdx f)) 63 32 ∧ Kept s t ∧ RegsKept s t [ringIdx f]) ∧
  (∀ (s : State) (m f : Nat) (v : Word), 1 ≤ f → f ≤ 1024 → Passes s m f (ringCfg f) → fld v 63 63 = 1 →
    (fld v 39 12 * 4096 + 2 ^ ringLog v * 32 ≤ hbmEnd → (s.part f).1 ≤ fld v 39 12 * 4096 → fld v 39 12 * 4096 + 2 ^ ringLog v * 32 ≤ (s.part f).2 →
      fld (s.rd (ringCfg f)) 63 63 = 0 → Gives (.logRingEnable m f v) s fun t =>
        fld (t.rd (ringCfg f)) 63 62 = fld v 63 62 ∧ fld (t.rd (ringCfg f)) 57 52 = fld v 57 52 ∧ fld (t.rd (ringCfg f)) 39 12 = fld v 39 12 ∧
        t.rd (ringIdx f) = 0 ∧ Kept s t ∧ RegsKept s t [ringCfg f, ringIdx f]) ∧
    ((s.part f).2 < fld v 39 12 * 4096 + 2 ^ ringLog v * 32 → s.pd 94 = 2 → s.mon.evQ.length < 384 → Gives (.logRingEnable m f v) s fun t =>
        t.rd (ringCfg f) = s.rd (ringCfg f) ∧ t.on (Reg.vfmFnCtrl 0) F.vfmFnCtrl_err = true ∧
        (∃ e, t.mon.evQ = s.mon.evQ ++ [e] ∧ e.cls = .warning ∧ e.code = 0x301) ∧ Kept s t ∧ RegsKept s t [Reg.vfmFnCtrl 0])) ∧
  (∀ (s : State) (m : Nat), s.check m (regBase + Reg.monAlarmStat) = none →
    exec (.alarmPop m) s = .next { s with mon.alarmQ := s.mon.alarmQ.drop 1 })

/-! ### Power (21_power.md) -/

/-- DOMAIN_ON_REQUEST, DOMAIN_RAMP_END, DOMAIN_ISOLATION_RELEASE, HEADSWITCH_FAULT, RAMP_PAUSE_END, CAP_WRITE, CONTROL_INSTANT, DROOP_DETECT,
DROOP_RECOVERY, BRAKE_ASSERT, BRAKE_RELEASE, THERMAL_SAMPLE, SUPPLY_TRIP, BURR_REPORT, REPLAN: a domain asked for ramps, two at a time in a
rail group, and is On when its isolation opens; a faulted headswitch latches it with the alarm; the cap is clamped; the control instant lowers
the highest plates until the prediction is within the limit or each is at its floor; droops, the brake and sensors take effect; a trip stops
the module and pulls TRIP_N low; a re-plan never raises a limit.
What in it is the model's own choice is said in log 54, 69. -/
def Obligations.PowerIsSwitchedCappedAndGuarded : Prop :=
  (∀ (s : State) (m d : Nat) (v : Word), d < 96 → s.check m (regBase + Reg.pwrDomain d) = none → (64 ≤ d ∨ s.absent d = false) →
    (fld v 0 0 = 1 → s.pd d = 0 → s.pwr.rampQ = [] → mget s.pwr.paused (railOf d) = none → s.top.stopped = false →
      (s.ramping (railOf d) < 2 → Gives (.domainOnRequest m d v) s fun t => t.pd d = 1 ∧ t.on (Reg.pwrDomain d) F.pwrDomain_on = true ∧
        t.pwr.rampQ = [] ∧ Kept s t ∧ RegsKept s t [Reg.pwrDomain d]) ∧
      (2 ≤ s.ramping (railOf d) → Gives (.domainOnRequest m d v) s fun t => t.pd d = 0 ∧ t.pwr.rampQ = [d] ∧ Kept s t ∧
        RegsKept s t [Reg.pwrDomain d])) ∧
    (fld v 0 0 = 0 → s.pd d = 2 → 68 ≤ d → d ≠ 94 → s.mayOff d = true → s.pwr.rampQ = [] → Gives (.domainOnRequest m d v) s fun t =>
      t.pd d = 0 ∧ t.on (Reg.pwrDomain d) F.pwrDomain_on = false ∧ Kept s t ∧ RegsKept s t [Reg.pwrDomain d]) ∧
    (fld v 0 0 = 0 → s.pd d = 2 → s.mayOff d = false → Gives (.domainOnRequest m d v) s fun t =>
      t.pd d = 2 ∧ t.on (Reg.pwrDomain d) F.pwrDomain_err = true ∧ Kept s t ∧ RegsKept s t [Reg.pwrDomain d])) ∧
  (∀ (s : State) (d : Nat), d < 96 → s.pd d = 1 →
    (mget s.pwr.paused (railOf d) = none → exec (.domainRampEnd d) s = .next { s with pwr.rampDone := sins s.pwr.rampDone d }) ∧
    ((mget s.pwr.paused (railOf d)).isSome = true → exec (.domainRampEnd d) s = .next s) ∧
    (s.pwr.rampDone.contains d = true → s.pwr.rampQ = [] → 64 ≤ d → (80 ≤ d ∨ d < 68 ∨ s.ready = false) → Gives (.domainIsolationRelease d) s fun t =>
      t.pd d = 2 ∧ t.pwr.rampDone = sdel s.pwr.rampDone d ∧ Kept s t ∧ RegsKept s t [Reg.pwrDomain d]) ∧
    (s.pwr.rampDone.contains d = true → s.pwr.rampQ = [] → d < 64 → s.lost d = false → Gives (.domainIsolationRelease d) s fun t =>
      t.pd d = 2 ∧ (t.plate d).resetting = true ∧ t.on (Reg.pltStatus d) F.pltStatus_scrubbing = true ∧ Kept s t) ∧
    (s.pwr.rampDone.contains d = false → exec (.domainIsolationRelease d) s = .next s)) ∧
  (∀ (s : State) (d : Nat), d < 96 →
    ((s.pd d = 1 ∨ s.pd d = 2) → s.logs = true → Gives (.headswitchFault d) s fun t => t.pd d = 3 ∧
      (∃ e ∈ t.mon.logVol, e.cls = .alarm ∧ e.code = 0xD01 ∧ e.inst = d ∧ e.arg0 = s.pd d) ∧
      (d = 95 → mget t.pwr.paused 4 = some s.clk ∧ t.pwr.rampDone = sdel s.pwr.rampDone d) ∧ t.pending = s.pending) ∧
    ((s.pd d = 0 ∨ s.pd d = 3) → exec (.headswitchFault d) s = .next s)) ∧
  (∀ (s : State) (g t0 : Nat), mget s.pwr.paused g = some t0 →
    (t0 + 50000 ≤ s.clk → s.pwr.rampQ = [] → exec (.rampPauseEnd g) s = .next { s with pwr.paused := mdel s.pwr.paused g }) ∧
    (s.clk < t0 + 50000 → exec (.rampPauseEnd g) s = .next s)) ∧
  (∀ (s : State) (m : Nat) (v : Word), s.check m (regBase + Reg.pwrCap) = none → Gives (.capWrite m v) s fun t =>
    t.cap = max 350 (min 1000 (fld v 9 0)) ∧ t.rf Reg.pwrCap F.pwrCap_brake_w = max 350 (min 1000 (fld v 41 32)) ∧ Kept s t ∧
    RegsKept s t [Reg.pwrCap]) ∧
  (∀ (s : State) (x : PowerMeas),
    (s.time / 10000 + 1 = s.pm.instant → exec (.controlInstant x) s = .next s) ∧
    (s.time / 10000 + 1 ≠ s.pm.instant → s.limitNow ≤ 1000 → Gives (.controlInstant x) s fun t =>
      t.pm.instant = s.time / 10000 + 1 ∧ t.pm.limit = s.limitNow ∧ t.rf Reg.pwrStatus F.pwrStatus_eff_cap = s.limitNow ∧
      t.rf Reg.pwrStatus F.pwrStatus_draw = min 1023 x.draw ∧ t.top.vin = x.vin ∧ t.top.iin = x.iin ∧ Kept s t) ∧
    (∀ p, s.time / 10000 + 1 ≠ s.pm.instant → s.runningPlates = [p] → Quiet s →
      within s.limitNow x.other [s.powerTarget x p] 16 = true → Gives (.controlInstant x) s fun t =>
        t.rf (Reg.pwrPlate p) F.pwrPlate_op = (s.powerTarget x p).t ∧
        t.rf (Reg.pwrPlate p) F.pwrPlate_duty = (min 16 (s.thermOf p).2 - 1) % 16 ∧
        t.rf (Reg.pwrPlate p) F.pwrPlate_kp = max 24 (s.kLim p 34 (s.powerTarget x p).t))) ∧
  (∀ (limit other : Nat) (l : List Target), (∀ y ∈ l, y.floor ≤ y.t ∧ y.t ≤ 15) →
    within limit other (lowerAll limit other 16 l) 16 = true ∨ ∀ y ∈ lowerAll limit other 16 l, y.t = y.floor) ∧
  (∀ (s : State) (p : Nat), p < 64 → s.pd p = 2 → p ∉ s.pm.stretched → s.cpfRuns = false →
    Gives (.droopDetect p) s (fun t => p ∈ t.pm.stretched ∧
      t.rf (Reg.pwrPlate p) F.pwrPlate_droops = min (s.rf (Reg.pwrPlate p) F.pwrPlate_droops + 1) (2 ^ 32 - 1) ∧
      (∀ l, mget s.pm.droopAt p = some l → l.length = 15 → (∀ a ∈ l, s.clk < a + 1000000) →
        mget t.pm.droop p = some (s.rf (Reg.pwrPlate p) F.pwrPlate_op - 1, s.clk + 10000000)) ∧ t.mem = s.mem) ∧
    exec (.droopRecovery p) s = .next { s with pm.stretched := sdel s.pm.stretched p }) ∧
  (∀ (s : State), s.rf Reg.cpfStatus F.cpfStatus_state = 0 →
    (s.pm.brake = false → s.pd 94 = 2 → s.mon.evQ.length < 384 → Gives .brakeAssert s fun t => t.pm.brake = true ∧
      t.on Reg.pwrStatus F.pwrStatus_brake = true ∧ (∃ e, t.mon.evQ = s.mon.evQ ++ [e] ∧ e.cls = .warning ∧ e.code = 0xD05) ∧ Kept s t ∧
      RegsKept s t [Reg.pwrStatus]) ∧
    (s.pm.brake = true → exec .brakeAssert s = .next s) ∧
    (Gives .brakeRelease s fun t => t.pm.brake = false ∧ t.on Reg.pwrStatus F.pwrStatus_brake = false ∧ Kept s t ∧ RegsKept s t [Reg.pwrStatus])) ∧
  (∀ (s : State) (r : List (Option Int)) (i : Nat), i < 92 → (64 ≤ i ∨ s.absent i = false) →
    (∀ v, r[i]? = some (some v) → -160 ≤ v → v ≤ 600 → Gives (.thermalSample r) s fun t =>
      (t.rf (Reg.pwrTherm i) F.pwrTherm_temp : Int) = v % 65536 ∧ t.on (Reg.pwrTherm i) F.pwrTherm_fault = false ∧
      (s.thermLim i F.pwrThermLim_trip ≤ v → 1 ≤ (s.sensor i).trips → t.top.stopped = true)) ∧
    (r[i]? = some none → (s.sensor i).seen + 1000000 ≤ s.clk → Gives (.thermalSample r) s fun t =>
      t.on (Reg.pwrTherm i) F.pwrTherm_fault = true ∧ t.on Reg.pwrStatus F.pwrStatus_sensor_fault = true)) ∧
  (∀ (s : State) (volt set_ : Nat), s.top.stopped = false → s.logs = true → Quiet s →
    (6100 < volt → Gives (.supplyTrip 0 volt set_) s fun t => t.top.stopped = true ∧ ⟨.pin, [1, 0], none, []⟩ ∈ t.out ∧
      (∃ e ∈ t.mon.logVol, e.cls = .alarm ∧ e.code = 0xD09 ∧ e.inst = 0) ∧ (∀ d, d < 96 → t.pd d = 0 ∨ t.pd d = 3)) ∧
    (volt ≤ 6100 → exec (.supplyTrip 0 volt set_) s = .next s) ∧
    (21 * set_ < 20 * volt → ∀ rail, rail ≠ 0 → Gives (.supplyTrip rail volt set_) s fun t => t.top.stopped = true)) ∧
  (∀ (s : State) (p b drift : Nat), p < 64 → b < 35 → s.absent p = false → s.pd p = 2 → Gives (.burrReport p b drift) s fun t =>
    t.rf (Reg.pwrBurr p b) F.pwrBurr_drift = drift % 2 ^ 16 ∧ Kept s t ∧ RegsKept s t [Reg.pwrBurr p b]) ∧
  (∀ (s : State) (m : Option Nat), (∀ x, m = some x → s.check x (regBase + Reg.pwrReplan) = none) → Gives (.replan m) s fun t =>
    t.on Reg.pwrReplan F.pwrReplan_done = true ∧ (∀ p b n, p < 64 → b < 35 → n < 16 → t.kLim p b n ≤ s.kLim p b n) ∧ t.mem = s.mem)

/-- SHIFT_REPORT_DUE, SHIFT_REPORT_RECEIVED, SHIFT_ALLOCATION, SHIFT_REPLY_RECEIVED, SHIFT_LEADER_SILENCE: a member reports to its leader and
starts counting steps again; the leader keeps up to 256 members; a round of the leader never lifts the sum of the shifted caps above the sum
of the caps (R511); a reply sets the shifted cap and ends fall-back, ten milliseconds without one start it.
What in it is the model's own choice is said in log 53, 54. -/
def Obligations.PowerIsShiftedWithinTheCaps : Prop :=
  (∀ (now q smax : Nat) (m : Map PoolMember), sorted m = true → (∀ e ∈ m, 350 ≤ e.2.cap) → q ≤ 255 →
    (poolRound now q smax m).foldl (fun a e => a + e.2.shifted) 0 ≤ m.foldl (fun a e => a + e.2.cap) 0 ∧
    (poolRound now q smax m).map (fun e => (e.1, e.2.cap)) = m.map fun e => (e.1, e.2.cap)) ∧
  (∀ s : State, Quiet s →
    (s.on Reg.pwrCtrl F.pwrCtrl_shift_en = true → s.poolNode ≠ s.node → Gives .shiftReportDue s fun t =>
      t.out = s.out ++ [⟨.msg, [6, s.poolNode, 130, s.node, s.rf Reg.pwrStatus F.pwrStatus_draw, s.cap, s.pm.limit, b2n s.atMax, s.pm.steps, s.pm.late],
        none, []⟩] ∧ t.pm.steps = 0 ∧ t.pm.late = 0 ∧ Kept s t ∧ RegsKept s t []) ∧
    (s.leadsPool = true → mget s.pm.pool s.node = none → s.pm.pool.length < 256 → Gives .shiftReportDue s fun t => t.out = s.out ∧
      mget t.pm.pool s.node = some ⟨s.cap, s.atMax, s.pm.steps, s.pm.late, s.cap, s.clk⟩ ∧ t.pm.steps = 0 ∧ Kept s t ∧ RegsKept s t [])) ∧
  (∀ (s : State) (n draw cap limit steps late : Nat) (am : Bool),
    (s.leadsPool = true → mget s.pm.pool n = none → s.pm.pool.length < 256 → Gives (.shiftReportReceived n draw cap limit am steps late) s fun t =>
      mget t.pm.pool n = some ⟨cap, am, steps, late, cap, s.clk⟩ ∧ Kept s t ∧ RegsKept s t []) ∧
    (∀ x, s.leadsPool = true → mget s.pm.pool n = some x → x.cap = cap → Gives (.shiftReportReceived n draw cap limit am steps late) s fun t =>
      mget t.pm.pool n = some ⟨cap, am, steps, late, x.shifted, s.clk⟩ ∧ Kept s t ∧ RegsKept s t []) ∧
    (∀ x, s.leadsPool = true → mget s.pm.pool n = some x → x.cap ≠ cap → Gives (.shiftReportReceived n draw cap limit am steps late) s fun t =>
      (∀ e ∈ t.pm.pool, e.2.shifted = e.2.cap) ∧ Kept s t ∧ RegsKept s t []) ∧
    (s.leadsPool = false ∨ (mget s.pm.pool n = none ∧ 256 ≤ s.pm.pool.length) → exec (.shiftReportReceived n draw cap limit am steps late) s = .next s)) ∧
  (∀ s : State,
    (s.leadsPool = true → Gives .shiftAllocation s fun t =>
      t.pm.pool = poolRound s.clk (max 1 (s.rf Reg.pwrCtrl F.pwrCtrl_quantum)) (s.rf Reg.pwrCtrl F.pwrCtrl_shift_max) s.pm.pool ∧
      (Quiet s → ∀ e ∈ t.pm.pool, e.1 ≠ s.node → ⟨.msg, [6, e.1, 131, e.2.shifted], none, []⟩ ∈ t.out) ∧ Kept s t) ∧
    (s.leadsPool = false → exec .shiftAllocation s = .next s)) ∧
  (∀ (s : State) (e : Nat),
    (s.on Reg.pwrCtrl F.pwrCtrl_shift_en = true → Gives (.shiftReplyReceived e) s fun t => t.pm.shifted = some e ∧ t.pm.replyAt = s.clk ∧
      t.on Reg.pwrStatus F.pwrStatus_fallback = false ∧ t.capNow = e ∧ Kept s t ∧ RegsKept s t [Reg.pwrStatus]) ∧
    (s.on Reg.pwrCtrl F.pwrCtrl_shift_en = false → exec (.shiftReplyReceived e) s = .next s)) ∧
  (∀ s : State, s.shifting = true →
    (s.pm.replyAt + 10000000 ≤ s.clk → s.pd 94 = 2 → s.mon.evQ.length < 384 → Gives .shiftLeaderSilence s fun t => t.pm.shifted = none ∧
      t.on Reg.pwrStatus F.pwrStatus_fallback = true ∧ t.capNow = s.cap ∧ (∃ e, t.mon.evQ = s.mon.evQ ++ [e] ∧ e.cls = .warning ∧ e.code = 0xD03) ∧
      Kept s t ∧ RegsKept s t [Reg.pwrStatus]) ∧
    (s.clk < s.pm.replyAt + 10000000 → exec .shiftLeaderSilence s = .next s))

/-! ### Boot, reset and access for service (23_boot_reset.md, 24_module_interface.md) -/

/-- The module has just been reset with a `CAUSE`: nothing is in memory or in an engine, and the boot is at its first stage. -/
def Sys2Proof.Machine.JustReset (s t : State) (cause : Nat) : Prop :=
  t.mem = [] ∧ t.rf Reg.topBootStatus F.topBootStatus_cause = cause ∧ t.rf Reg.topBootStatus F.topBootStatus_stage = 0 ∧ t.ready = false ∧
    t.wqe = {} ∧ t.qpe = {} ∧ t.xlt = {} ∧ t.fab = {} ∧ t.col = {} ∧ t.prf = {} ∧ t.cpf = {} ∧ t.top.held = false ∧ t.top.stopped = false ∧
    (∀ d, d < 96 → t.pd d = 0 ∨ t.pd d = 3) ∧ t.pending = s.pending ∧ t.grade = s.grade

/-- PG_IN_RISE, RESET_N_RELEASE, TOP_RESET_COLD, TOP_RESET_WARM, WATCHDOG_EXPIRY, VIN_IN_RANGE, REFCLK_LOST, BOOT_IMAGE_VERIFIED, BOOT_READY,
STAGE, COMMIT, RAISE_SVN, CONFIGURATION_REQUEST, MGMT_READ, TAP_BYPASS, TAP_IDCODE, TAP_SAMPLE_PRELOAD, TAP_EXTEST: a reset empties memory
and engines and starts the boot, a warm one keeps the timebase and what Table 23-4 keeps; a lost reference stops the module with the alarm;
an image that is not readable or not accepted halts the boot; a verified one numbers the incarnation and asks for the domains, and with
them On the module is READY with its locks set; firmware is staged, committed as the next boot's slot, and fused; configuration before READY
is retried; service reads change nothing, EXTEST stops the module.
What in it is the model's own choice is said in log 10, 52, 57, 58, 61. -/
def Obligations.ModulesResetBootAndServe : Prop :=
  (∀ (s : State) (rs : Bool),
    (s.top.held = false → Gives (.pgInRise rs) s fun t => JustReset s t 0 ∧ t.time = 0 ∧ t.top.pgIn = true ∧ t.top.refsel = rs ∧
      t.ps.vols = s.ps.vols ∧ t.top.flash = s.top.flash) ∧
    (s.top.held = true → exec (.pgInRise rs) s = .next { s with top.pgIn := true, top.refsel := rs })) ∧
  (∀ s : State, s.top.held = false →
    (Gives .resetNRelease s fun t => JustReset s t 1 ∧ t.time = 0) ∧
    (∀ m, s.check m (regBase + Reg.topReset) = none → Gives (.topResetCold m) s fun t => JustReset s t 2 ∧ t.time = 0) ∧
    (s.top.stopped = false →
      (∀ m, s.check m (regBase + Reg.topReset) = none → Gives (.topResetWarm m) s fun t => JustReset s t 3 ∧ t.time = s.time ∧
        t.rd Reg.topReset = s.rd Reg.topReset) ∧
      (Gives .watchdogExpiry s fun t => JustReset s t 5 ∧ t.time = s.time)) ∧
    (s.top.stopped = true → exec .watchdogExpiry s = .next s)) ∧
  (∀ s : State,
    (s.top.held = true → s.top.pgIn = true → Gives .vinInRange s fun t => JustReset s t 0 ∧ t.time = 0) ∧
    (s.top.held = false ∨ s.top.pgIn = false → exec .vinInRange s = .next s) ∧
    (s.top.stopped = false → s.logs = true → Gives .refclkLost s fun t => t.top.stopped = true ∧ (∃ e ∈ t.mon.logVol, e.cls = .alarm ∧ e.code = 4) ∧
      (∀ d, d < 96 → t.pd d = 0 ∨ t.pd d = 3) ∧ t.pending = s.pending) ∧
    (s.top.stopped = true → exec .refclkLost s = .next s)) ∧
  (∀ (s : State) (ck lg : Bool) (rnd : Nat),
    (s.rf Reg.topBootStatus F.topBootStatus_stage = 0 → s.top.held = false → s.top.stopped = false →
      (Gives (.bootImageVerified false ck lg rnd) s fun t => t.rf Reg.topBootStatus F.topBootStatus_stage = 0xFF ∧
        t.rf Reg.topBootStatus F.topBootStatus_error = 1) ∧
      (s.bootSlot = none → Gives (.bootImageVerified true ck lg rnd) s fun t => t.rf Reg.topBootStatus F.topBootStatus_stage = 0xFF ∧
        t.rf Reg.topBootStatus F.topBootStatus_error = 2) ∧
      (∀ n fb, s.bootSlot = some (n, fb) → n < 2 → Gives (.bootImageVerified true ck lg rnd) s fun t =>
        t.rf Reg.topBootStatus F.topBootStatus_stage = 3 ∧ t.rf Reg.topBootStatus F.topBootStatus_slot = n ∧
        t.on Reg.topBootStatus F.topBootStatus_fallback = fb ∧ t.top.hifLock = true ∧ t.on Reg.mbxCtrl F.mbxCtrl_lock = true ∧
        (ck = false → lg = false → t.rf Reg.topInc F.topInc_inc = rnd % 65536 ∧ t.on Reg.topBootStatus F.topBootStatus_inc_random = true) ∧
        (ck = true → lg = false → t.rf Reg.topInc F.topInc_inc = (s.ps.ckptInc + 1) % 65536 ∧
          t.on Reg.topBootStatus F.topBootStatus_inc_random = false) ∧ Kept s t)) ∧
    (s.rf Reg.topBootStatus F.topBootStatus_stage ≠ 0 → exec (.bootImageVerified true ck lg rnd) s = .next s)) ∧
  (∀ (s : State) (plan fw : Bool), s.rf Reg.topBootStatus F.topBootStatus_stage = 3 →
    ((∀ d, d < 96 → 2 ≤ s.pd d ∨ (d < 64 ∧ s.absent d = true)) →
      (Gives (.bootReady false plan fw) s fun t => t.rf Reg.topBootStatus F.topBootStatus_stage = 0xFF ∧
        t.rf Reg.topBootStatus F.topBootStatus_error = 3) ∧
      (Gives (.bootReady true plan fw) s fun t => t.ready = true ∧ t.rf Reg.topBootStatus F.topBootStatus_stage = 6 ∧
        t.rf Reg.topBootStatus F.topBootStatus_error = (if s.top.flash.config.isNone then 4 else if fw then 0 else 5) ∧
        t.on Reg.fabCtrl F.fabCtrl_lock = true ∧ t.on Reg.pwrCtrl F.pwrCtrl_lock = true ∧ t.on Reg.icuCtrl F.icuCtrl_lock = true ∧
        t.on Reg.icuCtrl F.icuCtrl_svc_mode = false ∧ t.top.losses = [] ∧
        (plan = false → s.top.flash.config.getD [] = [] → s.on Reg.topReset F.topReset_node_ovr_en = true → t.node = s.rf Reg.topReset F.topReset_node_ovr))) ∧
    (∀ d, d < 96 → s.pd d < 2 → 64 ≤ d → exec (.bootReady true plan fw) s = .next s)) ∧
  (∀ (s : State) (m : Nat), s.check m (regBase + Reg.topFwCmd) = none →
    (∀ img, img = s.bytes (s.rf Reg.topFwArg F.topFwArg_dpa * 64) (s.rf Reg.topFwArg F.topFwArg_length * 64) →
      s.rf Reg.topFwArg F.topFwArg_length * 64 ≤ 2 ^ 23 → Gives (.stage m true) s fun t =>
        mget t.top.flash.slots (1 - s.rf Reg.topBootStatus F.topBootStatus_slot) = some img ∧
        t.rf Reg.topFwCmd F.topFwCmd_result = imageCheck s.top.fuses img ∧
        t.top.staged = (if imageCheck s.top.fuses img = 0 then some (1 - s.rf Reg.topBootStatus F.topBootStatus_slot) else none) ∧ Kept s t ∧
        RegsKept s t [Reg.topFwCmd]) ∧
    (s.rf Reg.topFwArg F.topFwArg_length * 64 ≤ 2 ^ 23 → Gives (.stage m false) s fun t => t.top.flash = s.top.flash ∧ t.top.staged = none ∧
      t.rf Reg.topFwCmd F.topFwCmd_result = 5 ∧ Kept s t ∧ RegsKept s t [Reg.topFwCmd]) ∧
    (∀ slot a b, s.top.staged = some slot → s.top.flash.desc = [a, b] → Gives (.commit m true) s fun t => t.activeSlot = some slot ∧
      (a ∈ t.top.flash.desc ∨ b ∈ t.top.flash.desc) ∧ t.top.flash.slots = s.top.flash.slots ∧ t.rf Reg.topFwCmd F.topFwCmd_result = 0 ∧ Kept s t ∧
      RegsKept s t [Reg.topFwCmd]) ∧
    (∀ ok, s.top.staged = none → Gives (.commit m ok) s fun t => t.top = s.top ∧ t.rf Reg.topFwCmd F.topFwCmd_result = 6 ∧ Kept s t ∧
      RegsKept s t [Reg.topFwCmd]) ∧
    (Gives (.raiseSvn m) s fun t => t.top.fuses.floor = max s.top.fuses.floor (imgNat (s.slotImage (s.rf Reg.topBootStatus F.topBootStatus_slot)) 0x0B 1) ∧
      t.top.fuses.hashes = s.top.fuses.hashes ∧ t.rf Reg.topFwCmd F.topFwCmd_result = 0 ∧ Kept s t ∧ RegsKept s t [Reg.topFwCmd])) ∧
  (∀ (s : State) (f : Nat) (r : CfgReq), Quiet s →
    (s.linkUp (fnLink f).1 (fnLink f).2 = false → exec (.configurationRequest f r) s = .next s) ∧
    (s.linkUp (fnLink f).1 (fnLink f).2 = true → s.ready = false → Gives (.configurationRequest f r) s fun t =>
      t.icu = s.icu ∧ t.out = s.out ++ [⟨.tlpCpl, [(fnLink f).1, (fnLink f).2, 1], none, []⟩] ∧ Kept s t ∧ RegsKept s t []) ∧
    (s.linkUp (fnLink f).1 (fnLink f).2 = true → s.ready = true → s.icu.msix = [] → Gives (.configurationRequest f r) s fun t =>
      t.out = s.out ++ [⟨.tlpCpl, [(fnLink f).1, (fnLink f).2, 0], none, if f = 0 ∧ r = .doe then s.top.measures.flatMap (beBytes 48) else []⟩] ∧
      (match r with
        | .msix en mask => (t.pci f).msixEn = en ∧ (t.pci f).funcMask = mask
        | .power d => (t.pci f).d3hot = d
        | .ats en => (t.pci f).atsEn = en
        | .pasid en v => (t.pci f).pasidEn = en ∧ (t.pci f).pasid = v % 2 ^ 20
        | .bar2 n => (t.pci f).bar2 = n
        | .vfEnable en => f = 0 → t.icu.vfEnable = en
        | .doe => t.icu = s.icu) ∧ Kept s t ∧ RegsKept s t [])) ∧
  (∀ (s : State) (off : Nat) (aux : Bool), Quiet s → Gives (.mgmtRead off aux) s fun t =>
    t.out = s.out ++ [⟨.mgmt, [off % 256], none, leBytes 8 (s.mgmtWord (off % 256) aux)⟩] ∧ t.top = s.top ∧ Kept s t ∧ RegsKept s t []) ∧
  (∀ (s : State) (tdi : List Bool) (n pins load : Nat), Quiet s →
    (s.top.pgIn = true →
      (Gives (.tapBypass tdi) s fun t => t.out = s.out ++ [⟨.tap, ((false :: tdi).take tdi.length).map b2n, none, []⟩] ∧ t.top.ir = .bypass ∧ Kept s t ∧
        RegsKept s t []) ∧
      (Gives .tapIdcode s fun t => t.top.ir = .idcode ∧ t.out = s.out ++ [⟨.tap, bitsOf t.top.dr 32, none, []⟩] ∧ t.top.dr % 2 = 1 ∧
        nbits t.top.dr 27 12 = 9 ∧ nbits t.top.dr 31 28 = fld (s.rd Reg.topId) 7 4 ∧ Kept s t ∧ RegsKept s t []) ∧
      (Gives (.tapSamplePreload n pins load) s fun t => t.top.ir = .sample ∧ t.out = s.out ++ [⟨.tap, bitsOf pins n, none, []⟩] ∧
        t.top.preload = load % 2 ^ n ∧ Kept s t ∧ RegsKept s t []) ∧
      (s.top.stopped = false → Gives .tapExtest s fun t => t.top.ir = .extest ∧ t.top.stopped = true ∧ (∀ d, d < 96 → t.pd d = 0 ∨ t.pd d = 3))) ∧
    (s.top.pgIn = false → exec .tapIdcode s = .next s ∧ exec .tapExtest s = .next s ∧ exec (.tapBypass tdi) s = .next s))

/-! ### Three rules word for word (02_attach_ports.md R56, 10_time_and_gates.md R224, 15_arithmetic.md R356) -/

/-- R224: `TIM_RATE` is signed, in units of 2⁻³² ns per ns; a rate that software writes, or that the discipline loop sets, is clamped to
±2,147,484 and reads back clamped. -/
def Obligations.TheRateIsClampedAndRunsTheTimebase : Prop :=
  (∀ (s : State), s.pending = [] → ∃ t, step s = .next t ∧
    t.time * 2 ^ 32 + t.frac = wrap 96 (((s.time * 2 ^ 32 + s.frac : Nat) : Int) + 2 ^ 32 + sgn 32 (s.rf Reg.timRate F.timRate_rate))) ∧
  (∀ (s : State) (m : Nat) (v : Word), s.check m (regBase + Reg.timRate) = none → s.timeRole.1 = 0 → Gives (.timRateWrite m v) s fun t =>
    sgn 32 (t.rf Reg.timRate F.timRate_rate) = max (-2147484) (min 2147484 (sgn 32 (fld v 31 0)))) ∧
  (∀ (s : State), Gives .timeSample s fun t => t.rd Reg.timRate = s.rd Reg.timRate ∨
    (-2147484 ≤ sgn 32 (t.rf Reg.timRate F.timRate_rate) ∧ sgn 32 (t.rf Reg.timRate F.timRate_rate) ≤ 2147484))

/-- R356: VBMRG adds N modulo 2¹⁹⁸⁴, ORs the four flag bits, and adds COUNT with saturation; it raises no flag and changes no other
register. -/
def Obligations.BinnedSumsMerge : Prop :=
  ∀ (s : State) (c : Core) (e : Env) (w : Nat), Ready s c e nopWord w → opc w = 0xB1 → Gives (.vbmrg c e) s fun t =>
    ∃ v, CoreOnly s t c (After (s.core c) ((s.core c).setV (rD w) v)) ∧
      bsN v = (bsN ((s.core c).vr (rA w)) + bsN ((s.core c).vr (rD w))) % 2 ^ 1984 ∧
      bsFlags v = Nat.lor (bsFlags ((s.core c).vr (rA w))) (bsFlags ((s.core c).vr (rD w))) ∧
      bsCount v = min (bsCount ((s.core c).vr (rA w)) + bsCount ((s.core c).vr (rD w))) (2 ^ 40 - 1)

/-- R56: a request to a segment whose `MASTER` is 0xFFF, and a write or AtomicOp to one whose `WR_EN` is 0, are refused with the fault of
R23: a read completes successfully with data 0, a write is discarded, an AtomicOp completes with data 0 and changes nothing. -/
def Obligations.ClosedSegmentsRefuseTheirRequests : Prop :=
  ∀ (s : State) (p h off n k : Nat), winIs (.port p h) = true → HostTakes s p h (portFn p h) → s.cpfRuns = false → s.pd 94 = 2 →
    s.mon.evQ.length < 384 → k = Reg.hifInbOwner p (s.winSeg (portFn p h) off) →
    (s.rf k F.hifInbOwner_master = 0xFFF → n ≤ 4096 → Gives (.hostBar2Read (.port p h) off n) s fun t =>
      (∃ l, t.out = s.out ++ l ∧ l.flatMap (·.data) = List.replicate n 0 ∧ ∀ o ∈ l, o.kind = .tlpCpl ∧ o.dst = [p, h, 0]) ∧
      (∃ e, t.mon.evQ = s.mon.evQ ++ [e] ∧ e.cls = .fault ∧ e.code = 3 ∧ e.arg1 = off) ∧ Kept s t ∧ RegsKept s t []) ∧
    (s.rf k F.hifInbOwner_master = 0xFFF ∨ s.on k F.hifInbOwner_wr_en = false →
      (∀ data be, true ∈ be → be.length = data.length → Gives (.hostBar2Write (.port p h) off data be) s fun t => t.out = s.out ∧
        (∃ e, t.mon.evQ = s.mon.evQ ++ [e] ∧ e.cls = .fault ∧ e.code = 3 ∧ e.arg1 = off) ∧ Kept s t ∧ RegsKept s t []) ∧
      (∀ op v, (n = 4 ∨ n = 8 ∨ (n = 16 ∧ ∃ c, op = .cas c)) → off % n = 0 → Gives (.hostAtomicop (.port p h) op off n v) s fun t =>
        t.out = s.out ++ [⟨.tlpCpl, [p, h, 0], none, List.replicate n 0⟩] ∧
        (∃ e, t.mon.evQ = s.mon.evQ ++ [e] ∧ e.cls = .fault ∧ e.code = 3 ∧ e.arg1 = off) ∧ Kept s t ∧ RegsKept s t []))
end

