-- ==== Sys2Proof/Laws/Map.lean ====
section
/-! SUPPORT. Finite maps: read after write, and that every operation keeps the canonical form. -/

namespace Sys2Proof.Machine

variable {α : Type}

@[simp] theorem mget_nil (k : Nat) : mget ([] : Map α) k = none := rfl

@[simp] theorem mget_mput_self (m : Map α) (k : Nat) (v : α) : mget (mput m k v) k = some v := by
  induction m with
  | nil => simp [mput, mget]
  | cons e t ih =>
    obtain ⟨a, w⟩ := e
    by_cases h1 : k < a
    · simp [mput, mget, h1]
    · by_cases h2 : k = a
      · simp [mput, mget, h2]
      · simp [mput, mget, h1, h2, ih]

theorem mget_mput_of_ne (m : Map α) {j k : Nat} (v : α) (h : j ≠ k) : mget (mput m k v) j = mget m j := by
  induction m with
  | nil => simp [mput, mget, h]
  | cons e t ih =>
    obtain ⟨a, w⟩ := e
    by_cases h1 : k < a
    · simp [mput, mget, h1, h]
    · by_cases h2 : k = a
      · subst h2
        simp [mput, mget, h]
      · by_cases h3 : j = a <;> simp [mput, mget, h1, h2, h3, ih]

/-- Read after write of a map. -/
theorem mget_mput (m : Map α) (j k : Nat) (v : α) : mget (mput m k v) j = if j = k then some v else mget m j := by
  by_cases h : j = k
  · simp [h]
  · simp [h, mget_mput_of_ne m v h]

theorem mget_filter (m : Map α) (p : Nat → Bool) (j : Nat) :
    mget (m.filter fun e => p e.1) j = if p j then mget m j else none := by
  induction m with
  | nil => simp [mget]
  | cons e t ih =>
    obtain ⟨a, w⟩ := e
    by_cases hp : p a
    · by_cases hj : j = a
      · subst hj
        simp [hp, mget]
      · simp [hp, mget, hj, ih]
    · by_cases hj : j = a
      · subst hj
        simp [hp, ih]
      · simp [hp, mget, hj, ih]

theorem mget_mdel (m : Map α) (j k : Nat) : mget (mdel m k) j = if j = k then none else mget m j := by
  have h := mget_filter m (fun a => decide (a ≠ k)) j
  by_cases e : j = k
  · simpa [mdel, e] using h
  · simpa [mdel, e] using h

theorem mget_mclear (m : Map α) (lo hi j : Nat) :
    mget (mclear m lo hi) j = if lo ≤ j ∧ j < hi then none else mget m j := by
  have h := mget_filter m (fun a => decide (¬ (lo ≤ a ∧ a < hi))) j
  by_cases e : lo ≤ j ∧ j < hi
  · simpa [mclear, e] using h
  · simpa [mclear, e] using h

/-- Read after write of a map with a default. -/
theorem dget_dput [DecidableEq α] (m : Map α) (d : α) (j k : Nat) (v : α) :
    dget (dput m d k v) d j = if j = k then v else dget m d j := by
  unfold dget dput
  by_cases hv : v = d
  · simp only [hv, if_true, mget_mdel]
    by_cases e : j = k <;> simp [e]
  · simp only [hv, if_false, mget_mput]
    by_cases e : j = k <;> simp [e]

@[simp] theorem dget_dput_self [DecidableEq α] (m : Map α) (d : α) (k : Nat) (v : α) : dget (dput m d k v) d k = v := by
  simp [dget_dput]

theorem dget_dput_of_ne [DecidableEq α] (m : Map α) (d : α) {j k : Nat} (v : α) (h : j ≠ k) :
    dget (dput m d k v) d j = dget m d j := by
  simp [dget_dput, h]

/-- Clearing a range leaves the default there and nothing else changed. -/
theorem dget_mclear (m : Map α) (d : α) (lo hi j : Nat) :
    dget (mclear m lo hi) d j = if lo ≤ j ∧ j < hi then d else dget m d j := by
  unfold dget
  rw [mget_mclear]
  split <;> simp

/-! ### Canonical form -/

/-- A map's keys rise strictly exactly when they do pairwise. -/
theorem sorted_iff (m : Map α) : sorted m = true ↔ m.Pairwise fun a b => a.1 < b.1 := by
  induction m with
  | nil => simp [sorted]
  | cons a t ih =>
    cases t with
    | nil => simp [sorted]
    | cons b u =>
      rw [sorted, Bool.and_eq_true, ih, decide_eq_true_eq]
      constructor
      · rintro ⟨h, hp⟩
        refine List.pairwise_cons.mpr ⟨?_, hp⟩
        intro c hc
        rcases List.mem_cons.mp hc with rfl | hc
        · exact h
        · exact lt_trans h ((List.pairwise_cons.mp hp).1 c hc)
      · intro hp
        have h := List.pairwise_cons.mp hp
        exact ⟨h.1 b (List.mem_cons_self ..), h.2⟩

theorem sorted_filter {m : Map α} (p : Nat × α → Bool) (h : sorted m = true) : sorted (m.filter p) = true := by
  rw [sorted_iff] at *
  exact h.sublist List.filter_sublist

theorem mem_mput {m : Map α} {k : Nat} {v : α} {e : Nat × α} (h : e ∈ mput m k v) : e = (k, v) ∨ e ∈ m := by
  induction m with
  | nil => simpa [mput] using h
  | cons x t ih =>
    obtain ⟨a, w⟩ := x
    by_cases h1 : k < a
    · simpa [mput, h1] using h
    · by_cases h2 : k = a
      · simp only [mput, h2, lt_irrefl, if_false, if_true, List.mem_cons] at h
        rcases h with h | h
        · exact .inl (by simp [h, h2])
        · exact .inr (List.mem_cons_of_mem _ h)
      · simp only [mput, h1, h2, if_false, List.mem_cons] at h
        rcases h with h | h
        · exact .inr (by simp [h])
        · rcases ih h with h | h
          · exact .inl h
          · exact .inr (List.mem_cons_of_mem _ h)

theorem sorted_mput {m : Map α} (k : Nat) (v : α) (h : sorted m = true) : sorted (mput m k v) = true := by
  rw [sorted_iff] at *
  induction m with
  | nil => simp [mput]
  | cons x t ih =>
    obtain ⟨a, w⟩ := x
    have hc := List.pairwise_cons.mp h
    by_cases h1 : k < a
    · simp only [mput, h1, if_true]
      refine List.pairwise_cons.mpr ⟨?_, h⟩
      intro c hcm
      rcases List.mem_cons.mp hcm with rfl | hcm
      · exact h1
      · exact lt_trans h1 (hc.1 c hcm)
    · by_cases h2 : k = a
      · simp only [mput, h2, lt_irrefl, if_false, if_true]
        exact List.pairwise_cons.mpr ⟨hc.1, hc.2⟩
      · simp only [mput, h1, h2, if_false]
        refine List.pairwise_cons.mpr ⟨?_, ih hc.2⟩
        intro c hcm
        rcases mem_mput hcm with rfl | hcm
        · exact lt_of_le_of_ne (not_lt.mp h1) (Ne.symm h2)
        · exact hc.1 c hcm

/-- A write to a map with a default keeps its canonical form. -/
theorem sorted_dput [DecidableEq α] {m : Map α} (d : α) (k : Nat) (v : α) (h : sorted m = true) :
    sorted (dput m d k v) = true := by
  unfold dput
  split
  · exact sorted_filter _ h
  · exact sorted_mput k v h

theorem Memory.wf_iff (m : List Host.Cell) : Memory.wf m = true ↔ sorted m = true ∧ ∀ e ∈ m, e.2 ≠ 0 := by
  simp [Memory.wf, List.all_eq_true]

theorem Registers.wf_iff (g : Grade) (m : Map Word) :
    Registers.wf g m = true ↔ sorted m = true ∧ ∀ e ∈ m, e.2 ≠ regReset g e.1 := by
  simp [Registers.wf, List.all_eq_true]

/-- Storing a byte keeps memory canonical. -/
theorem Memory.wf_dput {m : List Host.Cell} (a : Nat) (b : Byte) (h : Memory.wf m = true) :
    Memory.wf (dput m 0 a b) = true := by
  rw [Memory.wf_iff] at *
  refine ⟨sorted_dput 0 a b h.1, ?_⟩
  intro e he
  unfold dput at he
  split at he
  · exact h.2 e (List.mem_of_mem_filter he)
  · rename_i hb
    rcases mem_mput he with rfl | he
    · exact hb
    · exact h.2 e he

/-- Storing bytes keeps memory canonical. -/
theorem Memory.wf_storeBytes {m : List Host.Cell} (a : Nat) (bs : List Byte) (h : Memory.wf m = true) :
    Memory.wf (storeBytes m a bs) = true := by
  induction bs generalizing m a with
  | nil => exact h
  | cons b bs ih => exact ih (a + 1) (Memory.wf_dput a b h)

/-- Dropping entries keeps memory canonical. -/
theorem Memory.wf_filter {m : List Host.Cell} (p : Host.Cell → Bool) (h : Memory.wf m = true) :
    Memory.wf (m.filter p) = true := by
  rw [Memory.wf_iff] at *
  exact ⟨sorted_filter p h.1, fun e he => h.2 e (List.mem_of_mem_filter he)⟩

/-- Zeroing a range keeps memory canonical. -/
theorem Memory.wf_mclear {m : List Host.Cell} (lo hi : Nat) (h : Memory.wf m = true) :
    Memory.wf (mclear m lo hi) = true := Memory.wf_filter _ h

/-- A register write keeps the registers canonical. -/
theorem Registers.wf_dput {g : Grade} {m : Map Word} (k : Nat) (v : Word) (h : Registers.wf g m = true) :
    Registers.wf g (dput m (regReset g k) k v) = true := by
  rw [Registers.wf_iff] at *
  refine ⟨sorted_dput _ k v h.1, ?_⟩
  intro e he
  unfold dput at he
  split at he
  · exact h.2 e (List.mem_of_mem_filter he)
  · rename_i hb
    rcases mem_mput he with rfl | he
    · exact hb
    · exact h.2 e he

/-- Dropping entries keeps the registers canonical. -/
theorem Registers.wf_filter {g : Grade} {m : Map Word} (p : Nat × Word → Bool) (h : Registers.wf g m = true) :
    Registers.wf g (m.filter p) = true := by
  rw [Registers.wf_iff] at *
  exact ⟨sorted_filter p h.1, fun e he => h.2 e (List.mem_of_mem_filter he)⟩

/-- What n bytes stored from a read back as: the bytes inside, the old contents outside. -/
theorem dget_storeBytes (m : List Host.Cell) (a : Nat) (bs : List Byte) (j : Nat) :
    dget (storeBytes m a bs) 0 j = if a ≤ j ∧ j < a + bs.length then bs.getD (j - a) 0 else dget m 0 j := by
  induction bs generalizing m a with
  | nil =>
    have : ¬ (a ≤ j ∧ j < a) := by omega
    simp [storeBytes, this]
  | cons b bs ih =>
    rw [storeBytes, ih, dget_dput]
    by_cases h1 : j = a
    · subst h1
      simp
    · by_cases h2 : a + 1 ≤ j ∧ j < a + 1 + bs.length
      · have h3 : a ≤ j ∧ j < a + (bs.length + 1) := by omega
        have h4 : j - a = (j - (a + 1)) + 1 := by omega
        simp only [h2, and_self, if_true, List.length_cons, h3]
        rw [h4, List.getD_cons_succ]
      · have h3 : ¬ (a ≤ j ∧ j < a + (bs.length + 1)) := by omega
        simp only [h2, if_false, List.length_cons, h3, h1]

end Sys2Proof.Machine
end

