-- ==== Sys2Proof/Laws/State.lean ====
section
/-! SUPPORT. The fields of the state after each of its updates: one lemma per field per update, so that no proof unfolds one. -/

namespace Sys2Proof.Machine

variable (s : State)

/-! ### Registers: read after write -/

@[simp] theorem State.rd_wr_self (k : Nat) (v : Word) : (s.wr k v).rd k = v := by
  simp [State.rd, State.wr]

theorem State.rd_wr_of_ne {j k : Nat} (v : Word) (h : j ≠ k) : (s.wr k v).rd j = s.rd j := by
  simp [State.rd, State.wr, dget, dput]
  split <;> simp_all [mget_mdel, mget_mput]

theorem State.rd_wr (j k : Nat) (v : Word) : (s.wr k v).rd j = if j = k then v else s.rd j := by
  by_cases h : j = k
  · simp [h]
  · simp [h, State.rd_wr_of_ne s v h]

@[simp] theorem State.rd_wf_self (k : Nat) (f : Fld) (v : Nat) : (s.wf k f v).rd k = setFld (s.rd k) f.hi f.lo v :=
  s.rd_wr_self k _

theorem State.rd_wf_of_ne {j k : Nat} (f : Fld) (v : Nat) (h : j ≠ k) : (s.wf k f v).rd j = s.rd j := s.rd_wr_of_ne _ h

theorem State.rd_incF_of_ne {j k : Nat} (f : Fld) (n : Nat) (h : j ≠ k) : (s.incF k f n).rd j = s.rd j := s.rd_wr_of_ne _ h

/-- A byte after a store: the stored byte inside, the old one outside. -/
theorem State.byte_storeBytes (a : Nat) (bs : List Byte) (j : Nat) :
    ({ s with mem := storeBytes s.mem a bs } : State).byte j = if a ≤ j ∧ j < a + bs.length then bs.getD (j - a) 0 else s.byte j :=
  dget_storeBytes s.mem a bs j

/-- A byte after a range is zeroed. -/
theorem State.byte_zero (lo hi j : Nat) : (s.zero lo hi).byte j = if lo ≤ j ∧ j < hi then 0 else s.byte j :=
  dget_mclear s.mem 0 lo hi j

/-! ### Cores and plates -/

@[simp] theorem State.core_setCore (c : Core) (x : CoreSt) : (s.setCore c x).core c = x := by
  simp [State.core, State.setCore]

@[simp] theorem State.plate_setPlate (p : Nat) (x : PlateSt) : (s.setPlate p x).plate p = x := by
  simp [State.plate, State.setPlate]

/-! ### `wr` -/

@[simp] theorem State.wr_pending (k : Nat) (v : Word) : (s.wr k v).pending = s.pending := rfl
@[simp] theorem State.wr_free (k : Nat) (v : Word) : (s.wr k v).free = s.free := rfl
@[simp] theorem State.wr_grade (k : Nat) (v : Word) : (s.wr k v).grade = s.grade := rfl
@[simp] theorem State.wr_time (k : Nat) (v : Word) : (s.wr k v).time = s.time := rfl
@[simp] theorem State.wr_frac (k : Nat) (v : Word) : (s.wr k v).frac = s.frac := rfl
@[simp] theorem State.wr_clk (k : Nat) (v : Word) : (s.wr k v).clk = s.clk := rfl
@[simp] theorem State.wr_mem (k : Nat) (v : Word) : (s.wr k v).mem = s.mem := rfl
@[simp] theorem State.wr_out (k : Nat) (v : Word) : (s.wr k v).out = s.out := rfl
@[simp] theorem State.wr_mon (k : Nat) (v : Word) : (s.wr k v).mon = s.mon := rfl
@[simp] theorem State.wr_icu (k : Nat) (v : Word) : (s.wr k v).icu = s.icu := rfl
@[simp] theorem State.wr_hif (k : Nat) (v : Word) : (s.wr k v).hif = s.hif := rfl
@[simp] theorem State.wr_xlt (k : Nat) (v : Word) : (s.wr k v).xlt = s.xlt := rfl
@[simp] theorem State.wr_wqe (k : Nat) (v : Word) : (s.wr k v).wqe = s.wqe := rfl
@[simp] theorem State.wr_qpe (k : Nat) (v : Word) : (s.wr k v).qpe = s.qpe := rfl
@[simp] theorem State.wr_tim (k : Nat) (v : Word) : (s.wr k v).tim = s.tim := rfl
@[simp] theorem State.wr_cip (k : Nat) (v : Word) : (s.wr k v).cip = s.cip := rfl
@[simp] theorem State.wr_pwr (k : Nat) (v : Word) : (s.wr k v).pwr = s.pwr := rfl
@[simp] theorem State.wr_fab (k : Nat) (v : Word) : (s.wr k v).fab = s.fab := rfl
@[simp] theorem State.wr_mac (k : Nat) (v : Word) : (s.wr k v).mac = s.mac := rfl
@[simp] theorem State.wr_plt (k : Nat) (v : Word) : (s.wr k v).plt = s.plt := rfl
@[simp] theorem State.wr_col (k : Nat) (v : Word) : (s.wr k v).col = s.col := rfl
@[simp] theorem State.wr_cpf (k : Nat) (v : Word) : (s.wr k v).cpf = s.cpf := rfl
@[simp] theorem State.wr_prf (k : Nat) (v : Word) : (s.wr k v).prf = s.prf := rfl
@[simp] theorem State.wr_ps (k : Nat) (v : Word) : (s.wr k v).ps = s.ps := rfl
@[simp] theorem State.wr_pm (k : Nat) (v : Word) : (s.wr k v).pm = s.pm := rfl
@[simp] theorem State.wr_top (k : Nat) (v : Word) : (s.wr k v).top = s.top := rfl

/-! ### `wf` -/

@[simp] theorem State.wf_pending (k : Nat) (f : Fld) (v : Nat) : (s.wf k f v).pending = s.pending := rfl
@[simp] theorem State.wf_free (k : Nat) (f : Fld) (v : Nat) : (s.wf k f v).free = s.free := rfl
@[simp] theorem State.wf_grade (k : Nat) (f : Fld) (v : Nat) : (s.wf k f v).grade = s.grade := rfl
@[simp] theorem State.wf_time (k : Nat) (f : Fld) (v : Nat) : (s.wf k f v).time = s.time := rfl
@[simp] theorem State.wf_frac (k : Nat) (f : Fld) (v : Nat) : (s.wf k f v).frac = s.frac := rfl
@[simp] theorem State.wf_clk (k : Nat) (f : Fld) (v : Nat) : (s.wf k f v).clk = s.clk := rfl
@[simp] theorem State.wf_mem (k : Nat) (f : Fld) (v : Nat) : (s.wf k f v).mem = s.mem := rfl
@[simp] theorem State.wf_out (k : Nat) (f : Fld) (v : Nat) : (s.wf k f v).out = s.out := rfl
@[simp] theorem State.wf_mon (k : Nat) (f : Fld) (v : Nat) : (s.wf k f v).mon = s.mon := rfl
@[simp] theorem State.wf_icu (k : Nat) (f : Fld) (v : Nat) : (s.wf k f v).icu = s.icu := rfl
@[simp] theorem State.wf_hif (k : Nat) (f : Fld) (v : Nat) : (s.wf k f v).hif = s.hif := rfl
@[simp] theorem State.wf_xlt (k : Nat) (f : Fld) (v : Nat) : (s.wf k f v).xlt = s.xlt := rfl
@[simp] theorem State.wf_wqe (k : Nat) (f : Fld) (v : Nat) : (s.wf k f v).wqe = s.wqe := rfl
@[simp] theorem State.wf_qpe (k : Nat) (f : Fld) (v : Nat) : (s.wf k f v).qpe = s.qpe := rfl
@[simp] theorem State.wf_tim (k : Nat) (f : Fld) (v : Nat) : (s.wf k f v).tim = s.tim := rfl
@[simp] theorem State.wf_cip (k : Nat) (f : Fld) (v : Nat) : (s.wf k f v).cip = s.cip := rfl
@[simp] theorem State.wf_pwr (k : Nat) (f : Fld) (v : Nat) : (s.wf k f v).pwr = s.pwr := rfl
@[simp] theorem State.wf_fab (k : Nat) (f : Fld) (v : Nat) : (s.wf k f v).fab = s.fab := rfl
@[simp] theorem State.wf_mac (k : Nat) (f : Fld) (v : Nat) : (s.wf k f v).mac = s.mac := rfl
@[simp] theorem State.wf_plt (k : Nat) (f : Fld) (v : Nat) : (s.wf k f v).plt = s.plt := rfl
@[simp] theorem State.wf_col (k : Nat) (f : Fld) (v : Nat) : (s.wf k f v).col = s.col := rfl
@[simp] theorem State.wf_cpf (k : Nat) (f : Fld) (v : Nat) : (s.wf k f v).cpf = s.cpf := rfl
@[simp] theorem State.wf_prf (k : Nat) (f : Fld) (v : Nat) : (s.wf k f v).prf = s.prf := rfl
@[simp] theorem State.wf_ps (k : Nat) (f : Fld) (v : Nat) : (s.wf k f v).ps = s.ps := rfl
@[simp] theorem State.wf_pm (k : Nat) (f : Fld) (v : Nat) : (s.wf k f v).pm = s.pm := rfl
@[simp] theorem State.wf_top (k : Nat) (f : Fld) (v : Nat) : (s.wf k f v).top = s.top := rfl

/-! ### `incF` -/

@[simp] theorem State.incF_pending (k : Nat) (f : Fld) (n : Nat) : (s.incF k f n).pending = s.pending := rfl
@[simp] theorem State.incF_free (k : Nat) (f : Fld) (n : Nat) : (s.incF k f n).free = s.free := rfl
@[simp] theorem State.incF_grade (k : Nat) (f : Fld) (n : Nat) : (s.incF k f n).grade = s.grade := rfl
@[simp] theorem State.incF_time (k : Nat) (f : Fld) (n : Nat) : (s.incF k f n).time = s.time := rfl
@[simp] theorem State.incF_frac (k : Nat) (f : Fld) (n : Nat) : (s.incF k f n).frac = s.frac := rfl
@[simp] theorem State.incF_clk (k : Nat) (f : Fld) (n : Nat) : (s.incF k f n).clk = s.clk := rfl
@[simp] theorem State.incF_mem (k : Nat) (f : Fld) (n : Nat) : (s.incF k f n).mem = s.mem := rfl
@[simp] theorem State.incF_out (k : Nat) (f : Fld) (n : Nat) : (s.incF k f n).out = s.out := rfl
@[simp] theorem State.incF_mon (k : Nat) (f : Fld) (n : Nat) : (s.incF k f n).mon = s.mon := rfl
@[simp] theorem State.incF_icu (k : Nat) (f : Fld) (n : Nat) : (s.incF k f n).icu = s.icu := rfl
@[simp] theorem State.incF_hif (k : Nat) (f : Fld) (n : Nat) : (s.incF k f n).hif = s.hif := rfl
@[simp] theorem State.incF_xlt (k : Nat) (f : Fld) (n : Nat) : (s.incF k f n).xlt = s.xlt := rfl
@[simp] theorem State.incF_wqe (k : Nat) (f : Fld) (n : Nat) : (s.incF k f n).wqe = s.wqe := rfl
@[simp] theorem State.incF_qpe (k : Nat) (f : Fld) (n : Nat) : (s.incF k f n).qpe = s.qpe := rfl
@[simp] theorem State.incF_tim (k : Nat) (f : Fld) (n : Nat) : (s.incF k f n).tim = s.tim := rfl
@[simp] theorem State.incF_cip (k : Nat) (f : Fld) (n : Nat) : (s.incF k f n).cip = s.cip := rfl
@[simp] theorem State.incF_pwr (k : Nat) (f : Fld) (n : Nat) : (s.incF k f n).pwr = s.pwr := rfl
@[simp] theorem State.incF_fab (k : Nat) (f : Fld) (n : Nat) : (s.incF k f n).fab = s.fab := rfl
@[simp] theorem State.incF_mac (k : Nat) (f : Fld) (n : Nat) : (s.incF k f n).mac = s.mac := rfl
@[simp] theorem State.incF_plt (k : Nat) (f : Fld) (n : Nat) : (s.incF k f n).plt = s.plt := rfl
@[simp] theorem State.incF_col (k : Nat) (f : Fld) (n : Nat) : (s.incF k f n).col = s.col := rfl
@[simp] theorem State.incF_cpf (k : Nat) (f : Fld) (n : Nat) : (s.incF k f n).cpf = s.cpf := rfl
@[simp] theorem State.incF_prf (k : Nat) (f : Fld) (n : Nat) : (s.incF k f n).prf = s.prf := rfl
@[simp] theorem State.incF_ps (k : Nat) (f : Fld) (n : Nat) : (s.incF k f n).ps = s.ps := rfl
@[simp] theorem State.incF_pm (k : Nat) (f : Fld) (n : Nat) : (s.incF k f n).pm = s.pm := rfl
@[simp] theorem State.incF_top (k : Nat) (f : Fld) (n : Nat) : (s.incF k f n).top = s.top := rfl

/-! ### `meter` -/

@[simp] theorem State.meter_pending (f i n : Nat) : (s.meter f i n).pending = s.pending := by unfold State.meter; split <;> rfl
@[simp] theorem State.meter_free (f i n : Nat) : (s.meter f i n).free = s.free := by unfold State.meter; split <;> rfl
@[simp] theorem State.meter_grade (f i n : Nat) : (s.meter f i n).grade = s.grade := by unfold State.meter; split <;> rfl
@[simp] theorem State.meter_time (f i n : Nat) : (s.meter f i n).time = s.time := by unfold State.meter; split <;> rfl
@[simp] theorem State.meter_frac (f i n : Nat) : (s.meter f i n).frac = s.frac := by unfold State.meter; split <;> rfl
@[simp] theorem State.meter_clk (f i n : Nat) : (s.meter f i n).clk = s.clk := by unfold State.meter; split <;> rfl
@[simp] theorem State.meter_mem (f i n : Nat) : (s.meter f i n).mem = s.mem := by unfold State.meter; split <;> rfl
@[simp] theorem State.meter_out (f i n : Nat) : (s.meter f i n).out = s.out := by unfold State.meter; split <;> rfl
@[simp] theorem State.meter_mon (f i n : Nat) : (s.meter f i n).mon = s.mon := by unfold State.meter; split <;> rfl
@[simp] theorem State.meter_icu (f i n : Nat) : (s.meter f i n).icu = s.icu := by unfold State.meter; split <;> rfl
@[simp] theorem State.meter_hif (f i n : Nat) : (s.meter f i n).hif = s.hif := by unfold State.meter; split <;> rfl
@[simp] theorem State.meter_xlt (f i n : Nat) : (s.meter f i n).xlt = s.xlt := by unfold State.meter; split <;> rfl
@[simp] theorem State.meter_wqe (f i n : Nat) : (s.meter f i n).wqe = s.wqe := by unfold State.meter; split <;> rfl
@[simp] theorem State.meter_qpe (f i n : Nat) : (s.meter f i n).qpe = s.qpe := by unfold State.meter; split <;> rfl
@[simp] theorem State.meter_tim (f i n : Nat) : (s.meter f i n).tim = s.tim := by unfold State.meter; split <;> rfl
@[simp] theorem State.meter_cip (f i n : Nat) : (s.meter f i n).cip = s.cip := by unfold State.meter; split <;> rfl
@[simp] theorem State.meter_pwr (f i n : Nat) : (s.meter f i n).pwr = s.pwr := by unfold State.meter; split <;> rfl
@[simp] theorem State.meter_fab (f i n : Nat) : (s.meter f i n).fab = s.fab := by unfold State.meter; split <;> rfl
@[simp] theorem State.meter_mac (f i n : Nat) : (s.meter f i n).mac = s.mac := by unfold State.meter; split <;> rfl
@[simp] theorem State.meter_plt (f i n : Nat) : (s.meter f i n).plt = s.plt := by unfold State.meter; split <;> rfl
@[simp] theorem State.meter_col (f i n : Nat) : (s.meter f i n).col = s.col := by unfold State.meter; split <;> rfl
@[simp] theorem State.meter_cpf (f i n : Nat) : (s.meter f i n).cpf = s.cpf := by unfold State.meter; split <;> rfl
@[simp] theorem State.meter_prf (f i n : Nat) : (s.meter f i n).prf = s.prf := by unfold State.meter; split <;> rfl
@[simp] theorem State.meter_ps (f i n : Nat) : (s.meter f i n).ps = s.ps := by unfold State.meter; split <;> rfl
@[simp] theorem State.meter_pm (f i n : Nat) : (s.meter f i n).pm = s.pm := by unfold State.meter; split <;> rfl
@[simp] theorem State.meter_top (f i n : Nat) : (s.meter f i n).top = s.top := by unfold State.meter; split <;> rfl

/-! ### `draw` -/

@[simp] theorem State.draw_pending : (s.draw).pending = s.pending := rfl
@[simp] theorem State.draw_grade : (s.draw).grade = s.grade := rfl
@[simp] theorem State.draw_time : (s.draw).time = s.time := rfl
@[simp] theorem State.draw_frac : (s.draw).frac = s.frac := rfl
@[simp] theorem State.draw_clk : (s.draw).clk = s.clk := rfl
@[simp] theorem State.draw_mem : (s.draw).mem = s.mem := rfl
@[simp] theorem State.draw_regs : (s.draw).regs = s.regs := rfl
@[simp] theorem State.draw_out : (s.draw).out = s.out := rfl
@[simp] theorem State.draw_mon : (s.draw).mon = s.mon := rfl
@[simp] theorem State.draw_icu : (s.draw).icu = s.icu := rfl
@[simp] theorem State.draw_hif : (s.draw).hif = s.hif := rfl
@[simp] theorem State.draw_xlt : (s.draw).xlt = s.xlt := rfl
@[simp] theorem State.draw_wqe : (s.draw).wqe = s.wqe := rfl
@[simp] theorem State.draw_qpe : (s.draw).qpe = s.qpe := rfl
@[simp] theorem State.draw_tim : (s.draw).tim = s.tim := rfl
@[simp] theorem State.draw_cip : (s.draw).cip = s.cip := rfl
@[simp] theorem State.draw_pwr : (s.draw).pwr = s.pwr := rfl
@[simp] theorem State.draw_fab : (s.draw).fab = s.fab := rfl
@[simp] theorem State.draw_mac : (s.draw).mac = s.mac := rfl
@[simp] theorem State.draw_plt : (s.draw).plt = s.plt := rfl
@[simp] theorem State.draw_col : (s.draw).col = s.col := rfl
@[simp] theorem State.draw_cpf : (s.draw).cpf = s.cpf := rfl
@[simp] theorem State.draw_prf : (s.draw).prf = s.prf := rfl
@[simp] theorem State.draw_ps : (s.draw).ps = s.ps := rfl
@[simp] theorem State.draw_pm : (s.draw).pm = s.pm := rfl
@[simp] theorem State.draw_top : (s.draw).top = s.top := rfl

/-! ### `zero` -/

@[simp] theorem State.zero_pending (lo hi : Nat) : (s.zero lo hi).pending = s.pending := rfl
@[simp] theorem State.zero_free (lo hi : Nat) : (s.zero lo hi).free = s.free := rfl
@[simp] theorem State.zero_grade (lo hi : Nat) : (s.zero lo hi).grade = s.grade := rfl
@[simp] theorem State.zero_time (lo hi : Nat) : (s.zero lo hi).time = s.time := rfl
@[simp] theorem State.zero_frac (lo hi : Nat) : (s.zero lo hi).frac = s.frac := rfl
@[simp] theorem State.zero_clk (lo hi : Nat) : (s.zero lo hi).clk = s.clk := rfl
@[simp] theorem State.zero_regs (lo hi : Nat) : (s.zero lo hi).regs = s.regs := rfl
@[simp] theorem State.zero_out (lo hi : Nat) : (s.zero lo hi).out = s.out := rfl
@[simp] theorem State.zero_mon (lo hi : Nat) : (s.zero lo hi).mon = s.mon := rfl
@[simp] theorem State.zero_icu (lo hi : Nat) : (s.zero lo hi).icu = s.icu := rfl
@[simp] theorem State.zero_hif (lo hi : Nat) : (s.zero lo hi).hif = s.hif := rfl
@[simp] theorem State.zero_xlt (lo hi : Nat) : (s.zero lo hi).xlt = s.xlt := rfl
@[simp] theorem State.zero_wqe (lo hi : Nat) : (s.zero lo hi).wqe = s.wqe := rfl
@[simp] theorem State.zero_qpe (lo hi : Nat) : (s.zero lo hi).qpe = s.qpe := rfl
@[simp] theorem State.zero_tim (lo hi : Nat) : (s.zero lo hi).tim = s.tim := rfl
@[simp] theorem State.zero_cip (lo hi : Nat) : (s.zero lo hi).cip = s.cip := rfl
@[simp] theorem State.zero_pwr (lo hi : Nat) : (s.zero lo hi).pwr = s.pwr := rfl
@[simp] theorem State.zero_fab (lo hi : Nat) : (s.zero lo hi).fab = s.fab := rfl
@[simp] theorem State.zero_mac (lo hi : Nat) : (s.zero lo hi).mac = s.mac := rfl
@[simp] theorem State.zero_plt (lo hi : Nat) : (s.zero lo hi).plt = s.plt := rfl
@[simp] theorem State.zero_col (lo hi : Nat) : (s.zero lo hi).col = s.col := rfl
@[simp] theorem State.zero_cpf (lo hi : Nat) : (s.zero lo hi).cpf = s.cpf := rfl
@[simp] theorem State.zero_prf (lo hi : Nat) : (s.zero lo hi).prf = s.prf := rfl
@[simp] theorem State.zero_ps (lo hi : Nat) : (s.zero lo hi).ps = s.ps := rfl
@[simp] theorem State.zero_pm (lo hi : Nat) : (s.zero lo hi).pm = s.pm := rfl
@[simp] theorem State.zero_top (lo hi : Nat) : (s.zero lo hi).top = s.top := rfl

/-! ### `suppress` -/

@[simp] theorem State.suppress_pending (f : Nat) (e : EvRec) : (s.suppress f e).pending = s.pending := rfl
@[simp] theorem State.suppress_free (f : Nat) (e : EvRec) : (s.suppress f e).free = s.free := rfl
@[simp] theorem State.suppress_grade (f : Nat) (e : EvRec) : (s.suppress f e).grade = s.grade := rfl
@[simp] theorem State.suppress_time (f : Nat) (e : EvRec) : (s.suppress f e).time = s.time := rfl
@[simp] theorem State.suppress_frac (f : Nat) (e : EvRec) : (s.suppress f e).frac = s.frac := rfl
@[simp] theorem State.suppress_clk (f : Nat) (e : EvRec) : (s.suppress f e).clk = s.clk := rfl
@[simp] theorem State.suppress_mem (f : Nat) (e : EvRec) : (s.suppress f e).mem = s.mem := rfl
@[simp] theorem State.suppress_regs (f : Nat) (e : EvRec) : (s.suppress f e).regs = s.regs := rfl
@[simp] theorem State.suppress_out (f : Nat) (e : EvRec) : (s.suppress f e).out = s.out := rfl
@[simp] theorem State.suppress_icu (f : Nat) (e : EvRec) : (s.suppress f e).icu = s.icu := rfl
@[simp] theorem State.suppress_hif (f : Nat) (e : EvRec) : (s.suppress f e).hif = s.hif := rfl
@[simp] theorem State.suppress_xlt (f : Nat) (e : EvRec) : (s.suppress f e).xlt = s.xlt := rfl
@[simp] theorem State.suppress_wqe (f : Nat) (e : EvRec) : (s.suppress f e).wqe = s.wqe := rfl
@[simp] theorem State.suppress_qpe (f : Nat) (e : EvRec) : (s.suppress f e).qpe = s.qpe := rfl
@[simp] theorem State.suppress_tim (f : Nat) (e : EvRec) : (s.suppress f e).tim = s.tim := rfl
@[simp] theorem State.suppress_cip (f : Nat) (e : EvRec) : (s.suppress f e).cip = s.cip := rfl
@[simp] theorem State.suppress_pwr (f : Nat) (e : EvRec) : (s.suppress f e).pwr = s.pwr := rfl
@[simp] theorem State.suppress_fab (f : Nat) (e : EvRec) : (s.suppress f e).fab = s.fab := rfl
@[simp] theorem State.suppress_mac (f : Nat) (e : EvRec) : (s.suppress f e).mac = s.mac := rfl
@[simp] theorem State.suppress_plt (f : Nat) (e : EvRec) : (s.suppress f e).plt = s.plt := rfl
@[simp] theorem State.suppress_col (f : Nat) (e : EvRec) : (s.suppress f e).col = s.col := rfl
@[simp] theorem State.suppress_cpf (f : Nat) (e : EvRec) : (s.suppress f e).cpf = s.cpf := rfl
@[simp] theorem State.suppress_prf (f : Nat) (e : EvRec) : (s.suppress f e).prf = s.prf := rfl
@[simp] theorem State.suppress_ps (f : Nat) (e : EvRec) : (s.suppress f e).ps = s.ps := rfl
@[simp] theorem State.suppress_pm (f : Nat) (e : EvRec) : (s.suppress f e).pm = s.pm := rfl
@[simp] theorem State.suppress_top (f : Nat) (e : EvRec) : (s.suppress f e).top = s.top := rfl

/-! ### `setPlate` -/

@[simp] theorem State.setPlate_pending (p : Nat) (x : PlateSt) : (s.setPlate p x).pending = s.pending := rfl
@[simp] theorem State.setPlate_free (p : Nat) (x : PlateSt) : (s.setPlate p x).free = s.free := rfl
@[simp] theorem State.setPlate_grade (p : Nat) (x : PlateSt) : (s.setPlate p x).grade = s.grade := rfl
@[simp] theorem State.setPlate_time (p : Nat) (x : PlateSt) : (s.setPlate p x).time = s.time := rfl
@[simp] theorem State.setPlate_frac (p : Nat) (x : PlateSt) : (s.setPlate p x).frac = s.frac := rfl
@[simp] theorem State.setPlate_clk (p : Nat) (x : PlateSt) : (s.setPlate p x).clk = s.clk := rfl
@[simp] theorem State.setPlate_mem (p : Nat) (x : PlateSt) : (s.setPlate p x).mem = s.mem := rfl
@[simp] theorem State.setPlate_regs (p : Nat) (x : PlateSt) : (s.setPlate p x).regs = s.regs := rfl
@[simp] theorem State.setPlate_out (p : Nat) (x : PlateSt) : (s.setPlate p x).out = s.out := rfl
@[simp] theorem State.setPlate_mon (p : Nat) (x : PlateSt) : (s.setPlate p x).mon = s.mon := rfl
@[simp] theorem State.setPlate_icu (p : Nat) (x : PlateSt) : (s.setPlate p x).icu = s.icu := rfl
@[simp] theorem State.setPlate_hif (p : Nat) (x : PlateSt) : (s.setPlate p x).hif = s.hif := rfl
@[simp] theorem State.setPlate_xlt (p : Nat) (x : PlateSt) : (s.setPlate p x).xlt = s.xlt := rfl
@[simp] theorem State.setPlate_wqe (p : Nat) (x : PlateSt) : (s.setPlate p x).wqe = s.wqe := rfl
@[simp] theorem State.setPlate_qpe (p : Nat) (x : PlateSt) : (s.setPlate p x).qpe = s.qpe := rfl
@[simp] theorem State.setPlate_tim (p : Nat) (x : PlateSt) : (s.setPlate p x).tim = s.tim := rfl
@[simp] theorem State.setPlate_cip (p : Nat) (x : PlateSt) : (s.setPlate p x).cip = s.cip := rfl
@[simp] theorem State.setPlate_pwr (p : Nat) (x : PlateSt) : (s.setPlate p x).pwr = s.pwr := rfl
@[simp] theorem State.setPlate_fab (p : Nat) (x : PlateSt) : (s.setPlate p x).fab = s.fab := rfl
@[simp] theorem State.setPlate_mac (p : Nat) (x : PlateSt) : (s.setPlate p x).mac = s.mac := rfl
@[simp] theorem State.setPlate_col (p : Nat) (x : PlateSt) : (s.setPlate p x).col = s.col := rfl
@[simp] theorem State.setPlate_cpf (p : Nat) (x : PlateSt) : (s.setPlate p x).cpf = s.cpf := rfl
@[simp] theorem State.setPlate_prf (p : Nat) (x : PlateSt) : (s.setPlate p x).prf = s.prf := rfl
@[simp] theorem State.setPlate_ps (p : Nat) (x : PlateSt) : (s.setPlate p x).ps = s.ps := rfl
@[simp] theorem State.setPlate_pm (p : Nat) (x : PlateSt) : (s.setPlate p x).pm = s.pm := rfl
@[simp] theorem State.setPlate_top (p : Nat) (x : PlateSt) : (s.setPlate p x).top = s.top := rfl

/-! ### `setCore` -/

@[simp] theorem State.setCore_pending (c : Core) (x : CoreSt) : (s.setCore c x).pending = s.pending := rfl
@[simp] theorem State.setCore_free (c : Core) (x : CoreSt) : (s.setCore c x).free = s.free := rfl
@[simp] theorem State.setCore_grade (c : Core) (x : CoreSt) : (s.setCore c x).grade = s.grade := rfl
@[simp] theorem State.setCore_time (c : Core) (x : CoreSt) : (s.setCore c x).time = s.time := rfl
@[simp] theorem State.setCore_frac (c : Core) (x : CoreSt) : (s.setCore c x).frac = s.frac := rfl
@[simp] theorem State.setCore_clk (c : Core) (x : CoreSt) : (s.setCore c x).clk = s.clk := rfl
@[simp] theorem State.setCore_mem (c : Core) (x : CoreSt) : (s.setCore c x).mem = s.mem := rfl
@[simp] theorem State.setCore_regs (c : Core) (x : CoreSt) : (s.setCore c x).regs = s.regs := rfl
@[simp] theorem State.setCore_out (c : Core) (x : CoreSt) : (s.setCore c x).out = s.out := rfl
@[simp] theorem State.setCore_mon (c : Core) (x : CoreSt) : (s.setCore c x).mon = s.mon := rfl
@[simp] theorem State.setCore_icu (c : Core) (x : CoreSt) : (s.setCore c x).icu = s.icu := rfl
@[simp] theorem State.setCore_hif (c : Core) (x : CoreSt) : (s.setCore c x).hif = s.hif := rfl
@[simp] theorem State.setCore_xlt (c : Core) (x : CoreSt) : (s.setCore c x).xlt = s.xlt := rfl
@[simp] theorem State.setCore_wqe (c : Core) (x : CoreSt) : (s.setCore c x).wqe = s.wqe := rfl
@[simp] theorem State.setCore_qpe (c : Core) (x : CoreSt) : (s.setCore c x).qpe = s.qpe := rfl
@[simp] theorem State.setCore_tim (c : Core) (x : CoreSt) : (s.setCore c x).tim = s.tim := rfl
@[simp] theorem State.setCore_cip (c : Core) (x : CoreSt) : (s.setCore c x).cip = s.cip := rfl
@[simp] theorem State.setCore_pwr (c : Core) (x : CoreSt) : (s.setCore c x).pwr = s.pwr := rfl
@[simp] theorem State.setCore_fab (c : Core) (x : CoreSt) : (s.setCore c x).fab = s.fab := rfl
@[simp] theorem State.setCore_mac (c : Core) (x : CoreSt) : (s.setCore c x).mac = s.mac := rfl
@[simp] theorem State.setCore_col (c : Core) (x : CoreSt) : (s.setCore c x).col = s.col := rfl
@[simp] theorem State.setCore_cpf (c : Core) (x : CoreSt) : (s.setCore c x).cpf = s.cpf := rfl
@[simp] theorem State.setCore_prf (c : Core) (x : CoreSt) : (s.setCore c x).prf = s.prf := rfl
@[simp] theorem State.setCore_ps (c : Core) (x : CoreSt) : (s.setCore c x).ps = s.ps := rfl
@[simp] theorem State.setCore_pm (c : Core) (x : CoreSt) : (s.setCore c x).pm = s.pm := rfl
@[simp] theorem State.setCore_top (c : Core) (x : CoreSt) : (s.setCore c x).top = s.top := rfl

/-! ### `setLink` -/

@[simp] theorem State.setLink_pending (n : Nat) (l : FabLink) : (s.setLink n l).pending = s.pending := rfl
@[simp] theorem State.setLink_free (n : Nat) (l : FabLink) : (s.setLink n l).free = s.free := rfl
@[simp] theorem State.setLink_grade (n : Nat) (l : FabLink) : (s.setLink n l).grade = s.grade := rfl
@[simp] theorem State.setLink_time (n : Nat) (l : FabLink) : (s.setLink n l).time = s.time := rfl
@[simp] theorem State.setLink_frac (n : Nat) (l : FabLink) : (s.setLink n l).frac = s.frac := rfl
@[simp] theorem State.setLink_clk (n : Nat) (l : FabLink) : (s.setLink n l).clk = s.clk := rfl
@[simp] theorem State.setLink_mem (n : Nat) (l : FabLink) : (s.setLink n l).mem = s.mem := rfl
@[simp] theorem State.setLink_regs (n : Nat) (l : FabLink) : (s.setLink n l).regs = s.regs := rfl
@[simp] theorem State.setLink_out (n : Nat) (l : FabLink) : (s.setLink n l).out = s.out := rfl
@[simp] theorem State.setLink_mon (n : Nat) (l : FabLink) : (s.setLink n l).mon = s.mon := rfl
@[simp] theorem State.setLink_icu (n : Nat) (l : FabLink) : (s.setLink n l).icu = s.icu := rfl
@[simp] theorem State.setLink_hif (n : Nat) (l : FabLink) : (s.setLink n l).hif = s.hif := rfl
@[simp] theorem State.setLink_xlt (n : Nat) (l : FabLink) : (s.setLink n l).xlt = s.xlt := rfl
@[simp] theorem State.setLink_wqe (n : Nat) (l : FabLink) : (s.setLink n l).wqe = s.wqe := rfl
@[simp] theorem State.setLink_qpe (n : Nat) (l : FabLink) : (s.setLink n l).qpe = s.qpe := rfl
@[simp] theorem State.setLink_tim (n : Nat) (l : FabLink) : (s.setLink n l).tim = s.tim := rfl
@[simp] theorem State.setLink_cip (n : Nat) (l : FabLink) : (s.setLink n l).cip = s.cip := rfl
@[simp] theorem State.setLink_pwr (n : Nat) (l : FabLink) : (s.setLink n l).pwr = s.pwr := rfl
@[simp] theorem State.setLink_mac (n : Nat) (l : FabLink) : (s.setLink n l).mac = s.mac := rfl
@[simp] theorem State.setLink_plt (n : Nat) (l : FabLink) : (s.setLink n l).plt = s.plt := rfl
@[simp] theorem State.setLink_col (n : Nat) (l : FabLink) : (s.setLink n l).col = s.col := rfl
@[simp] theorem State.setLink_cpf (n : Nat) (l : FabLink) : (s.setLink n l).cpf = s.cpf := rfl
@[simp] theorem State.setLink_prf (n : Nat) (l : FabLink) : (s.setLink n l).prf = s.prf := rfl
@[simp] theorem State.setLink_ps (n : Nat) (l : FabLink) : (s.setLink n l).ps = s.ps := rfl
@[simp] theorem State.setLink_pm (n : Nat) (l : FabLink) : (s.setLink n l).pm = s.pm := rfl
@[simp] theorem State.setLink_top (n : Nat) (l : FabLink) : (s.setLink n l).top = s.top := rfl

/-! ### `setFout` -/

@[simp] theorem State.setFout_pending (n : Nat) (o : FabOut) : (s.setFout n o).pending = s.pending := rfl
@[simp] theorem State.setFout_free (n : Nat) (o : FabOut) : (s.setFout n o).free = s.free := rfl
@[simp] theorem State.setFout_grade (n : Nat) (o : FabOut) : (s.setFout n o).grade = s.grade := rfl
@[simp] theorem State.setFout_time (n : Nat) (o : FabOut) : (s.setFout n o).time = s.time := rfl
@[simp] theorem State.setFout_frac (n : Nat) (o : FabOut) : (s.setFout n o).frac = s.frac := rfl
@[simp] theorem State.setFout_clk (n : Nat) (o : FabOut) : (s.setFout n o).clk = s.clk := rfl
@[simp] theorem State.setFout_mem (n : Nat) (o : FabOut) : (s.setFout n o).mem = s.mem := rfl
@[simp] theorem State.setFout_regs (n : Nat) (o : FabOut) : (s.setFout n o).regs = s.regs := rfl
@[simp] theorem State.setFout_out (n : Nat) (o : FabOut) : (s.setFout n o).out = s.out := rfl
@[simp] theorem State.setFout_mon (n : Nat) (o : FabOut) : (s.setFout n o).mon = s.mon := rfl
@[simp] theorem State.setFout_icu (n : Nat) (o : FabOut) : (s.setFout n o).icu = s.icu := rfl
@[simp] theorem State.setFout_hif (n : Nat) (o : FabOut) : (s.setFout n o).hif = s.hif := rfl
@[simp] theorem State.setFout_xlt (n : Nat) (o : FabOut) : (s.setFout n o).xlt = s.xlt := rfl
@[simp] theorem State.setFout_wqe (n : Nat) (o : FabOut) : (s.setFout n o).wqe = s.wqe := rfl
@[simp] theorem State.setFout_qpe (n : Nat) (o : FabOut) : (s.setFout n o).qpe = s.qpe := rfl
@[simp] theorem State.setFout_tim (n : Nat) (o : FabOut) : (s.setFout n o).tim = s.tim := rfl
@[simp] theorem State.setFout_cip (n : Nat) (o : FabOut) : (s.setFout n o).cip = s.cip := rfl
@[simp] theorem State.setFout_pwr (n : Nat) (o : FabOut) : (s.setFout n o).pwr = s.pwr := rfl
@[simp] theorem State.setFout_mac (n : Nat) (o : FabOut) : (s.setFout n o).mac = s.mac := rfl
@[simp] theorem State.setFout_plt (n : Nat) (o : FabOut) : (s.setFout n o).plt = s.plt := rfl
@[simp] theorem State.setFout_col (n : Nat) (o : FabOut) : (s.setFout n o).col = s.col := rfl
@[simp] theorem State.setFout_cpf (n : Nat) (o : FabOut) : (s.setFout n o).cpf = s.cpf := rfl
@[simp] theorem State.setFout_prf (n : Nat) (o : FabOut) : (s.setFout n o).prf = s.prf := rfl
@[simp] theorem State.setFout_ps (n : Nat) (o : FabOut) : (s.setFout n o).ps = s.ps := rfl
@[simp] theorem State.setFout_pm (n : Nat) (o : FabOut) : (s.setFout n o).pm = s.pm := rfl
@[simp] theorem State.setFout_top (n : Nat) (o : FabOut) : (s.setFout n o).top = s.top := rfl

/-! ### `setQp` -/

@[simp] theorem State.setQp_pending (n : Nat) (q : Qp) : (s.setQp n q).pending = s.pending := rfl
@[simp] theorem State.setQp_free (n : Nat) (q : Qp) : (s.setQp n q).free = s.free := rfl
@[simp] theorem State.setQp_grade (n : Nat) (q : Qp) : (s.setQp n q).grade = s.grade := rfl
@[simp] theorem State.setQp_time (n : Nat) (q : Qp) : (s.setQp n q).time = s.time := rfl
@[simp] theorem State.setQp_frac (n : Nat) (q : Qp) : (s.setQp n q).frac = s.frac := rfl
@[simp] theorem State.setQp_clk (n : Nat) (q : Qp) : (s.setQp n q).clk = s.clk := rfl
@[simp] theorem State.setQp_mem (n : Nat) (q : Qp) : (s.setQp n q).mem = s.mem := rfl
@[simp] theorem State.setQp_regs (n : Nat) (q : Qp) : (s.setQp n q).regs = s.regs := rfl
@[simp] theorem State.setQp_out (n : Nat) (q : Qp) : (s.setQp n q).out = s.out := rfl
@[simp] theorem State.setQp_mon (n : Nat) (q : Qp) : (s.setQp n q).mon = s.mon := rfl
@[simp] theorem State.setQp_icu (n : Nat) (q : Qp) : (s.setQp n q).icu = s.icu := rfl
@[simp] theorem State.setQp_hif (n : Nat) (q : Qp) : (s.setQp n q).hif = s.hif := rfl
@[simp] theorem State.setQp_xlt (n : Nat) (q : Qp) : (s.setQp n q).xlt = s.xlt := rfl
@[simp] theorem State.setQp_wqe (n : Nat) (q : Qp) : (s.setQp n q).wqe = s.wqe := rfl
@[simp] theorem State.setQp_tim (n : Nat) (q : Qp) : (s.setQp n q).tim = s.tim := rfl
@[simp] theorem State.setQp_cip (n : Nat) (q : Qp) : (s.setQp n q).cip = s.cip := rfl
@[simp] theorem State.setQp_pwr (n : Nat) (q : Qp) : (s.setQp n q).pwr = s.pwr := rfl
@[simp] theorem State.setQp_fab (n : Nat) (q : Qp) : (s.setQp n q).fab = s.fab := rfl
@[simp] theorem State.setQp_mac (n : Nat) (q : Qp) : (s.setQp n q).mac = s.mac := rfl
@[simp] theorem State.setQp_plt (n : Nat) (q : Qp) : (s.setQp n q).plt = s.plt := rfl
@[simp] theorem State.setQp_col (n : Nat) (q : Qp) : (s.setQp n q).col = s.col := rfl
@[simp] theorem State.setQp_cpf (n : Nat) (q : Qp) : (s.setQp n q).cpf = s.cpf := rfl
@[simp] theorem State.setQp_prf (n : Nat) (q : Qp) : (s.setQp n q).prf = s.prf := rfl
@[simp] theorem State.setQp_ps (n : Nat) (q : Qp) : (s.setQp n q).ps = s.ps := rfl
@[simp] theorem State.setQp_pm (n : Nat) (q : Qp) : (s.setQp n q).pm = s.pm := rfl
@[simp] theorem State.setQp_top (n : Nat) (q : Qp) : (s.setQp n q).top = s.top := rfl

/-! ### `track` -/

@[simp] theorem State.track_pending (x : Trk) : (s.track x).pending = s.pending := rfl
@[simp] theorem State.track_free (x : Trk) : (s.track x).free = s.free := rfl
@[simp] theorem State.track_grade (x : Trk) : (s.track x).grade = s.grade := rfl
@[simp] theorem State.track_time (x : Trk) : (s.track x).time = s.time := rfl
@[simp] theorem State.track_frac (x : Trk) : (s.track x).frac = s.frac := rfl
@[simp] theorem State.track_clk (x : Trk) : (s.track x).clk = s.clk := rfl
@[simp] theorem State.track_mem (x : Trk) : (s.track x).mem = s.mem := rfl
@[simp] theorem State.track_regs (x : Trk) : (s.track x).regs = s.regs := rfl
@[simp] theorem State.track_out (x : Trk) : (s.track x).out = s.out := rfl
@[simp] theorem State.track_mon (x : Trk) : (s.track x).mon = s.mon := rfl
@[simp] theorem State.track_icu (x : Trk) : (s.track x).icu = s.icu := rfl
@[simp] theorem State.track_hif (x : Trk) : (s.track x).hif = s.hif := rfl
@[simp] theorem State.track_xlt (x : Trk) : (s.track x).xlt = s.xlt := rfl
@[simp] theorem State.track_wqe (x : Trk) : (s.track x).wqe = s.wqe := rfl
@[simp] theorem State.track_tim (x : Trk) : (s.track x).tim = s.tim := rfl
@[simp] theorem State.track_cip (x : Trk) : (s.track x).cip = s.cip := rfl
@[simp] theorem State.track_pwr (x : Trk) : (s.track x).pwr = s.pwr := rfl
@[simp] theorem State.track_fab (x : Trk) : (s.track x).fab = s.fab := rfl
@[simp] theorem State.track_mac (x : Trk) : (s.track x).mac = s.mac := rfl
@[simp] theorem State.track_plt (x : Trk) : (s.track x).plt = s.plt := rfl
@[simp] theorem State.track_col (x : Trk) : (s.track x).col = s.col := rfl
@[simp] theorem State.track_cpf (x : Trk) : (s.track x).cpf = s.cpf := rfl
@[simp] theorem State.track_prf (x : Trk) : (s.track x).prf = s.prf := rfl
@[simp] theorem State.track_ps (x : Trk) : (s.track x).ps = s.ps := rfl
@[simp] theorem State.track_pm (x : Trk) : (s.track x).pm = s.pm := rfl
@[simp] theorem State.track_top (x : Trk) : (s.track x).top = s.top := rfl

/-! ### `updRx` -/

@[simp] theorem State.updRx_pending (n psn : Nat) (f : RxRec → RxRec) : (s.updRx n psn f).pending = s.pending := rfl
@[simp] theorem State.updRx_free (n psn : Nat) (f : RxRec → RxRec) : (s.updRx n psn f).free = s.free := rfl
@[simp] theorem State.updRx_grade (n psn : Nat) (f : RxRec → RxRec) : (s.updRx n psn f).grade = s.grade := rfl
@[simp] theorem State.updRx_time (n psn : Nat) (f : RxRec → RxRec) : (s.updRx n psn f).time = s.time := rfl
@[simp] theorem State.updRx_frac (n psn : Nat) (f : RxRec → RxRec) : (s.updRx n psn f).frac = s.frac := rfl
@[simp] theorem State.updRx_clk (n psn : Nat) (f : RxRec → RxRec) : (s.updRx n psn f).clk = s.clk := rfl
@[simp] theorem State.updRx_mem (n psn : Nat) (f : RxRec → RxRec) : (s.updRx n psn f).mem = s.mem := rfl
@[simp] theorem State.updRx_regs (n psn : Nat) (f : RxRec → RxRec) : (s.updRx n psn f).regs = s.regs := rfl
@[simp] theorem State.updRx_out (n psn : Nat) (f : RxRec → RxRec) : (s.updRx n psn f).out = s.out := rfl
@[simp] theorem State.updRx_mon (n psn : Nat) (f : RxRec → RxRec) : (s.updRx n psn f).mon = s.mon := rfl
@[simp] theorem State.updRx_icu (n psn : Nat) (f : RxRec → RxRec) : (s.updRx n psn f).icu = s.icu := rfl
@[simp] theorem State.updRx_hif (n psn : Nat) (f : RxRec → RxRec) : (s.updRx n psn f).hif = s.hif := rfl
@[simp] theorem State.updRx_xlt (n psn : Nat) (f : RxRec → RxRec) : (s.updRx n psn f).xlt = s.xlt := rfl
@[simp] theorem State.updRx_wqe (n psn : Nat) (f : RxRec → RxRec) : (s.updRx n psn f).wqe = s.wqe := rfl
@[simp] theorem State.updRx_tim (n psn : Nat) (f : RxRec → RxRec) : (s.updRx n psn f).tim = s.tim := rfl
@[simp] theorem State.updRx_cip (n psn : Nat) (f : RxRec → RxRec) : (s.updRx n psn f).cip = s.cip := rfl
@[simp] theorem State.updRx_pwr (n psn : Nat) (f : RxRec → RxRec) : (s.updRx n psn f).pwr = s.pwr := rfl
@[simp] theorem State.updRx_fab (n psn : Nat) (f : RxRec → RxRec) : (s.updRx n psn f).fab = s.fab := rfl
@[simp] theorem State.updRx_mac (n psn : Nat) (f : RxRec → RxRec) : (s.updRx n psn f).mac = s.mac := rfl
@[simp] theorem State.updRx_plt (n psn : Nat) (f : RxRec → RxRec) : (s.updRx n psn f).plt = s.plt := rfl
@[simp] theorem State.updRx_col (n psn : Nat) (f : RxRec → RxRec) : (s.updRx n psn f).col = s.col := rfl
@[simp] theorem State.updRx_cpf (n psn : Nat) (f : RxRec → RxRec) : (s.updRx n psn f).cpf = s.cpf := rfl
@[simp] theorem State.updRx_prf (n psn : Nat) (f : RxRec → RxRec) : (s.updRx n psn f).prf = s.prf := rfl
@[simp] theorem State.updRx_ps (n psn : Nat) (f : RxRec → RxRec) : (s.updRx n psn f).ps = s.ps := rfl
@[simp] theorem State.updRx_pm (n psn : Nat) (f : RxRec → RxRec) : (s.updRx n psn f).pm = s.pm := rfl
@[simp] theorem State.updRx_top (n psn : Nat) (f : RxRec → RxRec) : (s.updRx n psn f).top = s.top := rfl

/-! ### `setWq` -/

@[simp] theorem State.setWq_pending (w : Nat) (q : Wq) : (s.setWq w q).pending = s.pending := rfl
@[simp] theorem State.setWq_free (w : Nat) (q : Wq) : (s.setWq w q).free = s.free := rfl
@[simp] theorem State.setWq_grade (w : Nat) (q : Wq) : (s.setWq w q).grade = s.grade := rfl
@[simp] theorem State.setWq_time (w : Nat) (q : Wq) : (s.setWq w q).time = s.time := rfl
@[simp] theorem State.setWq_frac (w : Nat) (q : Wq) : (s.setWq w q).frac = s.frac := rfl
@[simp] theorem State.setWq_clk (w : Nat) (q : Wq) : (s.setWq w q).clk = s.clk := rfl
@[simp] theorem State.setWq_mem (w : Nat) (q : Wq) : (s.setWq w q).mem = s.mem := rfl
@[simp] theorem State.setWq_regs (w : Nat) (q : Wq) : (s.setWq w q).regs = s.regs := rfl
@[simp] theorem State.setWq_out (w : Nat) (q : Wq) : (s.setWq w q).out = s.out := rfl
@[simp] theorem State.setWq_mon (w : Nat) (q : Wq) : (s.setWq w q).mon = s.mon := rfl
@[simp] theorem State.setWq_icu (w : Nat) (q : Wq) : (s.setWq w q).icu = s.icu := rfl
@[simp] theorem State.setWq_hif (w : Nat) (q : Wq) : (s.setWq w q).hif = s.hif := rfl
@[simp] theorem State.setWq_xlt (w : Nat) (q : Wq) : (s.setWq w q).xlt = s.xlt := rfl
@[simp] theorem State.setWq_qpe (w : Nat) (q : Wq) : (s.setWq w q).qpe = s.qpe := rfl
@[simp] theorem State.setWq_tim (w : Nat) (q : Wq) : (s.setWq w q).tim = s.tim := rfl
@[simp] theorem State.setWq_cip (w : Nat) (q : Wq) : (s.setWq w q).cip = s.cip := rfl
@[simp] theorem State.setWq_pwr (w : Nat) (q : Wq) : (s.setWq w q).pwr = s.pwr := rfl
@[simp] theorem State.setWq_fab (w : Nat) (q : Wq) : (s.setWq w q).fab = s.fab := rfl
@[simp] theorem State.setWq_mac (w : Nat) (q : Wq) : (s.setWq w q).mac = s.mac := rfl
@[simp] theorem State.setWq_plt (w : Nat) (q : Wq) : (s.setWq w q).plt = s.plt := rfl
@[simp] theorem State.setWq_col (w : Nat) (q : Wq) : (s.setWq w q).col = s.col := rfl
@[simp] theorem State.setWq_cpf (w : Nat) (q : Wq) : (s.setWq w q).cpf = s.cpf := rfl
@[simp] theorem State.setWq_prf (w : Nat) (q : Wq) : (s.setWq w q).prf = s.prf := rfl
@[simp] theorem State.setWq_ps (w : Nat) (q : Wq) : (s.setWq w q).ps = s.ps := rfl
@[simp] theorem State.setWq_pm (w : Nat) (q : Wq) : (s.setWq w q).pm = s.pm := rfl
@[simp] theorem State.setWq_top (w : Nat) (q : Wq) : (s.setWq w q).top = s.top := rfl

/-! ### `setCq` -/

@[simp] theorem State.setCq_pending (n : Nat) (c : Cq) : (s.setCq n c).pending = s.pending := rfl
@[simp] theorem State.setCq_free (n : Nat) (c : Cq) : (s.setCq n c).free = s.free := rfl
@[simp] theorem State.setCq_grade (n : Nat) (c : Cq) : (s.setCq n c).grade = s.grade := rfl
@[simp] theorem State.setCq_time (n : Nat) (c : Cq) : (s.setCq n c).time = s.time := rfl
@[simp] theorem State.setCq_frac (n : Nat) (c : Cq) : (s.setCq n c).frac = s.frac := rfl
@[simp] theorem State.setCq_clk (n : Nat) (c : Cq) : (s.setCq n c).clk = s.clk := rfl
@[simp] theorem State.setCq_mem (n : Nat) (c : Cq) : (s.setCq n c).mem = s.mem := rfl
@[simp] theorem State.setCq_regs (n : Nat) (c : Cq) : (s.setCq n c).regs = s.regs := rfl
@[simp] theorem State.setCq_out (n : Nat) (c : Cq) : (s.setCq n c).out = s.out := rfl
@[simp] theorem State.setCq_mon (n : Nat) (c : Cq) : (s.setCq n c).mon = s.mon := rfl
@[simp] theorem State.setCq_icu (n : Nat) (c : Cq) : (s.setCq n c).icu = s.icu := rfl
@[simp] theorem State.setCq_hif (n : Nat) (c : Cq) : (s.setCq n c).hif = s.hif := rfl
@[simp] theorem State.setCq_xlt (n : Nat) (c : Cq) : (s.setCq n c).xlt = s.xlt := rfl
@[simp] theorem State.setCq_qpe (n : Nat) (c : Cq) : (s.setCq n c).qpe = s.qpe := rfl
@[simp] theorem State.setCq_tim (n : Nat) (c : Cq) : (s.setCq n c).tim = s.tim := rfl
@[simp] theorem State.setCq_cip (n : Nat) (c : Cq) : (s.setCq n c).cip = s.cip := rfl
@[simp] theorem State.setCq_pwr (n : Nat) (c : Cq) : (s.setCq n c).pwr = s.pwr := rfl
@[simp] theorem State.setCq_fab (n : Nat) (c : Cq) : (s.setCq n c).fab = s.fab := rfl
@[simp] theorem State.setCq_mac (n : Nat) (c : Cq) : (s.setCq n c).mac = s.mac := rfl
@[simp] theorem State.setCq_plt (n : Nat) (c : Cq) : (s.setCq n c).plt = s.plt := rfl
@[simp] theorem State.setCq_col (n : Nat) (c : Cq) : (s.setCq n c).col = s.col := rfl
@[simp] theorem State.setCq_cpf (n : Nat) (c : Cq) : (s.setCq n c).cpf = s.cpf := rfl
@[simp] theorem State.setCq_prf (n : Nat) (c : Cq) : (s.setCq n c).prf = s.prf := rfl
@[simp] theorem State.setCq_ps (n : Nat) (c : Cq) : (s.setCq n c).ps = s.ps := rfl
@[simp] theorem State.setCq_pm (n : Nat) (c : Cq) : (s.setCq n c).pm = s.pm := rfl
@[simp] theorem State.setCq_top (n : Nat) (c : Cq) : (s.setCq n c).top = s.top := rfl

/-! ### `setGroup` -/

@[simp] theorem State.setGroup_pending (g : Nat) (x : Group) : (s.setGroup g x).pending = s.pending := rfl
@[simp] theorem State.setGroup_free (g : Nat) (x : Group) : (s.setGroup g x).free = s.free := rfl
@[simp] theorem State.setGroup_grade (g : Nat) (x : Group) : (s.setGroup g x).grade = s.grade := rfl
@[simp] theorem State.setGroup_time (g : Nat) (x : Group) : (s.setGroup g x).time = s.time := rfl
@[simp] theorem State.setGroup_frac (g : Nat) (x : Group) : (s.setGroup g x).frac = s.frac := rfl
@[simp] theorem State.setGroup_clk (g : Nat) (x : Group) : (s.setGroup g x).clk = s.clk := rfl
@[simp] theorem State.setGroup_mem (g : Nat) (x : Group) : (s.setGroup g x).mem = s.mem := rfl
@[simp] theorem State.setGroup_regs (g : Nat) (x : Group) : (s.setGroup g x).regs = s.regs := rfl
@[simp] theorem State.setGroup_out (g : Nat) (x : Group) : (s.setGroup g x).out = s.out := rfl
@[simp] theorem State.setGroup_mon (g : Nat) (x : Group) : (s.setGroup g x).mon = s.mon := rfl
@[simp] theorem State.setGroup_icu (g : Nat) (x : Group) : (s.setGroup g x).icu = s.icu := rfl
@[simp] theorem State.setGroup_hif (g : Nat) (x : Group) : (s.setGroup g x).hif = s.hif := rfl
@[simp] theorem State.setGroup_xlt (g : Nat) (x : Group) : (s.setGroup g x).xlt = s.xlt := rfl
@[simp] theorem State.setGroup_wqe (g : Nat) (x : Group) : (s.setGroup g x).wqe = s.wqe := rfl
@[simp] theorem State.setGroup_qpe (g : Nat) (x : Group) : (s.setGroup g x).qpe = s.qpe := rfl
@[simp] theorem State.setGroup_tim (g : Nat) (x : Group) : (s.setGroup g x).tim = s.tim := rfl
@[simp] theorem State.setGroup_cip (g : Nat) (x : Group) : (s.setGroup g x).cip = s.cip := rfl
@[simp] theorem State.setGroup_pwr (g : Nat) (x : Group) : (s.setGroup g x).pwr = s.pwr := rfl
@[simp] theorem State.setGroup_fab (g : Nat) (x : Group) : (s.setGroup g x).fab = s.fab := rfl
@[simp] theorem State.setGroup_mac (g : Nat) (x : Group) : (s.setGroup g x).mac = s.mac := rfl
@[simp] theorem State.setGroup_plt (g : Nat) (x : Group) : (s.setGroup g x).plt = s.plt := rfl
@[simp] theorem State.setGroup_cpf (g : Nat) (x : Group) : (s.setGroup g x).cpf = s.cpf := rfl
@[simp] theorem State.setGroup_prf (g : Nat) (x : Group) : (s.setGroup g x).prf = s.prf := rfl
@[simp] theorem State.setGroup_ps (g : Nat) (x : Group) : (s.setGroup g x).ps = s.ps := rfl
@[simp] theorem State.setGroup_pm (g : Nat) (x : Group) : (s.setGroup g x).pm = s.pm := rfl
@[simp] theorem State.setGroup_top (g : Nat) (x : Group) : (s.setGroup g x).top = s.top := rfl

/-! ### `updGroup` -/

@[simp] theorem State.updGroup_pending (g : Nat) (f : Group → Group) : (s.updGroup g f).pending = s.pending := rfl
@[simp] theorem State.updGroup_free (g : Nat) (f : Group → Group) : (s.updGroup g f).free = s.free := rfl
@[simp] theorem State.updGroup_grade (g : Nat) (f : Group → Group) : (s.updGroup g f).grade = s.grade := rfl
@[simp] theorem State.updGroup_time (g : Nat) (f : Group → Group) : (s.updGroup g f).time = s.time := rfl
@[simp] theorem State.updGroup_frac (g : Nat) (f : Group → Group) : (s.updGroup g f).frac = s.frac := rfl
@[simp] theorem State.updGroup_clk (g : Nat) (f : Group → Group) : (s.updGroup g f).clk = s.clk := rfl
@[simp] theorem State.updGroup_mem (g : Nat) (f : Group → Group) : (s.updGroup g f).mem = s.mem := rfl
@[simp] theorem State.updGroup_regs (g : Nat) (f : Group → Group) : (s.updGroup g f).regs = s.regs := rfl
@[simp] theorem State.updGroup_out (g : Nat) (f : Group → Group) : (s.updGroup g f).out = s.out := rfl
@[simp] theorem State.updGroup_mon (g : Nat) (f : Group → Group) : (s.updGroup g f).mon = s.mon := rfl
@[simp] theorem State.updGroup_icu (g : Nat) (f : Group → Group) : (s.updGroup g f).icu = s.icu := rfl
@[simp] theorem State.updGroup_hif (g : Nat) (f : Group → Group) : (s.updGroup g f).hif = s.hif := rfl
@[simp] theorem State.updGroup_xlt (g : Nat) (f : Group → Group) : (s.updGroup g f).xlt = s.xlt := rfl
@[simp] theorem State.updGroup_wqe (g : Nat) (f : Group → Group) : (s.updGroup g f).wqe = s.wqe := rfl
@[simp] theorem State.updGroup_qpe (g : Nat) (f : Group → Group) : (s.updGroup g f).qpe = s.qpe := rfl
@[simp] theorem State.updGroup_tim (g : Nat) (f : Group → Group) : (s.updGroup g f).tim = s.tim := rfl
@[simp] theorem State.updGroup_cip (g : Nat) (f : Group → Group) : (s.updGroup g f).cip = s.cip := rfl
@[simp] theorem State.updGroup_pwr (g : Nat) (f : Group → Group) : (s.updGroup g f).pwr = s.pwr := rfl
@[simp] theorem State.updGroup_fab (g : Nat) (f : Group → Group) : (s.updGroup g f).fab = s.fab := rfl
@[simp] theorem State.updGroup_mac (g : Nat) (f : Group → Group) : (s.updGroup g f).mac = s.mac := rfl
@[simp] theorem State.updGroup_plt (g : Nat) (f : Group → Group) : (s.updGroup g f).plt = s.plt := rfl
@[simp] theorem State.updGroup_cpf (g : Nat) (f : Group → Group) : (s.updGroup g f).cpf = s.cpf := rfl
@[simp] theorem State.updGroup_prf (g : Nat) (f : Group → Group) : (s.updGroup g f).prf = s.prf := rfl
@[simp] theorem State.updGroup_ps (g : Nat) (f : Group → Group) : (s.updGroup g f).ps = s.ps := rfl
@[simp] theorem State.updGroup_pm (g : Nat) (f : Group → Group) : (s.updGroup g f).pm = s.pm := rfl
@[simp] theorem State.updGroup_top (g : Nat) (f : Group → Group) : (s.updGroup g f).top = s.top := rfl

/-! ### `updJob` -/

@[simp] theorem State.updJob_pending (f : Nat) (g : Job → Job) : (s.updJob f g).pending = s.pending := rfl
@[simp] theorem State.updJob_free (f : Nat) (g : Job → Job) : (s.updJob f g).free = s.free := rfl
@[simp] theorem State.updJob_grade (f : Nat) (g : Job → Job) : (s.updJob f g).grade = s.grade := rfl
@[simp] theorem State.updJob_time (f : Nat) (g : Job → Job) : (s.updJob f g).time = s.time := rfl
@[simp] theorem State.updJob_frac (f : Nat) (g : Job → Job) : (s.updJob f g).frac = s.frac := rfl
@[simp] theorem State.updJob_clk (f : Nat) (g : Job → Job) : (s.updJob f g).clk = s.clk := rfl
@[simp] theorem State.updJob_mem (f : Nat) (g : Job → Job) : (s.updJob f g).mem = s.mem := rfl
@[simp] theorem State.updJob_regs (f : Nat) (g : Job → Job) : (s.updJob f g).regs = s.regs := rfl
@[simp] theorem State.updJob_out (f : Nat) (g : Job → Job) : (s.updJob f g).out = s.out := rfl
@[simp] theorem State.updJob_mon (f : Nat) (g : Job → Job) : (s.updJob f g).mon = s.mon := rfl
@[simp] theorem State.updJob_icu (f : Nat) (g : Job → Job) : (s.updJob f g).icu = s.icu := rfl
@[simp] theorem State.updJob_hif (f : Nat) (g : Job → Job) : (s.updJob f g).hif = s.hif := rfl
@[simp] theorem State.updJob_xlt (f : Nat) (g : Job → Job) : (s.updJob f g).xlt = s.xlt := rfl
@[simp] theorem State.updJob_wqe (f : Nat) (g : Job → Job) : (s.updJob f g).wqe = s.wqe := rfl
@[simp] theorem State.updJob_qpe (f : Nat) (g : Job → Job) : (s.updJob f g).qpe = s.qpe := rfl
@[simp] theorem State.updJob_tim (f : Nat) (g : Job → Job) : (s.updJob f g).tim = s.tim := rfl
@[simp] theorem State.updJob_cip (f : Nat) (g : Job → Job) : (s.updJob f g).cip = s.cip := rfl
@[simp] theorem State.updJob_pwr (f : Nat) (g : Job → Job) : (s.updJob f g).pwr = s.pwr := rfl
@[simp] theorem State.updJob_fab (f : Nat) (g : Job → Job) : (s.updJob f g).fab = s.fab := rfl
@[simp] theorem State.updJob_mac (f : Nat) (g : Job → Job) : (s.updJob f g).mac = s.mac := rfl
@[simp] theorem State.updJob_plt (f : Nat) (g : Job → Job) : (s.updJob f g).plt = s.plt := rfl
@[simp] theorem State.updJob_col (f : Nat) (g : Job → Job) : (s.updJob f g).col = s.col := rfl
@[simp] theorem State.updJob_cpf (f : Nat) (g : Job → Job) : (s.updJob f g).cpf = s.cpf := rfl
@[simp] theorem State.updJob_ps (f : Nat) (g : Job → Job) : (s.updJob f g).ps = s.ps := rfl
@[simp] theorem State.updJob_pm (f : Nat) (g : Job → Job) : (s.updJob f g).pm = s.pm := rfl
@[simp] theorem State.updJob_top (f : Nat) (g : Job → Job) : (s.updJob f g).top = s.top := rfl

/-! ### `pushSample` -/

@[simp] theorem State.pushSample_pending (th : Int) (p : Nat) (l : Bool) : (s.pushSample th p l).pending = s.pending := rfl
@[simp] theorem State.pushSample_free (th : Int) (p : Nat) (l : Bool) : (s.pushSample th p l).free = s.free := rfl
@[simp] theorem State.pushSample_grade (th : Int) (p : Nat) (l : Bool) : (s.pushSample th p l).grade = s.grade := rfl
@[simp] theorem State.pushSample_time (th : Int) (p : Nat) (l : Bool) : (s.pushSample th p l).time = s.time := rfl
@[simp] theorem State.pushSample_frac (th : Int) (p : Nat) (l : Bool) : (s.pushSample th p l).frac = s.frac := rfl
@[simp] theorem State.pushSample_clk (th : Int) (p : Nat) (l : Bool) : (s.pushSample th p l).clk = s.clk := rfl
@[simp] theorem State.pushSample_mem (th : Int) (p : Nat) (l : Bool) : (s.pushSample th p l).mem = s.mem := rfl
@[simp] theorem State.pushSample_regs (th : Int) (p : Nat) (l : Bool) : (s.pushSample th p l).regs = s.regs := rfl
@[simp] theorem State.pushSample_out (th : Int) (p : Nat) (l : Bool) : (s.pushSample th p l).out = s.out := rfl
@[simp] theorem State.pushSample_mon (th : Int) (p : Nat) (l : Bool) : (s.pushSample th p l).mon = s.mon := rfl
@[simp] theorem State.pushSample_icu (th : Int) (p : Nat) (l : Bool) : (s.pushSample th p l).icu = s.icu := rfl
@[simp] theorem State.pushSample_hif (th : Int) (p : Nat) (l : Bool) : (s.pushSample th p l).hif = s.hif := rfl
@[simp] theorem State.pushSample_xlt (th : Int) (p : Nat) (l : Bool) : (s.pushSample th p l).xlt = s.xlt := rfl
@[simp] theorem State.pushSample_wqe (th : Int) (p : Nat) (l : Bool) : (s.pushSample th p l).wqe = s.wqe := rfl
@[simp] theorem State.pushSample_qpe (th : Int) (p : Nat) (l : Bool) : (s.pushSample th p l).qpe = s.qpe := rfl
@[simp] theorem State.pushSample_cip (th : Int) (p : Nat) (l : Bool) : (s.pushSample th p l).cip = s.cip := rfl
@[simp] theorem State.pushSample_pwr (th : Int) (p : Nat) (l : Bool) : (s.pushSample th p l).pwr = s.pwr := rfl
@[simp] theorem State.pushSample_fab (th : Int) (p : Nat) (l : Bool) : (s.pushSample th p l).fab = s.fab := rfl
@[simp] theorem State.pushSample_mac (th : Int) (p : Nat) (l : Bool) : (s.pushSample th p l).mac = s.mac := rfl
@[simp] theorem State.pushSample_plt (th : Int) (p : Nat) (l : Bool) : (s.pushSample th p l).plt = s.plt := rfl
@[simp] theorem State.pushSample_col (th : Int) (p : Nat) (l : Bool) : (s.pushSample th p l).col = s.col := rfl
@[simp] theorem State.pushSample_cpf (th : Int) (p : Nat) (l : Bool) : (s.pushSample th p l).cpf = s.cpf := rfl
@[simp] theorem State.pushSample_prf (th : Int) (p : Nat) (l : Bool) : (s.pushSample th p l).prf = s.prf := rfl
@[simp] theorem State.pushSample_ps (th : Int) (p : Nat) (l : Bool) : (s.pushSample th p l).ps = s.ps := rfl
@[simp] theorem State.pushSample_pm (th : Int) (p : Nat) (l : Bool) : (s.pushSample th p l).pm = s.pm := rfl
@[simp] theorem State.pushSample_top (th : Int) (p : Nat) (l : Bool) : (s.pushSample th p l).top = s.top := rfl

/-! ### `xTouch` -/

@[simp] theorem State.xTouch_pending (e : XEnt) : (s.xTouch e).pending = s.pending := rfl
@[simp] theorem State.xTouch_free (e : XEnt) : (s.xTouch e).free = s.free := rfl
@[simp] theorem State.xTouch_grade (e : XEnt) : (s.xTouch e).grade = s.grade := rfl
@[simp] theorem State.xTouch_time (e : XEnt) : (s.xTouch e).time = s.time := rfl
@[simp] theorem State.xTouch_frac (e : XEnt) : (s.xTouch e).frac = s.frac := rfl
@[simp] theorem State.xTouch_clk (e : XEnt) : (s.xTouch e).clk = s.clk := rfl
@[simp] theorem State.xTouch_mem (e : XEnt) : (s.xTouch e).mem = s.mem := rfl
@[simp] theorem State.xTouch_regs (e : XEnt) : (s.xTouch e).regs = s.regs := rfl
@[simp] theorem State.xTouch_out (e : XEnt) : (s.xTouch e).out = s.out := rfl
@[simp] theorem State.xTouch_mon (e : XEnt) : (s.xTouch e).mon = s.mon := rfl
@[simp] theorem State.xTouch_icu (e : XEnt) : (s.xTouch e).icu = s.icu := rfl
@[simp] theorem State.xTouch_hif (e : XEnt) : (s.xTouch e).hif = s.hif := rfl
@[simp] theorem State.xTouch_wqe (e : XEnt) : (s.xTouch e).wqe = s.wqe := rfl
@[simp] theorem State.xTouch_qpe (e : XEnt) : (s.xTouch e).qpe = s.qpe := rfl
@[simp] theorem State.xTouch_tim (e : XEnt) : (s.xTouch e).tim = s.tim := rfl
@[simp] theorem State.xTouch_cip (e : XEnt) : (s.xTouch e).cip = s.cip := rfl
@[simp] theorem State.xTouch_pwr (e : XEnt) : (s.xTouch e).pwr = s.pwr := rfl
@[simp] theorem State.xTouch_fab (e : XEnt) : (s.xTouch e).fab = s.fab := rfl
@[simp] theorem State.xTouch_mac (e : XEnt) : (s.xTouch e).mac = s.mac := rfl
@[simp] theorem State.xTouch_plt (e : XEnt) : (s.xTouch e).plt = s.plt := rfl
@[simp] theorem State.xTouch_col (e : XEnt) : (s.xTouch e).col = s.col := rfl
@[simp] theorem State.xTouch_cpf (e : XEnt) : (s.xTouch e).cpf = s.cpf := rfl
@[simp] theorem State.xTouch_prf (e : XEnt) : (s.xTouch e).prf = s.prf := rfl
@[simp] theorem State.xTouch_ps (e : XEnt) : (s.xTouch e).ps = s.ps := rfl
@[simp] theorem State.xTouch_pm (e : XEnt) : (s.xTouch e).pm = s.pm := rfl
@[simp] theorem State.xTouch_top (e : XEnt) : (s.xTouch e).top = s.top := rfl

/-! ### `loadRoot` -/

@[simp] theorem State.loadRoot_pending (f : Nat) : (s.loadRoot f).pending = s.pending := rfl
@[simp] theorem State.loadRoot_free (f : Nat) : (s.loadRoot f).free = s.free := rfl
@[simp] theorem State.loadRoot_grade (f : Nat) : (s.loadRoot f).grade = s.grade := rfl
@[simp] theorem State.loadRoot_time (f : Nat) : (s.loadRoot f).time = s.time := rfl
@[simp] theorem State.loadRoot_frac (f : Nat) : (s.loadRoot f).frac = s.frac := rfl
@[simp] theorem State.loadRoot_clk (f : Nat) : (s.loadRoot f).clk = s.clk := rfl
@[simp] theorem State.loadRoot_mem (f : Nat) : (s.loadRoot f).mem = s.mem := rfl
@[simp] theorem State.loadRoot_regs (f : Nat) : (s.loadRoot f).regs = s.regs := rfl
@[simp] theorem State.loadRoot_out (f : Nat) : (s.loadRoot f).out = s.out := rfl
@[simp] theorem State.loadRoot_mon (f : Nat) : (s.loadRoot f).mon = s.mon := rfl
@[simp] theorem State.loadRoot_icu (f : Nat) : (s.loadRoot f).icu = s.icu := rfl
@[simp] theorem State.loadRoot_hif (f : Nat) : (s.loadRoot f).hif = s.hif := rfl
@[simp] theorem State.loadRoot_wqe (f : Nat) : (s.loadRoot f).wqe = s.wqe := rfl
@[simp] theorem State.loadRoot_qpe (f : Nat) : (s.loadRoot f).qpe = s.qpe := rfl
@[simp] theorem State.loadRoot_tim (f : Nat) : (s.loadRoot f).tim = s.tim := rfl
@[simp] theorem State.loadRoot_cip (f : Nat) : (s.loadRoot f).cip = s.cip := rfl
@[simp] theorem State.loadRoot_pwr (f : Nat) : (s.loadRoot f).pwr = s.pwr := rfl
@[simp] theorem State.loadRoot_fab (f : Nat) : (s.loadRoot f).fab = s.fab := rfl
@[simp] theorem State.loadRoot_mac (f : Nat) : (s.loadRoot f).mac = s.mac := rfl
@[simp] theorem State.loadRoot_plt (f : Nat) : (s.loadRoot f).plt = s.plt := rfl
@[simp] theorem State.loadRoot_col (f : Nat) : (s.loadRoot f).col = s.col := rfl
@[simp] theorem State.loadRoot_cpf (f : Nat) : (s.loadRoot f).cpf = s.cpf := rfl
@[simp] theorem State.loadRoot_prf (f : Nat) : (s.loadRoot f).prf = s.prf := rfl
@[simp] theorem State.loadRoot_ps (f : Nat) : (s.loadRoot f).ps = s.ps := rfl
@[simp] theorem State.loadRoot_pm (f : Nat) : (s.loadRoot f).pm = s.pm := rfl
@[simp] theorem State.loadRoot_top (f : Nat) : (s.loadRoot f).top = s.top := rfl

end Sys2Proof.Machine
end

