-- ==== Sys2Proof/Laws/Ops.lean ====
section
/-! SUPPORT. What every shared operation leaves as it is: the queue, the grade, and the canonical form of memory and registers. -/

namespace Sys2Proof.Machine

/-- From s to t the queue and the grade stay, and memory and registers that were in canonical form still are. -/
def Keeps (s t : State) : Prop :=
  t.pending = s.pending ∧ t.grade = s.grade ∧ (Memory.wf s.mem = true → Memory.wf t.mem = true) ∧
    (Registers.wf s.grade s.regs = true → Registers.wf s.grade t.regs = true)

variable {s t u : State}

theorem Keeps.refl (s : State) : Keeps s s := ⟨rfl, rfl, id, id⟩

theorem Keeps.trans (h : Keeps s t) (g : Keeps t u) : Keeps s u := by
  obtain ⟨p, q, m, r⟩ := h
  obtain ⟨p', q', m', r'⟩ := g
  exact ⟨p'.trans p, q'.trans q, fun x => m' (m x), fun x => by rw [q] at r'; exact r' (r x)⟩

/-- A state that differs in none of the four parts keeps them. -/
theorem Keeps.same (hp : t.pending = s.pending) (hg : t.grade = s.grade) (hm : t.mem = s.mem) (hr : t.regs = s.regs) : Keeps s t :=
  ⟨hp, hg, fun h => hm ▸ h, fun h => hr ▸ h⟩

theorem Keeps.canonical (h : Keeps s t) (c : s.canonical = true) : t.canonical = true := by
  obtain ⟨_, g, m, r⟩ := h
  rw [State.canonical, Bool.and_eq_true] at c ⊢
  exact ⟨m c.1, by rw [g]; exact r c.2⟩

/-- A choice keeps what both of its sides keep. -/
theorem Keeps.ite {p : Prop} [Decidable p] (h : p → Keeps s t) (g : ¬ p → Keeps s u) : Keeps s (if p then t else u) := by
  split
  · exact h ‹_›
  · exact g ‹_›

/-- A fold keeps what each of its steps keeps. -/
theorem Keeps.foldl {α : Type} (l : List α) (f : State → α → State) (h : ∀ t a, Keeps t (f t a)) (s : State) : Keeps s (l.foldl f s) := by
  induction l generalizing s with
  | nil => exact Keeps.refl s
  | cons a l ih => exact (h s a).trans (ih (f s a))

/-! ### Registers, counters, volumes -/

theorem keeps_wr (s : State) (k : Nat) (v : Word) : Keeps s (s.wr k v) := ⟨rfl, rfl, id, fun h => Registers.wf_dput k v h⟩

theorem keeps_wf (s : State) (k : Nat) (f : Fld) (v : Nat) : Keeps s (s.wf k f v) := keeps_wr s k _

theorem keeps_incF (s : State) (k : Nat) (f : Fld) (n : Nat) : Keeps s (s.incF k f n) := keeps_wf s k f _

theorem keeps_meter (s : State) (f i n : Nat) : Keeps s (s.meter f i n) := by
  unfold State.meter
  exact Keeps.ite (fun _ => keeps_incF s _ _ n) fun _ => Keeps.refl s

theorem keeps_softW (s : State) (k : Nat) (v : Word) : Keeps s (s.softW k v) := by
  unfold State.softW
  split
  · exact keeps_wr s k _
  · exact Keeps.refl s

theorem keeps_volAppend (s : State) (v : Nat) (bs : List Byte) : Keeps s (s.volAppend v bs) := by
  unfold State.volAppend
  split
  · exact Keeps.refl s
  · refine Keeps.ite (fun _ => Keeps.same rfl rfl rfl rfl) fun _ => ?_
    refine Keeps.trans (t := _) ?_ (keeps_meter _ _ _ _)
    refine Keeps.trans (t := _) ?_ (keeps_incF _ _ _ _)
    exact Keeps.trans (Keeps.same rfl rfl rfl rfl) (keeps_incF _ _ _ _)

/-! ### Outputs -/

theorem keeps_traceOut (s : State) (src kind : Nat) (data : List Byte) : Keeps s (s.traceOut src kind data) := by
  unfold State.traceOut
  dsimp only
  split
  · refine Keeps.ite (fun _ => Keeps.trans (Keeps.same rfl rfl rfl rfl) (keeps_volAppend _ _ _)) fun _ => Keeps.same rfl rfl rfl rfl
  · exact Keeps.same rfl rfl rfl rfl

theorem keeps_observe (s : State) (src kind : Nat) (data : List Byte) : Keeps s (s.observe src kind data) := by
  unfold State.observe
  exact Keeps.ite (fun _ => keeps_traceOut s _ _ _) fun _ => Keeps.ite (fun _ => Keeps.same rfl rfl rfl rfl) fun _ => Keeps.refl s

theorem keeps_cpfNote (s : State) (src kind : Nat) (data : List Byte) : Keeps s (s.cpfNote src kind data) := by
  unfold State.cpfNote
  exact Keeps.ite (fun _ => keeps_traceOut s _ _ _) fun _ => Keeps.refl s

theorem keeps_closeStream (s : State) (src n : Nat) : Keeps s (s.closeStream src n) := by
  unfold State.closeStream
  exact Keeps.ite (fun _ => Keeps.refl s) fun _ => Keeps.trans (Keeps.same rfl rfl rfl rfl) (keeps_observe _ _ _ _)

theorem keeps_closeStreams (s : State) : Keeps s s.closeStreams := by
  unfold State.closeStreams
  exact Keeps.ite (fun _ => Keeps.foldl _ _ (fun t e => keeps_closeStream t _ _) s) fun _ => Keeps.refl s

theorem keeps_stream (s : State) (k : OutKind) (dst : List Nat) (data : List Byte) (pkt : Option Packet) : Keeps s (s.stream k dst data pkt) := by
  unfold State.stream
  refine Keeps.ite (fun _ => ?_) fun _ => Keeps.refl s
  split
  · refine Keeps.trans (t := _) ?_ (Keeps.foldl _ _ (fun t _ => keeps_closeStream t _ _) _)
    exact Keeps.same rfl rfl rfl rfl
  · exact Keeps.refl s

theorem keeps_emit (s : State) (k : OutKind) (dst : List Nat) (data : List Byte) (pkt : Option Packet) : Keeps s (s.emit k dst data pkt) := by
  unfold State.emit
  refine Keeps.trans (keeps_stream s k dst data pkt) ?_
  exact Keeps.ite (fun _ => Keeps.refl _) fun _ => Keeps.same rfl rfl rfl rfl

theorem keeps_draw (s : State) : Keeps s s.draw := Keeps.same rfl rfl rfl rfl

/-! ### Memory -/

theorem keeps_dirtyBit (s : State) (g : Nat) (fl : Nat × Nat) : Keeps s (s.dirtyBit g fl) := by
  unfold State.dirtyBit
  exact Keeps.ite (fun _ => ⟨rfl, rfl, fun h => Memory.wf_dput _ _ h, id⟩) fun _ => Keeps.refl s

theorem keeps_dirtyPage (s : State) (g : Nat) : Keeps s (s.dirtyPage g) := by
  unfold State.dirtyPage
  exact Keeps.foldl _ _ (fun t fl => keeps_dirtyBit t g fl) s

theorem keeps_undoPage (s : State) (g : Nat) : Keeps s (s.undoPage g) := by
  unfold State.undoPage
  refine Keeps.foldl _ _ (fun t e => ?_) s
  split
  · refine Keeps.ite (fun _ => Keeps.refl t) fun _ => ?_
    refine Keeps.trans (t := _) ?_ (keeps_meter _ _ _ _)
    refine Keeps.trans (t := _) ?_ (keeps_meter _ _ _ _)
    exact Keeps.same rfl rfl rfl rfl
  · exact Keeps.refl t

theorem keeps_storeOver (s : State) (a : Nat) (bs : List Byte) : Keeps s (s.storeOver a bs) := by
  unfold State.storeOver
  have h : Keeps s { s with mem := storeBytes s.mem a bs } := ⟨rfl, rfl, fun h => Memory.wf_storeBytes a bs h, id⟩
  exact Keeps.ite (fun _ => h.trans (Keeps.foldl _ _ keeps_dirtyPage _)) fun _ => h

theorem keeps_store (s : State) (a : Nat) (bs : List Byte) : Keeps s (s.store a bs) := by
  unfold State.store
  exact Keeps.trans (Keeps.ite (fun _ => Keeps.foldl _ _ keeps_undoPage s) fun _ => Keeps.refl s) (keeps_storeOver _ a bs)

theorem keeps_zero (s : State) (lo hi : Nat) : Keeps s (s.zero lo hi) := ⟨rfl, rfl, fun h => Memory.wf_mclear lo hi h, id⟩

theorem keeps_cxlReqs (s : State) (k a n : Nat) : Keeps s (s.cxlReqs k a n) := by
  unfold State.cxlReqs
  refine Keeps.ite (fun _ => Keeps.foldl _ _ (fun t l => ?_) s) fun _ => Keeps.refl s
  exact Keeps.ite (fun _ => keeps_emit t _ _ _ _) fun _ => Keeps.refl t

theorem keeps_devStore (s : State) (a : Nat) (bs : List Byte) : Keeps s (s.devStore a bs) :=
  (keeps_cxlReqs s 1 a bs.length).trans (keeps_store _ a bs)

/-! ### Events -/

theorem keeps_suppress (s : State) (f : Nat) (e : EvRec) : Keeps s (s.suppress f e) := Keeps.same rfl rfl rfl rfl

theorem keeps_toLog (s : State) (e : EvRec) : Keeps s (s.toLog e) := by
  unfold State.toLog
  exact Keeps.ite (fun _ => Keeps.same rfl rfl rfl rfl) fun _ => Keeps.refl s

theorem keeps_faultReport (s : State) (unit sig time : Nat) (link : List Nat) : Keeps s (s.faultReport unit sig time link) := by
  unfold State.faultReport
  refine Keeps.ite (fun _ => ?_) fun _ => ?_
  · exact Keeps.trans (keeps_incF s _ _ 1) (Keeps.same rfl rfl rfl rfl)
  · refine Keeps.trans (t := _) ?_ (keeps_emit _ _ _ _ _)
    exact Keeps.trans (Keeps.same rfl rfl rfl rfl) (keeps_incF _ _ _ 1)

theorem keeps_event (s : State) (e : EvRec) : Keeps s (s.event e) := by
  unfold State.event
  dsimp only
  have h1 : Keeps s (if e.cls = .alarm ∨ e.cls = .fault then s.toLog e else s) := Keeps.ite (fun _ => keeps_toLog s e) fun _ => Keeps.refl s
  generalize (if e.cls = .alarm ∨ e.cls = .fault then s.toLog e else s) = t at h1
  refine h1.trans ?_
  have h2 : ∀ u, Keeps t u → Keeps t (if e.cls = .alarm then
      if u.mon.alarmQ.length < 64 then { u with mon.alarmQ := u.mon.alarmQ ++ [e] } else u.incF Reg.monAlarmStat F.monAlarmStat_lost 1
    else if u.pd 94 = 0 ∨ u.pd 94 = 3 then u.incF Reg.monLogStat F.monLogStat_lost_off 1
    else if e.cls = .trace then
      if u.pd 95 = 0 ∨ u.pd 95 = 3 then u.incF Reg.monLogStat F.monLogStat_trace_dropped 1
      else if 384 ≤ u.mon.evQ.length then u.incF Reg.monLogStat F.monLogStat_trace_dropped 1
      else { u with mon.evQ := u.mon.evQ ++ [e] }
    else if 512 ≤ u.mon.evQ.length then u.suppress e.ring e
    else { u with mon.evQ := u.mon.evQ ++ [e] }) := by
    intro u hu
    refine hu.trans ?_
    refine Keeps.ite (fun _ => Keeps.ite (fun _ => Keeps.same rfl rfl rfl rfl) fun _ => keeps_incF u _ _ 1) fun _ => ?_
    refine Keeps.ite (fun _ => keeps_incF u _ _ 1) fun _ => ?_
    refine Keeps.ite (fun _ => ?_) fun _ => Keeps.ite (fun _ => keeps_suppress u _ e) fun _ => Keeps.same rfl rfl rfl rfl
    refine Keeps.ite (fun _ => keeps_incF u _ _ 1) fun _ => ?_
    exact Keeps.ite (fun _ => keeps_incF u _ _ 1) fun _ => Keeps.same rfl rfl rfl rfl
  cases (if e.cls = .fault then e.subject else none) with
  | some x => exact h2 _ (keeps_faultReport t _ _ _ _)
  | none => exact h2 t (Keeps.refl t)

theorem keeps_raise (s : State) (cls : EvClass) (b n fn inst arg0 arg1 arg2 count : Nat) :
    Keeps s (s.raise cls b n fn inst arg0 arg1 arg2 count) := keeps_event s _

theorem keeps_raiseMs (s : State) (cls : EvClass) (b n key fn inst arg0 arg1 : Nat) :
    Keeps s (s.raiseMs cls b n key fn inst arg0 arg1) := by
  unfold State.raiseMs
  dsimp only
  have h : ∀ m, Keeps s { s.raise cls b n fn inst arg0 arg1 with mon.limited := m } := fun m =>
    Keeps.trans (keeps_raise s cls b n fn inst arg0 arg1 0 1) (Keeps.same rfl rfl rfl rfl)
  split
  · exact Keeps.ite (fun _ => h _) fun _ => Keeps.refl s
  · exact h _

theorem keeps_volFull (s : State) (n : Nat) : Keeps s (s.volFull n) := by
  unfold State.volFull
  split
  · exact Keeps.ite (fun _ => Keeps.refl s) fun _ => Keeps.trans (Keeps.same rfl rfl rfl rfl) (keeps_raise _ _ _ _ _ _ _ _ _ _)
  · exact Keeps.refl s

theorem keeps_aggregate (s : State) (k : AggKind) (fn inst arg0 arg1 arg2 : Nat) : Keeps s (s.aggregate k fn inst arg0 arg1 arg2) := by
  unfold State.aggregate
  exact Keeps.ite (fun _ => Keeps.same rfl rfl rfl rfl) fun _ => Keeps.same rfl rfl rfl rfl

/-- An input keeps what its effect keeps. -/
theorem keeps_letIn (s : State) (src kind : Nat) (data : List Byte) (act : State → State) (h : ∀ t, Keeps t (act t)) :
    Keeps s (s.letIn src kind data act) := by
  unfold State.letIn
  refine Keeps.ite (fun _ => Keeps.ite (fun _ => (keeps_traceOut s _ _ _).trans (h _)) fun _ => keeps_volFull s _) fun _ => ?_
  refine Keeps.ite (fun _ => ?_) fun _ => Keeps.ite (fun _ => Keeps.refl s) fun _ => h s
  split
  · exact Keeps.ite (fun _ => Keeps.trans (Keeps.same rfl rfl rfl rfl) (h _)) fun _ => Keeps.refl s
  · exact Keeps.refl s

/-! ### Interrupts -/

theorem keeps_msixDue (s : State) (f v : Nat) : Keeps s (s.msixDue f v) := by
  unfold State.msixDue
  dsimp only
  have h : ∀ m, Keeps s { s.wf (coalKey f v) F.icuCoalPf_events 0 with icu.msix := m } := fun m =>
    Keeps.trans (keeps_wf s _ _ 0) (Keeps.same rfl rfl rfl rfl)
  exact Keeps.ite (fun _ => h _) fun _ => Keeps.trans (h _) (keeps_emit _ _ _ _ _)

theorem keeps_msixEvent (s : State) (f v : Nat) : Keeps s (s.msixEvent f v) := by
  unfold State.msixEvent
  dsimp only
  refine Keeps.ite (fun _ => keeps_incF s _ _ 1) fun _ => ?_
  refine Keeps.trans (keeps_wf s (coalKey f v) F.icuCoalPf_events (s.rf (coalKey f v) F.icuCoalPf_events + 1)) ?_
  generalize s.wf (coalKey f v) F.icuCoalPf_events (s.rf (coalKey f v) F.icuCoalPf_events + 1) = t
  have h : ∀ m, Keeps t { t with icu.msix := m } := fun _ => Keeps.same rfl rfl rfl rfl
  exact Keeps.ite (fun _ => (h _).trans (keeps_msixDue _ f v)) fun _ => h _

theorem keeps_hostSource (s : State) (i : Nat) : Keeps s (s.hostSource i) := by
  unfold State.hostSource
  exact Keeps.ite (fun _ => keeps_msixEvent s _ _) fun _ => keeps_incF s _ _ 1

theorem keeps_edge (s : State) (i : Nat) : Keeps s (s.edge i) := by
  unfold State.edge
  dsimp only
  refine Keeps.ite (fun _ => Keeps.ite (fun _ => keeps_hostSource s i) fun _ => Keeps.refl s) fun _ => ?_
  refine Keeps.ite (fun _ => keeps_incF s _ _ 1) fun _ => ?_
  refine Keeps.trans (keeps_wf s (Reg.icuSrc i) F.icuSrc_latch 1) ?_
  generalize s.wf (Reg.icuSrc i) F.icuSrc_latch 1 = t
  have h : Keeps t { t with icu.active := sins t.icu.active i } := Keeps.same rfl rfl rfl rfl
  exact Keeps.ite (fun _ => Keeps.ite (fun _ => h) fun _ => Keeps.refl t) fun _ => keeps_wf t _ _ 1

theorem keeps_level (s : State) (i : Nat) (up : Bool) : Keeps s (s.level i up) := by
  unfold State.level
  dsimp only
  have h : Keeps s { s with icu.level := if up then sins s.icu.level i else sdel s.icu.level i } := Keeps.same rfl rfl rfl rfl
  refine h.trans ?_
  refine Keeps.ite (fun _ => Keeps.refl _) fun _ => ?_
  refine Keeps.ite (fun _ => Keeps.ite (fun _ => keeps_hostSource _ i) fun _ => Keeps.refl _) fun _ => ?_
  exact Keeps.ite (fun _ => Keeps.ite (fun _ => Keeps.same rfl rfl rfl rfl) fun _ => Keeps.refl _) fun _ => keeps_wf _ _ _ _

/-! ### Accesses -/

theorem keeps_evUnmapped (s : State) (m a : Nat) : Keeps s (s.evUnmapped m a) := keeps_raise s _ _ _ _ _ _ _ _ _

theorem keeps_evViolation (s : State) (m a : Nat) : Keeps s (s.evViolation m a) := keeps_raise s _ _ _ _ _ _ _ _ _

/-- A check that turns an access away answers the state with the event that says so. -/
theorem keeps_check {m a : Nat} (h : s.check m a = some t) : Keeps s t := by
  unfold State.check at h
  split at h
  · cases h; exact keeps_evViolation s m a
  · split at h
    · cases h; exact keeps_evUnmapped s m a
    · split at h
      · cases h; exact keeps_evViolation s m a
      · cases h

theorem keeps_sw (s : State) (m k : Nat) (act : State → State) (h : Keeps s (act s)) : Keeps s (s.sw m k act) := by
  unfold State.sw
  split
  · exact keeps_check ‹_›
  · exact h

theorem keeps_cmd (s : State) (f k : Nat) (act : State → State) (h : Keeps s (act s)) : Keeps s (s.cmd f k act) := by
  unfold State.cmd
  exact Keeps.ite (fun _ => h) fun _ => keeps_evUnmapped s f _

theorem keeps_swp (s : State) (m f k : Nat) (act : State → State) (h : Keeps s (act s)) : Keeps s (s.swp m f k act) := by
  unfold State.swp
  exact Keeps.ite (fun _ => keeps_cmd s f k act h) fun _ => keeps_sw s m k act h

/-! ### What they do where counterproof does not run -/

/-- Outputs leave as they are made. -/
theorem State.emit_eq (s : State) (k : OutKind) (dst : List Nat) (data : List Byte) (pkt : Option Packet) (h : s.cpfRuns = false)
    (hh : s.cpf.halted = false) : s.emit k dst data pkt = { s with out := s.out ++ [{ kind := k, dst := dst, pkt := pkt, data := data }] } := by
  have hf : s.follows = false := by simp [State.follows, h]
  simp [State.emit, State.stream, h, hf, hh]

/-- An input enters. -/
theorem State.letIn_eq (s : State) (src kind : Nat) (data : List Byte) (act : State → State) (hl : s.leads = false) (hf : s.follows = false)
    (hh : s.cpf.halted = false) : s.letIn src kind data act = act s := by
  simp [State.letIn, hl, hf, hh]

/-- The record of an event raised now. -/
def State.record (s : State) (cls : EvClass) (b n fn inst arg0 arg1 arg2 count : Nat) : EvRec :=
  { time := s.time, cls := cls, code := b * 256 + n, block := b, fn := fn, inst := inst, arg0 := arg0, arg1 := arg1, arg2 := arg2, count := count }

/-- A warning takes its place in the event queue where the queue's domain is On and it has room. -/
theorem State.raise_warning (s : State) (b n fn inst arg0 arg1 arg2 count : Nat) (hp : s.pd 94 = 2) (hq : s.mon.evQ.length < 512) :
    s.raise .warning b n fn inst arg0 arg1 arg2 count =
      { s with mon.evQ := s.mon.evQ ++ [s.record .warning b n fn inst arg0 arg1 arg2 count] } := by
  have h : ¬ 512 ≤ s.mon.evQ.length := by omega
  simp [State.raise, State.event, State.record, hp, h]

/-- A fault that concerns no other node goes to the log and to the event queue. -/
theorem State.raise_fault (s : State) (b n fn inst arg0 arg1 arg2 count : Nat) (hp : s.pd 94 = 2) (hq : s.mon.evQ.length < 512)
    (hs : (s.record .fault b n fn inst arg0 arg1 arg2 count).subject = none) :
    s.raise .fault b n fn inst arg0 arg1 arg2 count =
      { s.toLog (s.record .fault b n fn inst arg0 arg1 arg2 count) with
          mon.evQ := s.mon.evQ ++ [s.record .fault b n fn inst arg0 arg1 arg2 count] } := by
  have h : ¬ 512 ≤ s.mon.evQ.length := by omega
  have hc : (s.record .fault b n fn inst arg0 arg1 arg2 count).cls = .fault := rfl
  have hr : s.raise .fault b n fn inst arg0 arg1 arg2 count = s.event (s.record .fault b n fn inst arg0 arg1 arg2 count) := rfl
  rw [hr]
  generalize s.record .fault b n fn inst arg0 arg1 arg2 count = e at hs hc
  have hl : (s.toLog e).mon.evQ = s.mon.evQ := by unfold State.toLog; split <;> rfl
  have hd : (s.toLog e).pd 94 = 2 := by unfold State.toLog; split <;> exact hp
  simp [State.event, hc, hs, hl, hd, h]

end Sys2Proof.Machine
end

