-- ==== Sys2Proof/WellFormed.lean ====
section
/-! DEFINITION. Which commands are well formed: every operand that names something of the module lies in the range that the spec gives
it. -/

namespace Sys2Proof

/-- An operand that the spec bounds: a master ID (01_architecture.md Table 1-7), a function or port function, a plate, a core, a work
queue, a completion queue, a QP number, a node ID, a mailbox channel, a power domain, a BAR2 window, the target of a register access, a
packet, a trace record, or a number below a bound. -/
inductive Arg where
  | master (m : Nat)
  | fn (f : Nat) (ports : Bool)
  | plate (p : Nat)
  | core (c : Core)
  | wq (w : Nat)
  | cq (c : Nat)
  | qp (q : Nat)
  | node (x : Nat)
  | chan (c : Nat)
  | domain (d : Nat)
  | window (w : Bar2)
  | target (t : RegTgt)
  | packet (p : Packet)
  | record (r : TraceRec)
  | small (n bound : Nat)
  deriving DecidableEq, Repr

/-- Whether a master ID is one that Table 1-7 lists. -/
def masterOk (m : Nat) : Bool :=
  decide (m ≤ 0x400) || (decide (0x800 ≤ m) && decide (m < 0x804)) || (decide (0x840 ≤ m) && decide (m < 0x890)) || decide (m = 0x8A0) ||
    decide (m = 0x8B0) || decide (m = 0xFFF)

/-- Whether a core exists: plates 0-63, exposed burins 0-31, transport cores 0-15. -/
def coreOk : Core → Bool
  | .seq p => decide (p < 64)
  | .burin p b => decide (p < 64) && decide (b < 32)
  | .tport i => decide (i < 16)

/-- Whether a window is one that a function shows (02_attach_ports.md Table 2-4). -/
def windowOk : Bar2 → Bool
  | .pf => true
  | .vf n => decide (1 ≤ n) && decide (n ≤ 1024)
  | .port n h => decide (n < 4) && decide (h < 2)

/-- Whether a register's target lies in the DPA space, in BAR0 of the PF (64 MiB) or in the register page of a VF (64 KiB). -/
def targetOk : RegTgt → Bool
  | .dpa a => decide (a < 2 ^ 40)
  | .bar0 o => decide (o < 2 ^ 26)
  | .page n o => decide (1 ≤ n) && decide (n ≤ 1024) && decide (o < 2 ^ 16)

/-- Whether a packet's fields fit the header of 07_transport.md Table 7-1. -/
def packetOk (p : Packet) : Bool :=
  decide (p.dstNode < 2 ^ 16) && decide (p.hops < 64) && decide (p.vc < 8) && decide (p.st < 2) && decide (p.tc < 8) &&
    decide (p.type < 16) && decide (p.plen < 2 ^ 13) && decide (p.dstQpn < 2 ^ 18) && decide (p.srcNode < 2 ^ 16) &&
    decide (p.srcQpn < 2 ^ 18) && decide (p.psn < 2 ^ 24) && decide (p.srcInc < 2 ^ 16) && decide (p.dstInc < 2 ^ 16) &&
    decide (p.payload.length ≤ 4096)

/-- Whether a trace record fits its header (17_reproducibility.md Table 17-7). -/
def recordOk (r : TraceRec) : Bool :=
  decide (r.src < 256) && decide (r.kind < 256) && decide (r.cyc < 2 ^ 48) && decide (r.data.length ≤ 4152)

/-- Whether an operand lies in its range. -/
def Arg.ok : Arg → Bool
  | .master m => masterOk m
  | .fn f ports => decide (f ≤ 1024) || (ports && decide (2048 ≤ f) && decide (f < 2056))
  | .plate p => decide (p < 64)
  | .core c => coreOk c
  | .wq w => decide (w < 65536)
  | .cq c => decide (c < 65536)
  | .qp q => decide (q < 262144)
  | .node x => decide (x < 65536)
  | .chan c => decide (c < 512)
  | .domain d => decide (d < 96)
  | .window w => windowOk w
  | .target t => targetOk t
  | .packet p => packetOk p
  | .record r => recordOk r
  | .small n b => decide (n < b)

/-- The bounded operands of a command. -/
def Instr.args : Instr → List Arg
  | .registerWrite m t _ => [.master m, .target t]
  | .partialWrite m t _ => [.master m, .target t]
  | .blockLock m blk => [.master m, .small blk 18]
  | .memoryRequest m _ _ _ _ _ _ => [.master m]
  | .refclkLost => []
  | .hostBar2Write w _ _ _ => [.window w]
  | .hostBar2Read w _ n => [.window w, .small n 4097]
  | .hostAtomicop w _ _ _ _ => [.window w]
  | .portFunctionBar0Read port half _ _ => [.small port 4, .small half 2]
  | .cxlMemAccess _ _ _ => []
  | .biasCmdGo m _ => [.master m]
  | .biasFlipEnd => []
  | .linkEnWrite m port _ => [.master m, .small port 4]
  | .linkHalfDown port half => [.small port 4, .small half 2]
  | .linkHalfUp port half width rate _ => [.small port 4, .small half 2, .small width 17, .small rate 7]
  | .perstN port _ => [.small port 4]
  | .flushReadCompletion _ _ _ => []
  | .peerProbeComplete f _ _ => [.fn f false]
  | .peerReadFailure port half _ wqn _ => [.small port 4, .small half 2, .wq wqn]
  | .xltDevEnWrite m f _ => [.master m, .fn f false]
  | .tableWalkReadDone _ f _ _ _ _ _ => [.fn f false]
  | .atsTranslationCompletion _ _ _ _ _ _ => []
  | .pageRequestResponse _ _ => []
  | .xltInvGo m f _ => [.master m, .fn f false]
  | .xltInvDrainEnd f => [.fn f false]
  | .atsInvalidateRequest f _ _ _ _ => [.fn f true]
  | .atsInvalidationComplete f _ => [.fn f true]
  | .vfmGrantWrite m _ _ => [.master m]
  | .plateOwnerWrite m p _ => [.master m, .plate p]
  | .dlogBaseWrite m f l _ => [.master m, .fn f false, .small l 2]
  | .dlogHarvestGo m f _ => [.master m, .fn f false]
  | .dlogHarvestDone f => [.fn f false]
  | .mtrClr m f => [.master m, .fn f false]
  | .functionLevelReset f => [.fn f false]
  | .flrComplete f => [.fn f false]
  | .scrub m f => [.master m, .fn f false]
  | .scrubDone f => [.fn f false]
  | .fnEnWrite m f _ => [.master m, .fn f false]
  | .wqPollDue w => [.wq w]
  | .pollWindow => []
  | .wqKick f w => [.fn f false, .wq w]
  | .pollReadCompletion w _ _ => [.wq w]
  | .schedulerGrant k => [.small k 7]
  | .nopEntry w => [.wq w]
  | .write w _ => [.wq w]
  | .read w _ => [.wq w]
  | .wait w => [.wq w]
  | .waitSatisfied w => [.wq w]
  | .waitTimeout w => [.wq w]
  | .fence w => [.wq w]
  | .createWq f => [.fn f false]
  | .modifyWq f _ => [.fn f false]
  | .enableWq f _ => [.fn f false]
  | .disableWq f _ => [.fn f false]
  | .destroyWq f _ => [.fn f false]
  | .queryWq f _ => [.fn f false]
  | .createCq f => [.fn f false]
  | .resumeCq f _ => [.fn f false]
  | .destroyCq f _ => [.fn f false]
  | .queryCq f _ => [.fn f false]
  | .cqHeadReread c _ _ => [.cq c]
  | .cqArm f _ => [.fn f false]
  | .createQp f _ => [.fn f false]
  | .modifyQp f _ => [.fn f false]
  | .armQp f _ => [.fn f false]
  | .resetQp f _ => [.fn f false]
  | .destroyQp f _ => [.fn f false]
  | .qpDrainEnd q => [.qp q]
  | .queryQp f _ => [.fn f false]
  | .qpRetireExpiry q => [.qp q]
  | .register f => [.fn f false]
  | .deregister f _ => [.fn f false]
  | .queryRegion f _ => [.fn f false]
  | .revoke f _ => [.fn f false]
  | .revokeDrainEnd ix => [.small ix 16777216]
  | .refusalAggregationEnd _ => []
  | .dataReceived p _ _ => [.packet p]
  | .writeVisible q psn _ => [.qp q, .small psn 16777216]
  | .noticeReceived p _ _ => [.packet p]
  | .readReqReceived p _ _ => [.packet p]
  | .readRespReceived p _ => [.packet p]
  | .ackReceived p _ => [.packet p]
  | .connectReceived p _ => [.packet p]
  | .acceptReceived p _ => [.packet p]
  | .rejectReceived p _ => [.packet p]
  | .abortReceived p _ => [.packet p]
  | .ackDelayExpiry q => [.qp q]
  | .retransmitTimeout q => [.qp q]
  | .frameRelease q _ => [.qp q]
  | .umtPortEnClear m n => [.master m, .small n 12]
  | .ccEventRun core => [.small core 16]
  | .ccHandlerAbandon core => [.small core 16]
  | .ccSwap m => [.master m]
  | .fabPortEnWrite m n _ => [.master m, .small n 12]
  | .phyLock n => [.small n 12]
  | .phyLockTimeout n => [.small n 12]
  | .trainingCellReceived n _ => [.small n 12]
  | .trainingTimeout n => [.small n 12]
  | .downWaitExpiry n => [.small n 12]
  | .dataCellReceived n _ => [.small n 12]
  | .controlCellReceived n _ => [.small n 12]
  | .ackSeqTimeout n => [.small n 12]
  | .controlCellDue n => [.small n 12]
  | .linkFail n reason => [.small n 12, .small reason 16]
  | .packetHeadArrival n => [.small n 104]
  | .outputGrant n => [.small n 13]
  | .vcHeadTimeout ix vc => [.small ix 13, .small vc 8]
  | .vcStallTimeout ix vc => [.small ix 13, .small vc 8]
  | .flipArm m _ => [.master m]
  | .routeFlip => []
  | .flipDrainDeadline => []
  | .faultMapEntryReceived frm _ => [.small frm 12]
  | .autoRouteWrite => []
  | .macQuadReconfig m n _ => [.master m, .small n 12]
  | .ethLinkChange n _ => [.small n 12]
  | .ethFrameReceived n _ => [.small n 12]
  | .rawRingEnable m n _ _ => [.master m, .small n 12]
  | .rawTxSlot n _ => [.small n 12]
  | .txFrameStart n _ => [.small n 12]
  | .txUnderrun n _ => [.small n 12]
  | .ppsInEdge => []
  | .ppsOutPulse => []
  | .timNowRead m => [.master m]
  | .timSet m _ => [.master m]
  | .timRateWrite m _ => [.master m]
  | .timeSample => []
  | .holdoverExpiry => []
  | .ptpExchange _ => []
  | .snapArm m _ => [.master m]
  | .snapshotTick => []
  | .hatchEntryBoundary n => [.small n 12]
  | .hatchSwapRequest m n _ => [.master m, .small n 12]
  | .hatchSwap n => [.small n 12]
  | .bucketRefill _ => []
  | .bucketWrite m _ _ => [.master m]
  | .install => []
  | .replace => []
  | .delete => []
  | .saDeleteDrainEnd sa => [.small sa 65536]
  | .query => []
  | .save => []
  | .restore => []
  | .setKek => []
  | .start m p => [.master m, .plate p]
  | .stop m p => [.master m, .plate p]
  | .stopDrainEnd p => [.plate p]
  | .programEnd p => [.plate p]
  | .plateReset m p => [.master m, .plate p]
  | .plateScrubEnd p => [.plate p]
  | .barrierStall p b => [.plate p, .small b 16]
  | .dispLimitWrite m p d _ => [.master m, .plate p, .small d 8]
  | .descriptorEnd p q _ => [.plate p, .small q 8]
  | .burinSubstitution p _ => [.plate p]
  | .loadGo m p _ => [.master m, .plate p]
  | .loadEnd p _ => [.plate p]
  | .nop c _ => [.core c]
  | .add c _ => [.core c]
  | .sub c _ => [.core c]
  | .mul c _ => [.core c]
  | .mulh c _ => [.core c]
  | .mulhu c _ => [.core c]
  | .div c _ => [.core c]
  | .divu c _ => [.core c]
  | .rem c _ => [.core c]
  | .remu c _ => [.core c]
  | .and c _ => [.core c]
  | .or c _ => [.core c]
  | .xor c _ => [.core c]
  | .shl c _ => [.core c]
  | .shr c _ => [.core c]
  | .sra c _ => [.core c]
  | .slt c _ => [.core c]
  | .sltu c _ => [.core c]
  | .min c _ => [.core c]
  | .max c _ => [.core c]
  | .clz c _ => [.core c]
  | .popc c _ => [.core c]
  | .addi c _ => [.core c]
  | .andi c _ => [.core c]
  | .ori c _ => [.core c]
  | .xori c _ => [.core c]
  | .shli c _ => [.core c]
  | .shri c _ => [.core c]
  | .srai c _ => [.core c]
  | .slti c _ => [.core c]
  | .li c _ => [.core c]
  | .lih c _ => [.core c]
  | .fadd c _ => [.core c]
  | .fsub c _ => [.core c]
  | .fmul c _ => [.core c]
  | .ffma c _ => [.core c]
  | .fdiv c _ => [.core c]
  | .fsqrt c _ => [.core c]
  | .fmin c _ => [.core c]
  | .fmax c _ => [.core c]
  | .fcmpeq c _ => [.core c]
  | .fcmplt c _ => [.core c]
  | .fcmple c _ => [.core c]
  | .fcvt c _ => [.core c]
  | .ld c _ => [.core c]
  | .ldu c _ => [.core c]
  | .st c _ => [.core c]
  | .aadd c _ => [.core c]
  | .aswap c _ => [.core c]
  | .acas c _ => [.core c]
  | .afadd c _ => [.core c]
  | .beq c _ => [.core c]
  | .bne c _ => [.core c]
  | .blt c _ => [.core c]
  | .bge c _ => [.core c]
  | .bltu c _ => [.core c]
  | .bgeu c _ => [.core c]
  | .call c _ => [.core c]
  | .jr c _ => [.core c]
  | .loop c _ => [.core c]
  | .setmode c _ => [.core c]
  | .crd c _ => [.core c]
  | .cwr c _ => [.core c]
  | .msync c _ => [.core c]
  | .phase c _ => [.core c]
  | .halt c _ => [.core c]
  | .brk c _ => [.core c]
  | .trap c _ => [.core c]
  | .eret c _ => [.core c]
  | .barw c _ => [.core c]
  | .barmask c _ => [.core c]
  | .bargen c _ => [.core c]
  | .claim c _ => [.core c]
  | .vnop c _ => [.core c]
  | .vadd c _ => [.core c]
  | .vsub c _ => [.core c]
  | .vmul c _ => [.core c]
  | .vfma c _ => [.core c]
  | .vmin c _ => [.core c]
  | .vmax c _ => [.core c]
  | .vabs c _ => [.core c]
  | .vneg c _ => [.core c]
  | .vdiv c _ => [.core c]
  | .vsqrt c _ => [.core c]
  | .vand c _ => [.core c]
  | .vor c _ => [.core c]
  | .vxor c _ => [.core c]
  | .vshl c _ => [.core c]
  | .vshr c _ => [.core c]
  | .vsra c _ => [.core c]
  | .vcmpeq c _ => [.core c]
  | .vcmplt c _ => [.core c]
  | .vcmple c _ => [.core c]
  | .vcmpun c _ => [.core c]
  | .mand c _ => [.core c]
  | .mor c _ => [.core c]
  | .mxor c _ => [.core c]
  | .mnot c _ => [.core c]
  | .mset c _ => [.core c]
  | .mget c _ => [.core c]
  | .mpopc c _ => [.core c]
  | .vcvt c _ => [.core c]
  | .vscale c _ => [.core c]
  | .vqnt c _ => [.core c]
  | .vdq c _ => [.core c]
  | .vredadd c _ => [.core c]
  | .vredmax c _ => [.core c]
  | .vredmin c _ => [.core c]
  | .vbadd c _ => [.core c]
  | .vbmrg c _ => [.core c]
  | .vbrnd c _ => [.core c]
  | .vmov c _ => [.core c]
  | .vsel c _ => [.core c]
  | .vperm c _ => [.core c]
  | .vbcast c _ => [.core c]
  | .vext c _ => [.core c]
  | .vins c _ => [.core c]
  | .vld c _ => [.core c]
  | .vld2 c _ => [.core c]
  | .vst c _ => [.core c]
  | .vlds c _ => [.core c]
  | .vsts c _ => [.core c]
  | .vgath c _ => [.core c]
  | .vscat c _ => [.core c]
  | .mma c _ => [.core c]
  | .accz c _ => [.core c]
  | .accget c _ => [.core c]
  | .accput c _ => [.core c]
  | .accld c _ => [.core c]
  | .accst c _ => [.core c]
  | .xpost c _ => [.core c]
  | .xcount c _ => [.core c]
  | .xwait c _ => [.core c]
  | .xerr c _ => [.core c]
  | .xclr c _ => [.core c]
  | .cissue c _ => [.core c]
  | .cwait c _ => [.core c]
  | .createGroup f => [.fn f false]
  | .setRing f _ => [.fn f false]
  | .setProg f _ => [.fn f false]
  | .enableGroup f _ _ => [.fn f false]
  | .disableGroup f _ => [.fn f false]
  | .destroyGroup f _ => [.fn f false]
  | .queryGroup f _ => [.fn f false]
  | .launch w _ => [.wq w]
  | .allreduce w _ => [.wq w]
  | .reduceScatter w _ => [.wq w]
  | .allgather w _ => [.wq w]
  | .broadcast w _ => [.wq w]
  | .reduce w _ => [.wq w]
  | .alltoall w _ => [.wq w]
  | .barrier w _ => [.wq w]
  | .collectiveStart g _ => [.small g 4096]
  | .chunkStart _ _ => []
  | .chunkNoticeReceived q _ => [.qp q]
  | .slotReturnReceived q => [.qp q]
  | .recordDone p _ _ => [.plate p]
  | .collectiveEnd g => [.small g 4096]
  | .collectiveTimeout g => [.small g 4096]
  | .cpfGo m => [.master m]
  | .cpfOriginReached _ _ _ _ _ _ _ => []
  | .cpfStop m => [.master m]
  | .traceRecordArrival r _ _ => [.record r]
  | .replayInput _ _ => []
  | .comparatorSelftest _ _ => []
  | .verifiedReport _ => []
  | .createJob f _ => [.fn f false]
  | .addRegion f => [.fn f false]
  | .removeRegion f _ => [.fn f false]
  | .bindQp f => [.fn f false]
  | .bindCommitWq f => [.fn f false]
  | .step f => [.fn f false]
  | .resume f => [.fn f false]
  | .restoreFlash f => [.fn f false]
  | .flashRestoreDone f _ => [.fn f false]
  | .destroyJob f => [.fn f false]
  | .addSpares f _ => [.fn f false]
  | .addSparesReportReceived _ m _ _ => [.small m 65536]
  | .undoCopyDone g => [.small g 3538944]
  | .peerCopyDone f _ _ _ => [.fn f false]
  | .deltaNoticeReceived q _ => [.qp q]
  | .memberPrepared f => [.fn f false]
  | .preparedReceived _ _ m => [.small m 65536]
  | .commitReceived _ _ _ => []
  | .failReceived _ _ => []
  | .flashProofWritten f => [.fn f false]
  | .flashDoneReceived _ _ m => [.small m 65536]
  | .flashFailedReceived _ _ m => [.small m 65536]
  | .flashUsableReceived _ _ => []
  | .heartbeatDue => []
  | .heartbeatReceived x => [.node x]
  | .heartbeatSilence x => [.node x]
  | .suspectReceived x by_ _ => [.node x, .node by_]
  | .leaveReceived _ m => [.small m 65536]
  | .lostReceived x => [.node x]
  | .faultReportReceived origin _ _ _ _ _ => [.node origin]
  | .faultReportWindowEnd _ => []
  | .rollbackReceived _ _ _ _ => []
  | .rollbackRestoreDone f => [.fn f false]
  | .rolledReceived _ m _ => [.small m 65536]
  | .takeoverReceived x => [.node x]
  | .moveReceived x _ _ => [.node x]
  | .rebuildDone f _ _ => [.fn f false]
  | .recoveredReceived _ _ => []
  | .createVol m => [.master m]
  | .deleteVol m => [.master m]
  | .queryVol m => [.master m]
  | .volumeRead m _ _ _ => [.master m]
  | .volumeWrite m _ => [.master m]
  | .truncate m => [.master m]
  | .powerFail _ => []
  | .psCheckpoint => []
  | .holdupTest _ => []
  | .psScrub v _ _ _ _ _ => [.small v 64]
  | .wearLevelMove v _ _ => [.small v 64]
  | .programFailure d _ _ => [.small d 128]
  | .eraseFailure d _ => [.small d 128]
  | .mbxSend m c _ => [.master m, .chan c]
  | .mbxPop m c => [.master m, .chan c]
  | .wakeHoldExpiry d => [.domain d]
  | .edgeSourceEvent ix => [.small ix 4096]
  | .levelSourceChange ix _ => [.small ix 4096]
  | .icuClaim m t => [.master m, .small t 4]
  | .icuComplete m t ix => [.master m, .small t 4, .small ix 4096]
  | .icuSrcWrite m ix _ => [.master m, .small ix 4096]
  | .msixCoalesceTimeout f v => [.fn f false, .small v 2048]
  | .msixUnmask f v => [.fn f false, .small v 2048]
  | .domainOnRequest m d _ => [.master m, .domain d]
  | .domainRampEnd d => [.domain d]
  | .domainIsolationRelease d => [.domain d]
  | .headswitchFault d => [.domain d]
  | .rampPauseEnd g => [.small g 96]
  | .capWrite m _ => [.master m]
  | .controlInstant _ => []
  | .shiftReportDue => []
  | .shiftAllocation => []
  | .shiftReplyReceived _ => []
  | .shiftLeaderSilence => []
  | .droopDetect p => [.plate p]
  | .droopRecovery p => [.plate p]
  | .brakeAssert => []
  | .brakeRelease => []
  | .thermalSample _ => []
  | .supplyTrip _ _ _ => []
  | .burrReport p b _ => [.plate p, .small b 35]
  | .replan _ => []
  | .captureSample u _ => [.small u 64]
  | .captureClear m u _ _ => [.master m, .small u 64]
  | .eventQueueDrain => []
  | .logHeadWrite m f _ => [.master m, .small f 2001]
  | .logRingEnable m f _ => [.master m, .small f 2001]
  | .alarmPop m => [.master m]
  | .pgInRise _ => []
  | .resetNRelease => []
  | .topResetCold m => [.master m]
  | .topResetWarm m => [.master m]
  | .watchdogExpiry => []
  | .bootImageVerified _ _ _ _ => []
  | .bootReady _ _ _ => []
  | .stage m _ => [.master m]
  | .commit m _ => [.master m]
  | .raiseSvn m => [.master m]
  | .mgmtRead off _ => [.small off 65536]
  | .tapBypass _ => []
  | .tapIdcode => []
  | .tapSamplePreload _ _ _ => []
  | .tapExtest => []
  | .registerRead m t _ => [.master m, .target t]
  | .hostSnoop _ => []
  | .configurationRequest f _ => [.fn f true]
  | .shiftReportReceived node _ _ _ _ _ _ => [.node node]
  | .vinInRange => []

/-- Whether every operand of a command lies in its range. -/
def Instr.wf (i : Instr) : Bool := i.args.all Arg.ok

end Sys2Proof
end

