-- ==== Sys2Proof/Tests/Slice0.lean ====
section
/-! SUPPORT. Small tests and the witnesses of the statements' hypotheses: each is about one step on a small state. -/

namespace Sys2Proof.Tests

open Sys2Proof Sys2Proof.Machine

set_option Elab.async false

/-- A state built from reset by setting register fields. -/
def withFields (l : List (Nat × Fld × Nat)) (s : State := State.reset) : State := l.foldl (fun t e => t.wf e.1 e.2.1 e.2.2) s

/-- The domains given switched On. -/
def withOn (ds : List Nat) (s : State := State.reset) : State := withFields (ds.map fun d => (Reg.pwrDomain d, F.pwrDomain_state, 2)) s

/-- Every HBM domain and the host interface On, the host's link up, booted. -/
def hostUp : State :=
  withFields [(Reg.hifPortStatus 0, F.hifPortStatus_up0, 1), (Reg.topBootStatus, F.topBootStatus_ready, 1)]
    (withOn [84, 85, 86, 87, 88, 89, 90, 91, 92, 93, 94, 95, 80, 81, 82, 83])

/-- Whether a command answers a next state with a property. -/
def gives (c : Instr) (s : State) (p : State → Bool) : Bool := match exec c s with | .next t => p t | _ => false

/-! ### The queue and the whole machine -/

theorem test_stepRuns : (match step { State.reset with pending := [.hostSnoop 3, .pollWindow], hif.shared := [3, 4] } with
    | .next t => decide (t.pending = [.pollWindow] ∧ t.hif.shared = [4] ∧ t.clk = 0)
    | _ => false) = true := by decide +kernel

theorem test_idle : State.reset.pending = [] ∧
    (match step State.reset with | .next t => decide (t.clk = 1 ∧ t.pending = []) | _ => false) = true := by decide +kernel

/-- The identity register of the module as the identity table gives it: device 9, 64 plates, grade 1, revision 2. -/
theorem test_topId : State.reset.rd Reg.topId = 0x09400120#64 := by decide +kernel

theorem test_reset : State.reset.canonical = true ∧ State.reset.rf (Reg.vfmFnCtrl 0) F.vfmFnCtrl_en = 1 ∧ State.reset.rf (Reg.vfmFnCtrl 1) F.vfmFnCtrl_en = 0 ∧
    State.reset.rf Reg.pwrCap F.pwrCap_cap = 1000 ∧ State.reset.rd (Reg.pwrPref 512) = -1 ∧ State.reset.rd (Reg.pwrTherm 0) = 0 := by decide +kernel

/-- The registers that share an offset in the power block's tables have homes of their own (log 56). -/
theorem test_powerHomes : Reg.pwrPref 511 = 0xD004FF8 ∧ Reg.pwrPref 512 ≠ Reg.pwrTherm 0 ∧ Reg.pwrPref 640 ≠ Reg.pwrThermLim 0 ∧
    (State.reset.wr (Reg.pwrPref 512) 5).rd (Reg.pwrTherm 0) = 0 := by decide +kernel

/-- No row of the table has bits, so no word spells a command. -/
theorem test_noWords : decodeTableWord 64 0 = none ∧ (State.reset.withFetchWord 64 7).pending = [] := by decide +kernel

/-! ### Registers and memory by address -/

/-- R8: a plain register takes the written value. -/
theorem test_registerWrite : (hostUp.check 0x800 (regBase + Reg.hifWinBase)).isNone ∧ Reg.hifWinBase ∈ plainRegs ∧
    gives (.registerWrite 0x800 (.dpa (regBase + Reg.hifWinBase)) 0x40) hostUp
      (fun t => t.rf Reg.hifWinBase F.hifWinBase_base = 0x40 / 2 ^ F.hifWinBase_base.lo) = true := by decide +kernel

theorem test_registerRead : (hostUp.check 0x800 (regBase + Reg.monCtrl)).isNone ∧ Reg.monCtrl ∈ plainRegs ∧
    gives (.registerRead 0x800 (.dpa (regBase + Reg.monCtrl)) 8) hostUp
      (fun t => t.out = [⟨.resp, [0x800, regBase + Reg.monCtrl, 0], none, leBytes 8 (hostUp.rd Reg.monCtrl).toNat⟩]) = true := by
  decide +kernel

theorem test_partialWrite : (hostUp.check 0x800 (regBase + Reg.monCtrl)).isNone ∧ hostUp.pd 94 = 2 ∧
    gives (.partialWrite 0x800 (.dpa (regBase + Reg.monCtrl)) 4) hostUp
      (fun t => (t.mon.evQ.map fun e => (e.code, e.cls, e.arg1)) = [(1, .warning, regBase + Reg.monCtrl)]) = true := by
  decide +kernel

theorem test_blockLock : (hostUp.check 0x800 (regBase + Reg.monCtrl)).isNone ∧ lockBit 14 = some (Reg.monCtrl, F.monCtrl_lock) ∧
    gives (.blockLock 0x800 14) hostUp (fun t => t.on Reg.monCtrl F.monCtrl_lock) = true := by decide +kernel

/-! ### Memory -/

/-- HBM with three bytes in it. -/
def hbm3 : State := { hostUp with mem := [(0x100, 7), (0x101, 8), (0x108, 9)] }

theorem test_memoryRequest_read : hbm3.dpaCheck 0 0x100 2 false = none ∧ hbm3.biased 0x100 2 = false ∧
    gives (.memoryRequest 0 .read .swap 0x100 2 [] {}) hbm3 (fun t => t.out = [⟨.resp, [0, 0x100, 0], none, [7, 8]⟩]) = true := by
  decide +kernel

theorem test_memoryRequest_write : hbm3.dpaCheck 0 0x101 2 true = none ∧ hbm3.leads = false ∧ hbm3.follows = false ∧
    hbm3.cpf.halted = false ∧
    gives (.memoryRequest 0 .write .swap 0x101 0 [1, 0] {}) hbm3 (fun t => t.mem = [(0x100, 7), (0x101, 1), (0x108, 9)]) = true := by
  decide +kernel

theorem test_memoryRequest_atomic : hbm3.dpaCheck 0 0x100 8 true = none ∧
    gives (.memoryRequest 0 .atomic .fetchAdd 0x100 8 [1] {}) hbm3 (fun t =>
      t.mem = [(0x100, 8), (0x101, 8), (0x108, 9)] ∧ t.out = [⟨.resp, [0, 0x100, 0], none, [7, 8, 0, 0, 0, 0, 0, 0]⟩]) = true := by
  decide +kernel

/-- The PF's log 0 at DPA 0x10000. -/
def logged : State := withFields [(Reg.vfmDlogBase 0 0, F.vfmDlogBase_en, 1), (Reg.vfmDlogBase 0 0, F.vfmDlogBase_base, 16)] hbm3

theorem test_dirtyLog : logged.on (Reg.vfmDlogBase 0 0) F.vfmDlogBase_en = true ∧ 1 ∈ pagesOf 0x1FFFF 1 ∧
    (logged.store 0x1FFFF [5]).byte (logged.dlogBuf 0 0) = 2 := by decide +kernel

/-- No dirty log is enabled at reset. -/
theorem test_noDirtyLog : NoDirtyLog hostUp := by
  have h : ∀ f, f < 1025 → ∀ l, l < 2 → hostUp.on (Reg.vfmDlogBase f l) F.vfmDlogBase_en = false := by decide +kernel
  exact fun f l hf hl => h f (by omega) l hl

/-! ### The host's window -/

theorem test_hostBar2Write : winIs .pf = true ∧ hbm3.linkUp 0 0 = true ∧ hbm3.ready = true ∧ (hbm3.pci 0).d3hot = false ∧
    hbm3.leads = false ∧ hbm3.follows = false ∧ hbm3.cpf.halted = false ∧
    hbm3.winCheck .pf 0x100 3 true = none ∧ hbm3.winWaits 0x100 3 = false ∧
    gives (.hostBar2Write .pf 0x100 [1, 2, 3] [true, false, true]) hbm3
      (fun t => t.mem = [(0x100, 1), (0x101, 8), (0x102, 3), (0x108, 9)] ∧ t.out = []) = true := by decide +kernel

theorem test_hostBar2Read : hbm3.winCheck .pf 0x100 2 false = none ∧
    gives (.hostBar2Read .pf 0x100 2) hbm3 (fun t => t.out = [⟨.tlpCpl, [0, 0, 0], none, [7, 8]⟩]) = true := by decide +kernel

theorem test_hostAtomicop : hbm3.winCheck .pf 0x100 4 true = none ∧ hbm3.winWaits 0x100 4 = false ∧ hbm3.cpfRuns = false ∧
    gives (.hostAtomicop .pf (.cas 0x0807) 0x100 4 5) hbm3 (fun t => t.mem = [(0x100, 5), (0x108, 9)] ∧
      t.out = [⟨.tlpCpl, [0, 0, 0], none, [7, 8, 0, 0]⟩]) = true := by decide +kernel

/-- Port 2's first half up, the serial number 5. -/
def port2 : State := { withFields [(Reg.hifPortStatus 2, F.hifPortStatus_up0, 1)] hostUp with top.serial := 5 }

theorem test_portFunctionBar0Read : port2.linkUp 2 0 = true ∧ port2.ready = true ∧ (port2.pci (portFn 2 0)).d3hot = false ∧
    gives (.portFunctionBar0Read 2 0 16 2) port2 (fun t => t.out = [⟨.tlpCpl, [2, 0, 0], none, [5, 0]⟩]) = true := by decide +kernel

/-- Port 0's link speaks CXL. -/
def cxl0 : State := withFields [(Reg.hifPortStatus 0, F.hifPortStatus_cxl, 1)] hbm3

theorem test_cxlMemAccess_read : cxl0.cxlUp = true ∧ cxl0.hbmOn = true ∧ cxl0.flipping 0 = false ∧ cxl0.cpfRuns = false ∧
    gives (.cxlMemAccess false 0x100 []) cxl0 (fun t => t.hif.hostBias = [0] ∧
      t.rf Reg.hifBiasStatus F.hifBiasStatus_auto_flips = 1) = true := by decide +kernel

theorem test_cxlMemAccess_write : ({ cxl0 with hif.hostBias := [0] } : State).hif.hostBias.contains (64 * 4 / pageSize) = true ∧
    gives (.cxlMemAccess true 0x100 (1 :: List.replicate 63 0)) { cxl0 with mem := [], hif.hostBias := [0] }
      (fun t => t.mem = [(0x100, 1)]) = true := by decide +kernel

theorem test_hostSnoop : gives (.hostSnoop 6) { cxl0 with hif.shared := [4, 6] } (fun t => t.hif.shared = [4]) = true := by
  decide +kernel

/-! ### Attach links -/

/-- Port 1 On and enabled, stage 4. -/
def port1 : State := withFields [(Reg.topBootStatus, F.topBootStatus_stage, 4), (Reg.hifPortCfg 1, F.hifPortCfg_link_en, 1)] hostUp
/-- The same with its link up. -/
def port1Up : State := withFields [(Reg.hifPortStatus 1, F.hifPortStatus_up0, 1), (Reg.hifPortStatus 1, F.hifPortStatus_width0, 16)] port1

theorem test_linkHalfUp : port1.linkUp 1 0 = false ∧ 1 ∉ port1.top.perst ∧ port1.top.stopped = false ∧ port1.pd 81 = 2 ∧
    port1.on (Reg.hifPortCfg 1) F.hifPortCfg_link_en = true ∧
    gives (.linkHalfUp 1 0 32 9 true) port1 (fun t => t.linkUp 1 0 ∧ t.rf (Reg.hifPortStatus 1) F.hifPortStatus_width0 = 16 ∧
      t.rf (Reg.hifPortStatus 1) F.hifPortStatus_rate0 = 6) = true := by decide +kernel

theorem test_linkHalfDown : port1Up.linkUp 1 0 = true ∧ NoTraffic port1Up ∧
    gives (.linkHalfDown 1 0) port1Up (fun t => !t.linkUp 1 0 && t.on (Reg.hifPortStatus 1) F.hifPortStatus_down0) = true := by
  unfold NoTraffic
  decide +kernel

theorem test_linkEnWrite : port1Up.top.hifLock = false ∧ (port1Up.check 0 (regBase + Reg.hifPortCfg 1)).isNone ∧ fld 1#64 F.hifPortCfg_link_en.hi F.hifPortCfg_link_en.lo = 1 ∧
    gives (.linkEnWrite 0 1 0xFFFFFFFF) port1Up (fun t => t.on (Reg.hifPortCfg 1) F.hifPortCfg_link_en ∧
      t.rf (Reg.hifPortCfg 1) F.hifPortCfg_cxl_en = 0) = true ∧
    gives (.linkEnWrite 0 1 0) port1Up (fun t => !t.linkUp 1 0) = true := by decide +kernel

theorem test_perstN : gives (.perstN 1 true) port1Up (fun t => !t.linkUp 1 0 && t.top.perst == [1]) = true := by decide +kernel

theorem test_biasCmdGo : (hostUp.check 0 (regBase + Reg.hifBiasCmd)).isNone ∧
    gives (.biasCmdGo 0 0x8000000000000005) hostUp (fun t => t.hif.flip = some (5, 1, false) ∧ t.on Reg.hifBiasStatus F.hifBiasStatus_busy) =
      true := by decide +kernel

theorem test_biasFlipEnd : gives .biasFlipEnd { hostUp with hif.flip := some (5, 2, false), hif.hostBias := [9] }
    (fun t => t.hif.hostBias = [5, 6, 9]) = true := by decide +kernel

theorem test_flushReadCompletion : gives (.flushReadCompletion 3 true 0) { hostUp with hif.flushes := [⟨3, 1, 0, 0, .notice 5 6⟩] }
    (fun t => t.hif.flushes = []) = true := by decide +kernel

/-- The PF probes port 0. -/
def probing : State := { hostUp with hif.probes := [Probe.mk 0 [(0, 0)]] }

theorem test_peerProbeComplete : probing.freeIndex = some 0 ∧
    gives (.peerProbeComplete 0 true 77) probing (fun t => t.hif.peers = [Peer.mk 0 0 77 true] ∧ t.qpe.regions.length = 1) = true ∧
    gives (.peerProbeComplete 0 false 77) probing (fun t => t.rf (Reg.qpeCmd 0) F.qpeCmd_status = 0x0C ∧ t.hif.probes = []) = true := by
  decide +kernel

theorem test_peerReadFailure : gives (.peerReadFailure 2 0 9 1 2) { hostUp with hif.peers := [Peer.mk 2 0 9 true] }
    (fun t => t.hif.peers = [Peer.mk 2 0 9 false]) = true := by decide +kernel

/-! ### Translation -/

/-- An entry of VF 0's (the PF's) device space cached, its root at 0x20000. -/
def xltS : State := { withFields [(Reg.xltFnRoot 0, F.xltFnRoot_root, 0x20)] hostUp with
  xlt.cache := [⟨0, 0, 0, 16, 5, 0x50000, true, true⟩, ⟨0, 1, 0, 12, 5, 0x5000, true, true⟩] }

theorem test_xltDevEnWrite : (xltS.check 0 (regBase + Reg.xltFnCfg 0)).isNone ∧ xltS.on (Reg.xltFnCfg 0) F.xltFnCfg_dev_en = false ∧
    gives (.xltDevEnWrite 0 0 1) xltS (fun t => (t.xlt.cache.map fun e => e.space) = [1] ∧ t.rootOf 0 = 0x20000 ∧
      t.on (Reg.xltFnCfg 0) F.xltFnCfg_dev_en) = true := by decide +kernel

theorem test_xltInvGo : (xltS.check 0 (regBase + Reg.xltInvCmd 0)).isNone ∧ xltS.on (Reg.xltInvStatus 0) F.xltInvStatus_busy = false ∧
    gives (.xltInvGo 0 0 (BitVec.ofNat 64 (2 ^ 63 + 5 * 2 ^ 16))) xltS (fun t => (t.xlt.cache.map fun e => e.space) = [1] ∧
      t.xlt.drains = [⟨0, 0, 0x50000, 0x60000, none⟩] ∧ t.on (Reg.xltInvStatus 0) F.xltInvStatus_busy) = true := by decide +kernel

theorem test_xltInvDrainEnd : gives (.xltInvDrainEnd 0) (withFields [(Reg.xltInvStatus 0, F.xltInvStatus_busy, 1)]
    { hostUp with xlt.drains := [⟨0, 0, 0, 1, none⟩] }) (fun t => t.xlt.drains = [] ∧ t.on (Reg.xltInvStatus 0) F.xltInvStatus_done ∧
      !t.on (Reg.xltInvStatus 0) F.xltInvStatus_busy) = true := by decide +kernel

/-- A walk of the PF at level 3, its table at 0x30000 with a readable leaf to 0x50000 in entry 2. -/
def walking : State := { hostUp with mem := [(0x30010, 5), (0x30012, 5)], xlt.walks := [(7, ⟨0, 0x20000, .read, 3, 0x30000, 0, 0, false⟩)] }

theorem test_tableWalkReadDone : pteOf 0 hbmEnd 3 (walking.ldN (pteAddr 0x30000 3 0x20000) 8) = .leaf 0x50000 16 true false ∧
    walking.biased (pteAddr 0x30000 3 0x20000) 8 = false ∧ (walking.part 0).2 = hbmEnd ∧
    gives (.tableWalkReadDone 7 0 0 .read 0 0 []) walking (fun t => t.xlt.cache = [⟨0, 0, 0, 16, 2, 0x50000, true, false⟩] ∧
      t.xlt.walks = []) = true := by decide +kernel

/-- The same walk a level higher, the entry a pointer. -/
def walking2 : State := { hostUp with mem := [(0x30000, 1), (0x30002, 5)], xlt.walks := [(7, ⟨0, 0x20000, .read, 2, 0x30000, 0, 0, false⟩)] }

theorem test_tableWalkReadDone_ptr : pteOf 0 hbmEnd 2 (walking2.ldN (pteAddr 0x30000 2 0x20000) 8) = .ptr 0x50000 ∧
    gives (.tableWalkReadDone 7 0 0 .read 0 0 []) walking2 (fun t => (mget t.xlt.walks 7).map (·.table) = some 0x50000) = true := by
  decide +kernel

/-- A read request of the PF's host space in miss slot 3. -/
def asking : State := { hostUp with xlt.ats := [(3, { fn := 0, space := 1, addr := 0x7123, acc := .read, ring := false, stream := 0, snum := 0 })] }

theorem test_atsTranslationCompletion : gives (.atsTranslationCompletion 3 true 12 0x9000 true false) asking (fun t =>
      t.xlt.cache = [⟨0, 1, 0, 12, 7, 0x9000, true, false⟩] ∧ t.xlt.ats = []) = true ∧
    gives (.atsTranslationCompletion 3 true 12 0x9000 false true) asking (fun t => (t.xlt.denied.map (·.2)) = [5]) = true := by decide +kernel

/-- The same after a Page Request. -/
def paging : State := { hostUp with xlt.ats := [(3, { fn := 0, space := 1, addr := 0x7123, acc := .read, ring := true, stream := 0, snum := 0, pri := true })] }

theorem test_pageRequestResponse : paging.cpfRuns = false ∧ paging.cpf.halted = false ∧
    gives (.pageRequestResponse 3 true) paging (fun t => (t.out.map fun o => (o.kind, o.dst)) = [(.atsReq, [0, 1, 0x7123, 0])]) = true ∧
    gives (.pageRequestResponse 3 false) paging (fun t => (t.xlt.denied.map (·.2)) = [6]) = true := by decide +kernel

theorem test_atsInvalidateRequest : gives (.atsInvalidateRequest 0 1 0x5000 0x6000 9) xltS
    (fun t => (t.xlt.cache.map fun e => e.space) = [0] ∧ t.xlt.drains = [⟨0, 1, 0x5000, 0x6000, some 9⟩]) = true := by decide +kernel

theorem test_atsInvalidationComplete : gives (.atsInvalidationComplete 0 9) { hostUp with xlt.drains := [⟨0, 1, 0x5000, 0x6000, some 9⟩] }
    (fun t => (t.out.map fun o => (o.kind, o.dst)) = [(.invCpl, [0, 9])] ∧ t.xlt.drains = []) = true := by decide +kernel

/-! ### Tenancy -/

/-- VF 1 owns the second 64 MiB. -/
def vf1 : State := withFields [(Reg.vfmFnPart 1, F.vfmFnPart_base, 1), (Reg.vfmFnPart 1, F.vfmFnPart_size, 1)] hostUp

theorem test_vfmGrantWrite : (vf1.check 0 (regBase + Reg.vfmFnPart 2)).isNone ∧ vf1.fnEn 2 = false ∧
    vf1.partFits 2 (softWrite false (vf1.rd (Reg.vfmFnPart 2)) (vf1.rd (Reg.vfmFnPart 1) + 1) [F.vfmFnPart_size, F.vfmFnPart_base]) = true ∧
    gives (.vfmGrantWrite 0 (Reg.vfmFnPart 2) (vf1.rd (Reg.vfmFnPart 1) + 1)) vf1 (fun t => t.part 2 = (0x8000000, 0xC000000)) = true ∧
    gives (.vfmGrantWrite 0 (Reg.vfmFnPart 2) (vf1.rd (Reg.vfmFnPart 1))) vf1 (fun t => t.part 2 = (0, 0) ∧
      t.on (Reg.vfmFnCtrl 0) F.vfmFnCtrl_err) = true := by decide +kernel

theorem test_plateOwnerWrite : (hostUp.check 0 (regBase + Reg.vfmPlateOwner 3)).isNone ∧ hostUp.lost 3 = false ∧ 3 < hostUp.grade.plates ∧
    gives (.plateOwnerWrite 0 3 1) hostUp (fun t => t.plateOwner 3 = 1) = true := by decide +kernel

theorem test_partsApart : ∀ f, f = 1 ∨ f = 2 ∨ f = 1024 → (vf1.part f).2 ≤ hbmEnd := by
  rintro f (rfl | rfl | rfl) <;> decide +kernel

theorem test_fnEnWrite : (vf1.check 0 (regBase + Reg.vfmFnCtrl 1)).isNone ∧ vf1.on (Reg.vfmFnCtrl 1) F.vfmFnCtrl_scrub_busy = false ∧
    gives (.fnEnWrite 0 1 true) vf1 (fun t => t.fnEn 1) = true := by decide +kernel

theorem test_scrub : (vf1.check 0 (regBase + Reg.vfmFnCtrl 1)).isNone ∧ vf1.fnEn 1 = false ∧
    gives (.scrub 0 1) vf1 (fun t => t.on (Reg.vfmFnCtrl 1) F.vfmFnCtrl_scrub_busy) = true := by decide +kernel

/-- VF 1 with one of the PF's 64 KiB pages for its partition register's lowest unit, being scrubbed; nothing logged. -/
def scrubbing : State := withFields [(Reg.vfmFnCtrl 1, F.vfmFnCtrl_scrub_busy, 1)] { State.reset with mem := [(0x10, 4)] }

theorem test_scrubDone : scrubbing.on (Reg.vfmFnCtrl 1) F.vfmFnCtrl_scrub_busy = true ∧
    gives (.scrubDone 1) scrubbing (fun t => !t.on (Reg.vfmFnCtrl 1) F.vfmFnCtrl_scrub_busy && t.mem == [(0x10, 4)]) = true := by
  decide +kernel

theorem test_mtrClr : gives (.mtrClr 0 1) (withFields [(Reg.vfmMeter 1 5, F.vfmMeter_count, 9)] vf1) (fun t => t.rd (Reg.vfmMeter 1 5) = 0) =
    true := by decide +kernel

theorem test_dlogBaseWrite : (vf1.check 0 (regBase + Reg.vfmDlogBase 1 1)).isNone ∧ vf1.outsideVfs 0 (vf1.dlogLen 1) = true ∧
    vf1.outsideVfs 4096 (vf1.dlogLen 1) = true ∧
    gives (.dlogBaseWrite 0 1 1 0x8000000000000000) vf1 (fun t => t.on (Reg.vfmDlogBase 1 1) F.vfmDlogBase_en ∧ t.dlogBuf 1 1 = 0) = true := by
  decide +kernel

theorem test_dlogHarvestGo : (logged.check 0 (regBase + Reg.vfmDlogCmd 0)).isNone ∧ mget logged.prf.jobs 0 = none ∧
    gives (.dlogHarvestGo 0 0 0x8000000000000000) logged (fun t => t.on (Reg.vfmDlogCmd 0) F.vfmDlogCmd_go ∧
      t.rf (Reg.vfmDlogCmd 0) F.vfmDlogCmd_active0 = 1) = true := by decide +kernel

theorem test_dlogHarvestDone : gives (.dlogHarvestDone 0) (withFields [(Reg.vfmDlogCmd 0, F.vfmDlogCmd_go, 1)] logged)
    (fun t => !t.on (Reg.vfmDlogCmd 0) F.vfmDlogCmd_go && t.on (Reg.vfmDlogCmd 0) F.vfmDlogCmd_done) = true := by decide +kernel

/-- VF 1 owns a WQ and nothing else. -/
def vf1Wq : State := { vf1 with wqe.wqs := [(4, { owner := 1, base := 0, logSize := 4, space := 0, cls := 0, port := 0, weight := 1, burst := 1, interval := 1, cqn := 0, credit := 1, st := .enabled })] }

set_option maxRecDepth 100000 in
theorem test_functionLevelReset : 1 ∉ vf1Wq.top.flr ∧ (∀ p, p < 64 → vf1Wq.plateOwner p ≠ 1) ∧
    gives (.functionLevelReset 1) vf1Wq (fun t => t.top.flr = [1] ∧ (t.wqe.wqs.map fun e => e.2.st) = [.disabled] ∧
      t.on (Reg.vfmFnCtrl 1) F.vfmFnCtrl_flr_busy) = true := by decide +kernel

theorem test_flrComplete : ({ vf1 with top.flr := [1] } : State).flrDrained 1 = true ∧
    gives (.flrComplete 1) { vf1 with top.flr := [1] } (fun t => t.top.flr = []) = true := by decide +kernel

/-! ### Work queues -/

/-- A work queue of the PF in its direct space. -/
def wq0 : Wq := { owner := 0, base := 0x1000, logSize := 4, space := 3, cls := 0, port := 0, weight := 1, burst := 1, interval := 1, cqn := 5, credit := 1 }
/-- The same, enabled. -/
def wqOn : Wq := { wq0 with st := .enabled }
/-- A completion queue of the PF in its direct space. -/
def cq0 : Cq := { owner := 0, base := 0x2000, logSize := 4, space := 3, headSpace := 3, headAddr := 0x3000, vector := 0 }
/-- A PF with one work queue and one completion queue. -/
def queues (q : Wq) : State := { hostUp with wqe.wqs := [(2, q)], wqe.cqs := [(5, cq0)] }
/-- Arguments for a work queue or a completion queue of 16 entries. -/
def argWord : Word := BitVec.ofNat 64 (4 + 3 * 2 ^ 4 + 1 * 2 ^ 11 + 1 * 2 ^ 19 + 1 * 2 ^ 26 + 5 * 2 ^ 42)

theorem test_createWq : (queues wq0).mapped (regBase + Reg.wqeCmd 0) = true ∧ ringAligned 0x4000 (64 * 2 ^ 4) = true ∧
    ((queues wq0).wr (Reg.wqeArg 0 1) argWord).wqUse 0 < ((queues wq0).wr (Reg.wqeArg 0 1) argWord).quota 0 F.vfmFnQuota_wq 16 65536 ∧
    gives (.createWq 0) (((queues wq0).wr (Reg.wqeArg 0 1) argWord).wr (Reg.wqeArg 0 0) 0x4000) (fun t =>
      (mget t.wqe.wqs 0).map (fun q => (q.owner, q.base, q.st)) = some (0, 0x4000, .disabled) ∧
      t.rf (Reg.wqeCmd 0) F.wqeCmd_status = 0 ∧ !t.on (Reg.wqeCmd 0) F.wqeCmd_go) = true := by decide +kernel

theorem test_modifyWq : (queues wq0).on (Reg.wqeCmd 0) F.wqeCmd_go = false ∧
    gives (.modifyWq 0 2) ((queues wq0).wr (Reg.wqeArg 0 1) (argWord + 2048)) (fun t => (mget t.wqe.wqs 2).map (·.weight) = some 2 ∧
      t.rf (Reg.wqeCmd 0) F.wqeCmd_status = 0) = true := by decide +kernel

theorem test_enableWq : gives (.enableWq 0 2) (queues wq0) (fun t => (mget t.wqe.wqs 2).map (·.st) = some .enabled ∧
      t.rf (Reg.wqeCmd 0) F.wqeCmd_status = 0) = true ∧
    gives (.enableWq 1 2) { queues wq0 with grade := .a64 } (fun t => t.rf (Reg.wqeCmd 1) F.wqeCmd_status = 0x25) = true := by decide +kernel

theorem test_disableWq : gives (.disableWq 0 2) { queues wqOn with wqe.due := [2] } (fun t => (mget t.wqe.wqs 2).map (·.st) = some .disabled ∧
    t.wqe.due = [] ∧ t.rf (Reg.wqeCmd 0) F.wqeCmd_status = 0 ∧ !t.on (Reg.wqeCmd 0) F.wqeCmd_go) = true := by decide +kernel

theorem test_destroyWq : gives (.destroyWq 0 2) (queues wq0) (fun t => t.wqe.wqs = [] ∧ t.rf (Reg.wqeCmd 0) F.wqeCmd_status = 0) = true := by
  decide +kernel

theorem test_queryWq : gives (.queryWq 0 2) (queues { wq0 with completed := 9 }) (fun t => t.wqeArg 0 0 = 0x1000 ∧ t.wqeArg 0 2 = 9) = true := by
  decide +kernel

theorem test_createCq : mayName 0 3 = true ∧ gives (.createCq 0) (((queues wq0).wr (Reg.wqeArg 0 1) argWord).wr (Reg.wqeArg 0 0) 0x4000) (fun t =>
    (mget t.wqe.cqs 0).map (fun q => (q.base, q.st)) = some (0x4000, .normal) ∧ t.rf (Reg.wqeCmd 0) F.wqeCmd_status = 0) = true := by
  decide +kernel

theorem test_destroyCq : gives (.destroyCq 0 5) { hostUp with wqe.cqs := [(5, cq0)] } (fun t => t.wqe.cqs = [] ∧
    t.rf (Reg.wqeCmd 0) F.wqeCmd_status = 0) = true := by decide +kernel

theorem test_queryCq : gives (.queryCq 0 5) { hostUp with wqe.cqs := [(5, { cq0 with produced := 3, head := 1 })] }
    (fun t => t.wqeArg 0 3 = 3 + 2 ^ 32) = true := by decide +kernel

theorem test_resumeCq : gives (.resumeCq 0 5) { hostUp with wqe.cqs := [(5, { cq0 with st := .error, produced := 16 })] }
    (fun t => (mget t.wqe.cqs 5).map (·.st) = some .full ∧ t.rf (Reg.wqeCmd 0) F.wqeCmd_status = 0) = true := by decide +kernel

theorem test_cqHeadReread : gives (.cqHeadReread 5 0 []) { hostUp with mem := [(0x3000, 4)], wqe.cqs := [(5, { cq0 with st := .full, produced := 16 })] }
    (fun t => (mget t.wqe.cqs 5).map (fun c => (c.head, c.st)) = some (4, .normal)) = true := by decide +kernel

theorem test_cqArm : hostUp.mapped (regBase + Reg.wqeCqArm 0) = true ∧
    gives (.cqArm 0 (BitVec.ofNat 64 (5 + 3 * 2 ^ 16 + 2 ^ 48))) { hostUp with wqe.cqs := [(5, { cq0 with produced := 3 })] }
    (fun t => (mget t.wqe.cqs 5).map (fun c => (c.head, c.armed)) = some (3, some 1)) = true := by decide +kernel

theorem test_cqWrite : (queues wq0).biased 0x2000 32 = false ∧ (queues wq0).cpfRuns = false ∧ cq0.isFull = false ∧
    (((queues wq0).cqWrite 5 { info := 6 }).1.byte 0x200C = 6) ∧ ((queues wq0).cqWrite 5 { info := 6 }).1.byte 0x201F = 0x80 := by
  decide +kernel

theorem test_wqPollDue : (queues wqOn).wqRuns wqOn = true ∧
    gives (.wqPollDue 2) (queues wqOn) (fun t => t.wqe.due = [2]) = true ∧
    gives (.wqPollDue 2) { queues wqOn with wqe.due := [2] } (fun t => t.rf (Reg.wqePollStatus 0) F.wqePollStatus_overrun = 1) = true := by
  decide +kernel

theorem test_wqKick : (queues wqOn).mapped (regBase + Reg.wqeWqKick 0) = true ∧
    gives (.wqKick 0 2) (queues wqOn) (fun t => t.wqe.due = [2]) = true := by decide +kernel

/-- One slice of class 0's poll slots, an enabled queue. -/
def polls : State := (queues wqOn).wr Reg.wqePollSlice 1

theorem test_pollWindow : ({ polls with wqe.due := [] } : State).xlRange 0 3 .read true 0 2 (xlFuel 512) 0x1000 512 =
      ({ polls with wqe.due := [] }, .ok [(.dpa 0x1000, 512)]) ∧ polls.classSlots 0 ≠ 0 ∧
    gives .pollWindow { polls with wqe.due := [2] } (fun t => t.wqe.due = [] ∧ (mget t.wqe.wqs 2).map (·.polling) = some true) = true := by
  decide +kernel

theorem test_pollReadCompletion : gives (.pollReadCompletion 2 1 []) (queues { wqOn with polling := true })
      (fun t => (mget t.wqe.wqs 2).map (fun q => (q.st, q.stopReason)) = some (.stopped, 2)) = true ∧
    gives (.pollReadCompletion 2 0 []) { queues { wqOn with polling := true } with mem := [(0x1010, 3), (0x103E, 8), (0x103F, 0x80)], wqe.wqs := [(2, { wqOn with polling := true }), (3, wqOn)] }
      (fun t => (mget t.wqe.wqs 2).map (fun q => (q.idx, q.ents.length)) = some (1, 1)) = true := by decide +kernel

/-- An entry of an opcode whose completion is suppressed; word 2, word 3 as given. -/
def entOf (op w2 w3 : Nat) : Ent := { slot := 0, words := [0, 0, w2, w3 * 2 ^ 32, w3 * 2 ^ 32, 0, 0, op * 2 ^ 48 + 2 ^ 38] }

theorem test_nopEntry : (queues { wqOn with ents := [entOf 0 0 0] }).nextEnt 2 0 = some ({ wqOn with ents := [entOf 0 0 0] }, entOf 0 0 0) ∧
    (entOf 0 0 0).suppress = true ∧
    gives (.nopEntry 2) (queues { wqOn with ents := [entOf 0 0 0] }) (fun t => (mget t.wqe.wqs 2).map (fun q => (q.completed, q.ents)) = some (1, [])) = true := by
  decide +kernel

theorem test_wait : gives (.wait 2) (queues { wqOn with ents := [entOf 8 3 0] })
    (fun t => ((mget t.wqe.wqs 2).map fun q => q.ents.map (·.st)) = some [.started]) = true := by decide +kernel

theorem test_waitSatisfied : gives (.waitSatisfied 2) { queues wqOn with wqe.wqs := [(2, { wqOn with ents := [{ entOf 8 3 0 with st := .started }] }), (3, wq0)] }
    (fun t => (mget t.wqe.wqs 2).map (·.completed) = some 1) = true := by decide +kernel

theorem test_waitTimeout : gives (.waitTimeout 2) { queues { wqOn with cqn := 9, ents := [{ entOf 8 3 1 with st := .started }] } with clk := 1000 }
    (fun t => (mget t.wqe.wqs 2).map (·.flushing) = some true) = true := by decide +kernel

theorem test_fence : gives (.fence 2) (queues { wqOn with ents := [entOf 9 0 0] }) (fun t => (mget t.wqe.wqs 2).map (·.completed) = some 1) = true := by
  decide +kernel

/-- An Active QP of the PF to node 9, reached through port 0. -/
def qpA : Qp := { owner := 0, ncqn := 5, transport := 1, tc := 0, saEn := false, sa := 0, maxOut := 1, rnode := 9, rqpn := 4, st := .active }
/-- A WRITE (1) or READ (2) of 8 bytes at local 0x40 of the PF's direct space on QP 7, its step granted. -/
def moveEnt (op : Nat) : Ent := { slot := 0, words := [0, 0x40, 0x80, 8, 0, 7, 0, op * 2 ^ 48 + 3 * 2 ^ 32] }
/-- The region that a local key of 0 names. -/
def region0 : Region := { owner := some 0, lastOwner := 0, gen := 0, len := 0x1000, space := 3, localW := true, remoteR := true, remoteW := true }
/-- The PF with the entry at the head of its queue, its step granted. -/
def moving (op : Nat) : State := { queues { wqOn with granted := 1, ents := [moveEnt op] } with
  mem := [(0x41, 6)], qpe.qps := [(7, qpA)], qpe.regions := [(0, region0)] }

theorem test_write : (moving 1).nextEnt 2 1 = some ({ wqOn with granted := 1, ents := [moveEnt 1] }, moveEnt 1) ∧
    (moving 1).qpGate 2 { wqOn with granted := 1, ents := [moveEnt 1] } (moveEnt 1) = none ∧ (moving 1).noRoute qpA = false ∧
    (moving 1).stepKeyBad { wqOn with granted := 1, ents := [moveEnt 1] } (moveEnt 1) 0 8 false = false ∧ (moveEnt 1).stepRange = (0, 8) ∧
    (moving 1).xlRange 0 3 .read false 0 2 (xlFuel 8) 0x40 8 = (moving 1, .ok [(.dpa 0x40, 8)]) ∧ qpA.rnode ≠ (moving 1).node ∧
    gives (.write 2 []) (moving 1) (fun t => ((mget t.qpe.qps 7).map fun q => (q.psn, q.txq.map fun p => (p.type, p.argB, p.payload))) =
      some (1, [(1, 0x80, [0, 6, 0, 0, 0, 0, 0, 0])]) ∧ (mget t.wqe.wqs 2).map (·.granted) = some 0) = true := by decide +kernel

theorem test_read : (moving 2).nextEnt 2 2 = some ({ wqOn with granted := 1, ents := [moveEnt 2] }, moveEnt 2) ∧
    (moving 2).stepKeyBad { wqOn with granted := 1, ents := [moveEnt 2] } (moveEnt 2) 0 8 true = false ∧
    (moving 2).xlRange 0 3 .write false 0 2 (xlFuel 8) 0x40 8 = (moving 2, .ok [(.dpa 0x40, 8)]) ∧
    gives (.read 2 []) (moving 2) (fun t => ((mget t.qpe.qps 7).map fun q => (q.psn, q.txq.map fun p => (p.type, p.argB))) =
      some (1, [(3, 0x80 + 7 * 2 ^ 48)]) ∧ t.qpe.trk.length = 1) = true := by decide +kernel

theorem test_schedulerGrant : ({ moving 1 with wqe.wqs := [(2, { wqOn with ents := [moveEnt 1] })] } : State).stepReady 0 { wqOn with ents := [moveEnt 1] } = true ∧
    gives (.schedulerGrant 0) { moving 1 with wqe.wqs := [(2, { wqOn with ents := [moveEnt 1] })] }
      (fun t => (mget t.wqe.wqs 2).map (·.granted) = some 1) = true := by decide +kernel

/-! ### Queue pairs and regions -/

/-- An Idle QP of the PF. -/
def qpI : Qp := { owner := 0, ncqn := 5, transport := 0, tc := 0, saEn := false, sa := 0, maxOut := 1 }
/-- The PF with a completion queue and QP 7. -/
def pairs (q : Qp) : State := { (hostUp.wr (Reg.qpeArg 0 0) 5).wr (Reg.qpeArg 0 1) (BitVec.ofNat 64 (9 + 4 * 2 ^ 16)) with
  wqe.cqs := [(5, cq0)], qpe.qps := [(7, q)] }

theorem test_createQp : (pairs qpI).mapped (regBase + Reg.qpeCmd 0) = true ∧ (pairs qpI).ownsQpn 0 8 = true ∧
    gives (.createQp 0 8) (pairs qpI) (fun t => (mget t.qpe.qps 8).map (·.st) = some .idle ∧ t.rf (Reg.qpeCmd 0) F.qpeCmd_status = 0 ∧
      !t.on (Reg.qpeCmd 0) F.qpeCmd_go) = true := by decide +kernel

theorem test_modifyQp : gives (.modifyQp 0 7) ((pairs { qpI with st := .active }).wr (Reg.qpeArg 0 0) (5 + 2 ^ 18))
    (fun t => (mget t.qpe.qps 7).map (·.tc) = some 1) = true := by decide +kernel

theorem test_armQp : gives (.armQp 0 7) (pairs qpI) (fun t => (mget t.qpe.qps 7).map (fun q => (q.st, q.rnode, q.rqpn, q.ctl.length)) =
      some (.armed, 9, 4, 1) ∧ t.on (Reg.qpeCmd 0) F.qpeCmd_go) = true ∧ (pairs qpI).bindPort 1 = none ∧
    gives (.armQp 0 7) (pairs { qpI with transport := 1 }) (fun t => t.rf (Reg.qpeCmd 0) F.qpeCmd_status = 0x40) = true := by decide +kernel

theorem test_resetQp : (pairs { qpI with st := .active }).qpEnts 7 = [] ∧
    gives (.resetQp 0 7) (pairs { qpI with st := .active }) (fun t => (mget t.qpe.qps 7).map (fun q => (q.st, q.cmd)) = some (.error, some .reset) ∧
      t.on (Reg.qpeCmd 0) F.qpeCmd_go) = true ∧
    gives (.destroyQp 0 7) (pairs { qpI with st := .active }) (fun t => (mget t.qpe.qps 7).map (·.cmd) = some (some .destroy)) = true := by
  decide +kernel

theorem test_qpDrainEnd : gives (.qpDrainEnd 7) (pairs { qpI with st := .error, cmd := some .reset })
      (fun t => mget t.qpe.qps 7 = some qpI ∧ t.rf (Reg.qpeCmd 0) F.qpeCmd_status = 0) = true ∧
    gives (.qpDrainEnd 7) (pairs { qpI with st := .error, cmd := some .destroy })
      (fun t => (mget t.qpe.qps 7).map (fun q => (q.st, q.retireAt)) = some (.retired, some 1000000000)) = true := by decide +kernel

theorem test_queryQp : gives (.queryQp 0 7) (pairs { qpI with st := .active }) (fun t => t.qpeArg 0 1 = 2 * 2 ^ 50 ∧ t.qpeArg 0 0 = 5 + 2 ^ 38) = true := by
  decide +kernel

theorem test_qpRetireExpiry : gives (.qpRetireExpiry 7) { pairs { qpI with st := .retired, retireAt := some 4 } with clk := 4 }
    (fun t => t.qpe.qps = []) = true := by decide +kernel

theorem test_qpOfAnother : gives (.resetQp 0 7) (pairs { qpI with owner := 3, st := .active })
    (fun t => t.rf (Reg.qpeCmd 0) F.qpeCmd_status = 0x30 ∧ (mget t.qpe.qps 7).map (·.st) = some .active) = true := by decide +kernel

/-- Arguments of a region of 4,096 bytes in the PF's direct space, base 0x2000, remote writes allowed. -/
def regArgs : State := (hostUp.wr (Reg.qpeArg 0 0) 0x2000).wr (Reg.qpeArg 0 1) (BitVec.ofNat 64 (0x1000 + 3 * 2 ^ 48 + 2 ^ 52))
/-- A region of the PF. -/
def regionA : Region := { owner := some 0, lastOwner := 0, gen := 255, base := 0x2000, len := 0x1000, space := 3, remoteW := true }
/-- The PF with it at index 3. -/
def regionSt (r : Region) : State := { hostUp with qpe.regions := [(3, r)], qpe.nextIdx := 4 }

theorem test_register : regArgs.regBad 0 = false ∧ regArgs.freeIndex = some 0 ∧
    regArgs.regionUse 0 < regArgs.quota 0 F.vfmFnQuota_reg 4096 (2 ^ 24) ∧ (regArgs.argRegion 0 0 0 0 0).space = 3 ∧
    gives (.register 0) regArgs (fun t => (mget t.qpe.regions 0).map (fun r => (r.base, r.len, r.gen)) = some (0x2000, 0x1000, 1) ∧
      t.qpeArg 0 3 = 1 ∧ t.rf (Reg.qpeCmd 0) F.qpeCmd_status = 0) = true ∧ hostUp.regBad 0 = true ∧
    gives (.register 0) hostUp (fun t => t.rf (Reg.qpeCmd 0) F.qpeCmd_status = 0x32) = true := by decide +kernel

theorem test_deregister : (regionSt regionA).ownRegion 0 3 = some regionA ∧
    gives (.deregister 0 3) (regionSt regionA) (fun t => (mget t.qpe.regions 3).map (fun r => (r.gen, r.revoking)) = some (0, some true) ∧
      t.on (Reg.qpeCmd 0) F.qpeCmd_go) = true ∧
    gives (.deregister 0 2) (regionSt regionA) (fun t => t.rf (Reg.qpeCmd 0) F.qpeCmd_status = 0x30) = true := by decide +kernel

theorem test_queryRegion : gives (.queryRegion 0 3) (regionSt regionA) (fun t => t.qpeArg 0 0 = 0x2000 ∧ t.qpeArg 0 3 = 3 * 256 + 255) = true := by
  decide +kernel

theorem test_revoke : hostUp.mapped (regBase + Reg.qpeRevoke 0) = true ∧
    gives (.revoke 0 (BitVec.ofNat 64 (2 ^ 63 + 3))) (regionSt regionA) (fun t => (mget t.qpe.regions 3).map (fun r => (r.gen, r.revoking)) = some (0, some false) ∧
      t.on (Reg.qpeRevoke 0) F.qpeRevoke_go) = true := by decide +kernel

theorem test_revokeDrainEnd : gives (.revokeDrainEnd 3) ((regionSt { regionA with revoking := some true }).wr (Reg.qpeCmd 0) (BitVec.ofNat 64 (2 ^ 63 + 9 * 2 ^ 32)))
      (fun t => (mget t.qpe.regions 3).map (·.owner) = some none ∧ t.qpe.freed = [3] ∧ !t.on (Reg.qpeCmd 0) F.qpeCmd_go) = true ∧
    gives (.revokeDrainEnd 3) (regionSt { regionA with revoking := some false }) (fun t => t.on (Reg.qpeRevoke 0) F.qpeRevoke_done) = true := by
  decide +kernel

theorem test_refusalAggregationEnd : gives (.refusalAggregationEnd 0) { hostUp with clk := 1000000, mon.aggs := [⟨.revokedWrite, 0, 0, 3, 0, 0, 8, 0⟩] }
    (fun t => t.mon.aggs = [] ∧ (t.mon.evQ.map fun e => (e.code, e.count)) = [(0x501, 8)]) = true := by decide +kernel

/-! ### Packets -/

/-- An Active QP of the PF to QP 4 of node 9, in the clear. -/
def qpR : Qp := { owner := 0, ncqn := 5, transport := 0, tc := 0, saEn := false, sa := 0, maxOut := 1, rnode := 9, rqpn := 4, st := .active }
/-- A packet from that peer, its checksum right. -/
def pktR (type psn a b : Nat) (pay : List Byte) : Packet :=
  pktClear { dstQpn := 7, srcNode := 9, srcQpn := 4, type := type, psn := psn, argA := a, argB := b, payload := pay, plen := pay.length }
/-- The PF with that QP at 7, a region at index 3 and a completion queue. -/
def peer (q : Qp) : State := { hostUp with wqe.cqs := [(5, cq0)], qpe.qps := [(7, q)], qpe.regions := [(3, { regionA with gen := 1, remoteR := true })] }

theorem test_arrives : (peer qpR).packetDrop (pktR 1 0 0x301 0x40 [6, 7]) = none ∧ (pktR 1 0 0x301 0x40 [6, 7]).dstInc = (peer qpR).inc ∧
    (peer qpR).on (Reg.timPolFn 0) F.timShpFn_en = false ∧ (peer qpR).rf Reg.umtCfg F.umtCfg_ack_coal = 8 ∧
    (peer qpR).remoteCheck 7 qpR (pktR 1 0 0x301 0x40 [6, 7]) 0x301 0x40 2 true = (peer qpR, .ok [(.dpa 0x2040, 2)]) := by decide +kernel

theorem test_dataReceived : gives (.dataReceived (pktR 1 0 0x301 0x40 [6, 7]) {} []) (peer qpR) (fun t => t.byte 0x2041 = 7 ∧
      ((mget t.qpe.qps 7).map fun x => (x.epsn, x.ackDue, x.rx.map (·.psn))) = some (1, 1, [0])) = true ∧
    gives (.dataReceived (pktR 1 0 0x401 0x40 [6, 7]) {} []) (peer qpR) (fun t => t.mem = [] ∧
      ((mget t.qpe.qps 7).map fun x => (x.epsn, x.ctl.map fun k => (k.type, k.psn, k.argA))) = some (1, [(5, 1, 5 * 2 ^ 24)])) = true := by
  decide +kernel

theorem test_noticeReceived : (peer qpR).engineQp 7 = false ∧
    gives (.noticeReceived (pktR 2 0 0x55 0 []) {} []) (peer qpR) (fun t => (mget t.wqe.cqs 5).map (·.produced) = some 1 ∧
      ((mget t.qpe.qps 7).map fun x => x.rx.map fun r => (r.psn, r.refused, r.delivered)) = some [(0, 0, true)]) = true := by decide +kernel

theorem test_readReqReceived : gives (.readReqReceived (pktR 3 0 0x301 (0x40 + 2 ^ 48) []) {} []) { peer qpR with mem := [(0x2041, 9)] }
    (fun t => ((mget t.qpe.qps 7).map fun x => x.ctl.map fun k => (k.type, k.payload)) = some [(4, [0, 9])]) = true := by decide +kernel

theorem test_writeVisible : gives (.writeVisible 7 0 []) (peer { qpR with epsn := 1, rx := [⟨0, .data, true, 0, false, {}, true, some 3⟩] })
    (fun t => ((mget t.qpe.qps 7).map fun x => (x.lastCum, x.rx.map (·.visible), x.ctl.map (·.psn))) = some (1, [true], [1])) = true := by decide +kernel

theorem test_ackDelayExpiry : gives (.ackDelayExpiry 7) { peer { qpR with ackSince := some 0, ackDue := 1, epsn := 4 } with clk := 2000 }
    (fun t => ((mget t.qpe.qps 7).map fun x => (x.ackDue, x.ctl.map (·.psn))) = some (0, [4])) = true := by decide +kernel

/-- A started entry of one transaction. -/
def openEnt : Ent := { moveEnt 1 with st := .started, open_ := 2 }
/-- The initiator of a WRITE or READ with one packet outstanding. -/
def sender (q : Qp) : State := { peer q with wqe.wqs := [(2, { wqOn with ents := [openEnt] })], qpe.trk := [⟨0, 7, 2, 0, 0⟩] }

theorem test_ackReceived : gives (.ackReceived (pktR 5 1 0 0 []) {}) (sender { qpR with psn := 1, una := [⟨.data, 0, pktR 1 0 0 0 [8], 2, 0, 0, false, true⟩] })
    (fun t => t.qpe.trk = [] ∧ ((mget t.wqe.wqs 2).map fun q => q.ents.map fun e => (e.bytes, e.open_)) = some [(1, 1)] ∧
      (mget t.qpe.qps 7).map (·.una) = some []) = true := by decide +kernel

theorem test_readRespReceived : (sender qpR).xlRange 0 3 .write false 0 2 (xlFuel 2) 0x40 2 = (sender qpR, .ok [(.dpa 0x40, 2)]) ∧
    gives (.readRespReceived (pktR 4 3 0 0 [5, 6]) {}) (sender { qpR with reads := [{ psn := 3, wqn := 2, slot := 0, step := 0, off := 0, len := 2, piece := 4096, pkt := {} }] })
    (fun t => t.byte 0x41 = 6 ∧ t.qpe.trk = [] ∧ (mget t.qpe.qps 7).map (·.reads) = some []) = true := by decide +kernel

theorem test_connectReceived : gives (.connectReceived (pktR 8 0 77 0 []) {}) (peer { qpR with st := .armed, cmd := some .arm, ipsn := 6 })
      (fun t => ((mget t.qpe.qps 7).map fun x => (x.st, x.epsn, x.ctl.map fun k => (k.type, k.argA))) = some (.active, 77, [(9, 6)]) ∧
        t.rf (Reg.qpeCmd 0) F.qpeCmd_status = 0) = true ∧
    gives (.acceptReceived (pktR 9 0 77 0 []) {}) (peer { qpR with st := .armed, cmd := some .arm })
      (fun t => ((mget t.qpe.qps 7).map fun x => (x.st, x.epsn)) = some (.active, 77)) = true ∧
    gives (.rejectReceived (pktR 10 0 0x33 0 []) {}) (peer { qpR with st := .armed, cmd := some .arm }) (fun t => t.qpe = (peer { qpR with st := .armed, cmd := some .arm }).qpe) = true := by
  decide +kernel

theorem test_abortReceived : (peer qpR).pd 94 = 2 ∧ gives (.abortReceived (pktR 11 0 6 0 []) {}) (peer qpR)
    (fun t => ((mget t.qpe.qps 7).map fun x => (x.st, x.lastStatus)) = some (.error, 6)) = true := by decide +kernel

theorem test_retransmitTimeout : (peer qpR).rto qpR = 4000 ∧
    gives (.retransmitTimeout 7) { peer { qpR with una := [⟨.data, 0, pktR 1 0 0 0 [8], 2, 0, 0, false, true⟩] } with clk := 4000 }
      (fun t => ((mget t.qpe.qps 7).map fun x => (x.retry, x.txq.map (·.retx))) = some (1, [true])) = true ∧
    gives (.retransmitTimeout 7) { peer { qpR with retry := 7, una := [⟨.data, 0, pktR 1 0 0 0 [8], 0x40000, 0, 0, false, true⟩] } with clk := 4000 }
      (fun t => ((mget t.qpe.qps 7).map fun x => (x.st, x.lastStatus)) = some (.error, 7)) = true := by decide +kernel

theorem test_frameRelease : gives (.frameRelease 7 {}) (peer { qpR with txq := [pktR 1 0 0 0 [8]] }) (fun t =>
    (mget t.qpe.qps 7).map (·.txq) = some [] ∧ t.out.any fun o => decide (o.kind = .amholt)) = true := by decide +kernel

theorem test_umtPortEnClear : hostUp.check 0 (regBase + Reg.umtPort 2) = none ∧ gives (.umtPortEnClear 0 2)
    (withFields [(Reg.umtPort 2, F.umtPort_en, 1)] (peer { qpR with transport := 1, port := some 2 }))
    (fun t => !t.on (Reg.umtPort 2) F.umtPort_en ∧ (mget t.qpe.qps 7).map (·.port) = some none) = true := by decide +kernel

theorem test_ccEventRun : (peer qpR).lineRate 0 = 100000 ∧
    gives (.ccEventRun 7) { peer { qpR with port := some 0 } with qpe.ccq := [(7, [⟨0, 7, 0, 0, 0⟩])] }
      (fun t => (mget t.qpe.qps 7).map (·.cc.rate) = some 100000) = true ∧
    gives (.ccEventRun 7) { peer { qpR with port := some 0, cc := { r := 90000 } } with qpe.ccq := [(7, [⟨2, 7, 0, 0, 0⟩])] }
      (fun t => ((mget t.qpe.qps 7).map fun q => decide (q.cc.rate < 90000 ∧ 0 < q.cc.rate)) = some true) = true := by decide +kernel

theorem test_ccHandlerAbandon : gives (.ccHandlerAbandon 7) { peer qpR with qpe.ccq := [(7, [⟨0, 7, 0, 0, 0⟩])] }
    (fun t => t.rf Reg.umtCcStatus F.umtCcStatus_overrun = 1 ∧ t.ccQueue 7 = []) = true := by decide +kernel

/-- The digest registers name the free values to come, the first of them d too high. -/
def digestOf (s : State) (d : Word) : State :=
  (((((s.wr (Reg.umtCcHash 0) (Config.freeValue 0 + d)).wr (Reg.umtCcHash 1) (Config.freeValue 1)).wr (Reg.umtCcHash 2)
    (Config.freeValue 2)).wr (Reg.umtCcHash 3) (Config.freeValue 3)).wr (Reg.umtCcHash 4) (Config.freeValue 4)).wr (Reg.umtCcHash 5)
    (Config.freeValue 5)

theorem digestOf_ok (s : State) (d : Word) (h : s.qpe.ccBank = []) (hf : s.free = 0) :
    (digestOf s d).ccDigestOk 1 = decide ((Config.freeValue 0 + d).toNat = (Config.freeValue 0).toNat) := by
  have e : (digestOf s d).qpe.ccBank = [] := by simp [digestOf, h]
  have f : (digestOf s d).free = 0 := by simp [digestOf, hf]
  have r : ∀ i, i < 6 → (digestOf s d).rd (Reg.umtCcHash i) = if i = 0 then Config.freeValue 0 + d else Config.freeValue i := by
    intro i hi
    have : i = 0 ∨ i = 1 ∨ i = 2 ∨ i = 3 ∨ i = 4 ∨ i = 5 := by omega
    rcases this with rfl | rfl | rfl | rfl | rfl | rfl <;> simp [digestOf, State.rd_wr, Reg.umtCcHash]
  simp [State.ccDigestOk, e, f, List.range, List.range.loop, r]

theorem test_ccSwap : hostUp.check 0 (regBase + Reg.umtCcCtrl) = none ∧ (digestOf hostUp 0).ccDigestOk 1 = true ∧
    (digestOf hostUp 1).ccDigestOk 1 = false := by
  refine ⟨by decide +kernel, ?_, ?_⟩
  · rw [digestOf_ok _ _ (by decide +kernel) (by decide +kernel)]; simp
  · rw [digestOf_ok _ _ (by decide +kernel) (by decide +kernel)]
    simp only [decide_eq_false_iff_not]
    intro h
    have h : Config.freeValue 0 + 1 = Config.freeValue 0 := BitVec.eq_of_toNat_eq h
    bv_omega

/-! ### Amholt links and the router -/

/-- Every domain of a quad On too; quad 0 an Amholt quad whose link is enabled, in a stage. -/
def fab (st : Nat) : State :=
  withFields [(Reg.macQuad 0, F.macQuad_mode, 2), (Reg.fabPort 0, F.fabPort_en, 1), (Reg.fabPortStatus 0, F.fabPortStatus_lstate, st)] (withOn [68] hostUp)
/-- What node 9 sends on its quad 0 to a partner it has seen or not: the last output of a state of node 9. -/
def lastOut (s : State) : List Byte := (s.out.getLast?.map (·.data)).getD []
/-- Node 9's training cell of a stage. -/
def trainCell (stage : Nat) : List Byte := lastOut (((withFields [(Reg.fabCtrl, F.fabCtrl_node_id, 9)]).setLink 0 { peerSeen := true }).sendTrain 0 stage)
/-- Node 9's control cell, acknowledging up to SEQ 1. -/
def ctlCell : List Byte := lastOut (((withFields [(Reg.fabCtrl, F.fabCtrl_node_id, 9)]).setLink 0 { exp := 1, freed := [0, 0, 0, 0, 0, 0, 3, 0] }).sendCtl 0 false)
/-- Node 9's data cell that opens a packet for node 5 on VC 0. -/
def dataCell : List Byte := lastOut (((withFields [(Reg.fabCtrl, F.fabCtrl_node_id, 9)]).setLink 0 {}).sendCell 0 0 false (pktHdr { dstNode := 5, plen := 200 }))

theorem test_fabPortEnWrite : (fab 0).check 0 (regBase + Reg.fabPort 0) = none ∧ ((fab 0).softW (Reg.fabPort 0) 1).on (Reg.fabPort 0) F.fabPort_en = true ∧
    gives (.fabPortEnWrite 0 0 9) ((fab 0).wf (Reg.fabPort 0) F.fabPort_en 0) (fun t => t.lstate 0 = 1 ∧ (t.link 0).dim = 1) = true := by decide +kernel

theorem test_phyLock : Apart (fab 1) ∧ gives (.phyLock 0) (fab 1) (fun t => t.lstate 0 = 2 ∧ t.out.length = 1) = true ∧
    gives (.phyLockTimeout 0) { fab 1 with clk := 500000000 } (fun t => t.lstate 0 = 0 ∧ (t.link 0).waiting) = true ∧
    gives (.trainingTimeout 0) { fab 2 with clk := 1000000 } (fun t => t.lstate 0 = 0 ∧ (t.link 0).waiting) = true ∧
    gives (.downWaitExpiry 0) { (fab 0).setLink 0 { waiting := true } with clk := 10000000 } (fun t => t.lstate 0 = 1) = true := by
  unfold Apart; decide +kernel

theorem test_trainingCell : cellGood (trainCell 1) = true ∧ nbits (cfld (trainCell 1) 0 4) 31 30 = 3 ∧ cfld (trainCell 1) 30 10 = 0 ∧ (fab 2).partnerBad 0 (trainCell 1) = none ∧
    gives (.trainingCellReceived 0 (trainCell 1)) ((fab 2).setLink 0 { good := 7 }) (fun t => t.lstate 0 = 3 ∧ (t.link 0).peerNode = 9) = true := by
  decide +kernel

theorem test_trainingActive : nbit (cfld (trainCell 2) 0 4) 23 = true ∧ cfld (trainCell 2) 10 2 = (fab 3).node ∧ cfld (trainCell 2) 12 1 % 16 = 0 ∧
    ((fab 3).exchange (trainCell 2) 20).1 ≤ 10000 * 65536 ∧ (fab 3).on Reg.topReset F.topReset_node_ovr_en = false ∧
    gives (.trainingCellReceived 0 (trainCell 2)) (fab 3) (fun t => t.lstate 0 = 4 ∧ t.rf (Reg.fabPortStatus 0) F.fabPortStatus_peer_node = 9) = true := by
  decide +kernel

theorem test_trainingRefused : (withFields [(Reg.fabCtrl, F.fabCtrl_node_id, 9)] (fab 2)).partnerBad 0 (trainCell 1) = some 1 ∧
    gives (.trainingCellReceived 0 (trainCell 1)) (withFields [(Reg.fabCtrl, F.fabCtrl_node_id, 9)] (fab 2)) (fun t => t.lstate 0 = 0 ∧ (t.link 0).waiting) = true := by
  decide +kernel

theorem test_controlCell : (fab 4).fabActive 0 = true ∧ cellGood ctlCell = true ∧ nbits (cfld ctlCell 0 4) 31 30 = 2 ∧ cfld ctlCell 30 10 = 0 ∧
    nbit (cfld ctlCell 0 4) 17 = false ∧ gives (.controlCellReceived 0 ctlCell) ((fab 4).setLink 0 { retry := [[1]] })
      (fun t => (t.link 0).retry = [] ∧ (t.link 0).credit.getD 6 0 = 3) = true ∧
    gives (.ackSeqTimeout 0) { (fab 4).setLink 0 { retry := [[1]] } with clk := 4000 } (fun t => t.out = [⟨.cell, [0], none, [1]⟩]) = true ∧
    gives (.controlCellDue 0) (fab 4) (fun t => t.out.length = 1) = true := by decide +kernel

theorem test_linkFail : gives (.linkFail 0 3) (fab 4) (fun t => t.lstate 0 = 0 ∧ t.rf (Reg.fabPortStatus 0) F.fabPortStatus_down_reason = 3 ∧
      t.fab.faults.length = 1 ∧ t.fab.routeDue) = true ∧ gives (.linkFail 0 3) (fab 2) (fun t => t.lstate 0 = 0) = true := by decide +kernel

theorem test_dataCell : cellGood dataCell = true ∧ nbits (cfld dataCell 0 4) 31 30 = 1 ∧ ((fab 4).link 0).overrun 0 = false ∧
    gives (.dataCellReceived 0 dataCell) (fab 4) (fun t => (t.link 0).exp = 1 ∧ (t.link 0).left = 1 ∧
      ((t.fifo 0).map fun f => (f.hdr.dstNode, f.total)) = [(5, 2)]) = true ∧
    gives (.dataCellReceived 0 (dataCell.set 20 1)) (fab 4) (fun t => (t.link 0).nak ∧ t.rf (Reg.fabPortErr 0) F.fabPortErr_bad_cells = 1) = true := by
  decide +kernel

/-- A packet for node 5, whole, in one cell. -/
def pkt5 (vc : Nat) : FPkt := { hdr := { dstNode := 5, vc := vc }, data := [pktHdr { dstNode := 5, vc := vc }], total := 1 }
/-- Node 5 routed to quad 0. -/
def routed : State := { fab 4 with regs := ((fab 4).wr (Reg.fabRt 0 1) 0x00).regs }

theorem test_packetHeadArrival : (routed.routeOf 1 (pkt5 0).hdr).1 = 0 ∧ (routed.routeOf 1 (pkt5 0).hdr).2.2 = none ∧
    gives (.packetHeadArrival 1) { routed with fab.bufs := [(8, [pkt5 0])] } (fun t => ((t.fifo 8).map fun p => (p.routed, p.out)) = [(true, 0)]) = true ∧
    ((fab 4).routeOf 1 { dstNode := 5, hops := 63 }).2.2 = some 1 ∧
    gives (.packetHeadArrival 1) { fab 4 with fab.bufs := [(8, [{ pkt5 0 with hdr := { dstNode := 5, hops := 63 } }])] }
      (fun t => t.fifo 8 = [] ∧ t.rf (Reg.fabDrop 1) F.fabDrop_count = 1) = true := by decide +kernel

theorem test_outputGrant : ((fab 4).setLink 0 { resMgmt := 20 }).bubble 12 0 7 1 = true ∧
    gives (.outputGrant 0) { (fab 4).setLink 0 { resMgmt := 20 } with fab.bufs := [(103, [{ pkt5 7 with routed := true, out := 0, vc := 7 }])] }
      (fun t => t.fab.bufs = [] ∧ (t.link 0).seq = 1 ∧ (t.out.map (·.kind)) = [.cell]) = true := by decide +kernel

theorem test_vcHeadTimeout : gives (.vcHeadTimeout 1 6) { fab 4 with fab.bufs := [(14, [pkt5 6])], clk := 20000 }
      (fun t => t.fifo 14 = [] ∧ t.rf (Reg.fabDrop 8) F.fabDrop_count = 1) = true ∧ (fab 4).rf Reg.fabCtrl F.fabCtrl_stall_ms = 10 ∧
    gives (.vcStallTimeout 1 0) { fab 4 with fab.bufs := [(8, [pkt5 0])], clk := 10000000 }
      (fun t => t.fab.stalled = [8] ∧ (t.mon.logVol.map (·.code)) = [0x703]) = true := by decide +kernel

theorem test_flip : (fab 4).check 0 (regBase + Reg.fabFlip) = none ∧
    gives (.flipArm 0 (BitVec.ofNat 64 (2 ^ 63 + 1))) ((fab 4).wr Reg.fabFlipTime 9) (fun t => t.on Reg.fabFlip F.fabFlip_arm ∧ t.injState = 0) = true ∧
    gives (.flipArm 0 (BitVec.ofNat 64 (2 ^ 63 + 1))) (withFields [(Reg.fabFlip, F.fabFlip_arm, 1)] (fab 4)) (fun t => t.on Reg.fabFlip F.fabFlip_err) = true ∧
    gives .routeFlip (withFields [(Reg.fabFlip, F.fabFlip_arm, 1), (Reg.fabFlip, F.fabFlip_to, 1)] (fab 4)) (fun t => t.injState = 1 ∧ t.fab.flipAt = some 0) = true ∧
    gives .flipDrainDeadline { fab 4 with fab.flipAt := some 0, time := 100000 } (fun t => t.fab.drained) = true := by decide +kernel

theorem test_faultMap : gives (.faultMapEntryReceived 0 { lost := false, node := 3, dim := 0, dir := 1 }) (fab 4)
      (fun t => t.fab.faults.length = 1 ∧ t.fab.routeDue) = true ∧ (fab 4).fabSize ≠ 0 ∧
    gives .autoRouteWrite { (withFields [(Reg.fabCtrl, F.fabCtrl_auto_route, 1)] ((fab 4).wr Reg.fabGeom 0x0101010101010104)) with
        fab.routeDue := true, fab.faults := [{ lost := false, node := 3, dim := 0, dir := 1, stamp := 7 }] }
      (fun t => t.route 1 0 = (false, 12) ∧ t.on Reg.fabFlip F.fabFlip_arm) = true := by decide +kernel

/-! ### Ethernet ports -/

/-- Quad 0 an Ethernet port, up or not, that takes UMT over IPv4 at 10.0.0.1, its PD On. -/
def eth (up : Nat) : State :=
  withFields [(Reg.macQuad 0, F.macQuad_mode, 1), (Reg.macQuad 0, F.macQuad_up, up), (Reg.umtPort 0, F.umtPort_en, 1), (Reg.umtPort 0, F.umtPort_ip4_en, 1),
    (Reg.umtIp4 0, F.umtIp4_addr, 0x0A000001), (Reg.macAddr 0 0, ⟨63, 63, .rw, 0⟩, 1), (Reg.macAddr 0 0, ⟨47, 0, .rw, 0⟩, 5),
    (Reg.macRawRx 0, F.macRawRx_en, 1), (Reg.macRawTx 0, F.macRawRx_en, 1), (Reg.macRawTx 0, F.macRawRx_base, 16)] (withOn [68] hostUp)

theorem test_macQuadReconfig : (eth 1).check 0 (regBase + Reg.macQuad 0) = none ∧ ((eth 1).softW (Reg.macQuad 0) 0).on (Reg.macQuad 0) F.macQuad_up = true ∧
    gives (.macQuadReconfig 0 0 0) (eth 1) (fun t => !t.on (Reg.macQuad 0) F.macQuad_up ∧ t.rf (Reg.macStat 0 21) F.macStat_count = 1) = true ∧
    gives (.ethLinkChange 0 true) (eth 0) (fun t => t.on (Reg.macQuad 0) F.macQuad_up ∧ t.on (Reg.umtPort 0) F.umtPort_up) = true := by decide +kernel

/-- A frame of 60 bytes to address 5 of type 0x1234. -/
def frame0 : List Byte := [0, 0, 0, 0, 0, 5, 0, 0, 0, 0, 0, 6, 0x12, 0x34] ++ List.replicate 45 0 ++ [7]
/-- A UMT frame for the port, without its FCS. -/
def frameU : List Byte := let b := umtBytes (pktR 1 0 0 0 [8]) [5, 6, 4, 0x0A000002, 0x0A000001, 0xC001, 18975, 0, 0, 0, 0] 0 0 0; b.take (b.length - 4)
/-- With its FCS. -/
def withFcs (f : List Byte) : List Byte := f ++ leBytes 4 (crc32 (nats f))

theorem test_ethFrame : Apart (eth 1) ∧ (eth 1).ethUp 0 = true ∧ (eth 1).macPasses 0 5 = true ∧ (eth 1).isUmt 0 frame0 = none ∧ isPtp frame0 = false ∧
    gives (.ethFrameReceived 0 [1]) (eth 1) (fun t => t.rf (Reg.macStat 0 3) F.macStat_count = 1) = true ∧
    gives (.ethFrameReceived 0 (frame0 ++ [0, 0, 0, 0])) (eth 1) (fun t => t.rf (Reg.macStat 0 2) F.macStat_count = 1) = true ∧
    gives (.ethFrameReceived 0 (withFcs frame0)) (eth 1) (fun t => t.byte 75 = 7 ∧ t.byte 0 = 60 ∧ t.rf (Reg.macRawIdx 0) F.macRawIdx_rx_prod = 1) = true := by
  unfold Apart; decide +kernel

theorem test_umtFrame : (eth 1).rf Reg.umtCfg F.umtCfg_udp_port = 18975 ∧
    gives (.ethFrameReceived 0 (withFcs frameU)) (eth 1) (fun t => (t.out.map fun o => (o.kind, o.pkt.map (·.payload))) = [(.rx, some [8])]) = true := by
  decide +kernel

theorem test_rawRingEnable : (eth 1).check 0 (regBase + Reg.macRawRx 0) = none ∧ (eth 1).check 0 (regBase + Reg.macRawTx 0) = none ∧
    gives (.rawRingEnable 0 0 false (2 ^ 63)) (withFields [(Reg.macRawRx 0, F.macRawRx_en, 0), (Reg.macRawIdx 0, F.macRawIdx_rx_prod, 4)] (eth 1))
      (fun t => t.on (Reg.macRawRx 0) F.macRawRx_en ∧ t.rf (Reg.macRawIdx 0) F.macRawIdx_rx_prod = 0) = true := by decide +kernel

/-- A slot of 64 bytes posted at 0x10000. -/
def posted (up : Nat) : State := { withFields [(Reg.macRawIdx 0, F.macRawIdx_tx_tail, 1)] (eth up) with mem := [(0x10000, 64), (0x10011, 9)] }

theorem test_rawTxSlot : (posted 1).rawWaits 0 = true ∧ (posted 1).rawSlot 0 = 0x10000 ∧ (posted 1).gate 0 0 ((64 + 4 + 20) * (posted 1).psPerByte 0) = some false ∧
    (posted 1).on (Reg.timShpPort 0 0) F.timShpFn_en = false ∧
    gives (.rawTxSlot 0 none) (posted 0) (fun t => t.byte 0x10007 = 3 ∧ t.out = []) = true ∧
    gives (.rawTxSlot 0 none) (posted 1) (fun t => (t.out.map fun o => (o.kind, o.dst, o.data.length, o.data.getD 1 0)) = [(.frame, [0, 1], 68, 9)] ∧ t.byte 0x10007 = 0) = true := by
  decide +kernel

/-- A UMT frame that waits on port 0. -/
def umtWaits : State := { eth 1 with mac.ports := [(0, { umtQ := [(pktR 1 0 0 0 [8], [5, 6, 4, 1, 2, 0xC001, 18975, 0, 0, 0, 0])] })] }

theorem test_txFrameStart : (umtBytes (pktR 1 0 0 0 [8]) [5, 6, 4, 1, 2, 0xC001, 18975, 0, 0, 0, 0] 0 0 0).length = 103 ∧
    (umtWaits.macPort 0).umtQ.length = 1 ∧ (withFields [(Reg.macRawTx 0, F.macRawRx_en, 0)] (eth 1)).rawWaits 0 = false := by decide +kernel

theorem test_txUnderrun : gives (.txUnderrun 0 2) { eth 1 with mac.ports := [(0, { cur := some [1, 2, 3] })] }
    (fun t => (t.out.map fun o => (o.dst, o.data.take 2)) = [([0, 3], [1, 2])] ∧ t.rf (Reg.macQuad 0) F.macQuad_tx_thresh = 6) = true := by decide +kernel

/-! ### The timebase, gates and buckets -/

/-- A root disciplined by PTP, locked or not. -/
def root2 (lock : Nat) : State :=
  withFields [(Reg.timCtrl, F.timCtrl_role, 1), (Reg.timCtrl, F.timCtrl_src, 2), (Reg.timStatus, F.timStatus_lock, lock)] { hostUp with time := 5000, clk := 20000000 }

theorem test_pps : (hostUp.timeRole ≠ (1, 1)) ∧ gives .ppsInEdge (root2 1) (fun t => t.rd Reg.macPpsIn = 5000 ∧ t.rf Reg.macPps F.macPps_in_count = 1) = true ∧
    gives .ppsOutPulse (withFields [(Reg.macPps, F.macPps_out_en, 1)] { hostUp with time := 1000000000 }) (fun t => t.out = [⟨.pin, [0, 1, 10], none, []⟩]) = true := by
  decide +kernel

theorem test_time : (root2 1).check 0 (regBase + Reg.timNow) = none ∧ (root2 1).check 0 (regBase + Reg.timSet) = none ∧ (root2 1).check 0 (regBase + Reg.timRate) = none ∧
    gives (.timNowRead 0) (root2 1) (fun t => (t.out.map (·.data)) = [leBytes 8 5000]) = true ∧
    gives (.timSet 0 77) (withFields [(Reg.timCtrl, F.timCtrl_role, 1)] hostUp) (fun t => t.time = 77 ∧ t.tlock) = true ∧
    gives (.timSet 0 77) (withFields [(Reg.timCtrl, F.timCtrl_role, 2)] hostUp) (fun t => t.time = 0) = true ∧
    gives (.timRateWrite 0 0x7FFFFFFF) hostUp (fun t => t.rf Reg.timRate F.timRate_rate = 2147484) = true := by decide +kernel

theorem test_timeSample : (root2 0).timeRole = (1, 2) ∧
    gives .timeSample { root2 1 with tim.samples := [(-3000 * 65536, 17, true)] } (fun t => t.rf Reg.timStatus F.timStatus_offset = 62536 ∧ t.time = 5000 ∧ t.tim.samples = []) = true ∧
    gives .timeSample { root2 0 with tim.samples := [(3000 * 65536, 17, true)] } (fun t => t.time = 2000) = true ∧ (root2 1).disciplined = true ∧
    gives .holdoverExpiry (root2 1) (fun t => !t.tlock ∧ t.on Reg.timStatus F.timStatus_lock_chg) = true ∧
    gives (.ptpExchange 9) (root2 1) (fun t => t.tim.samples = [(9, 17, true)]) = true := by decide +kernel

theorem test_snapshot : hostUp.check 0 (regBase + Reg.timSnapCtrl) = none ∧
    gives (.snapArm 0 (BitVec.ofNat 64 (2 ^ 63 + 4))) (hostUp.wr Reg.timSnapTime 9) (fun t => t.on Reg.timSnapCtrl F.timSnapCtrl_arm ∧ t.rf Reg.timSnapStatus F.timSnapStatus_seq = 0) = true ∧
    shadowOf (Reg.vfmMeter 0 3) = some (Reg.vfmMeter 0 3 + 0x80) ∧
    gives .snapshotTick (withFields [(Reg.timSnapCtrl, F.timSnapCtrl_arm, 1), (Reg.vfmMeter 0 3, F.vfmMeter_count, 44)] hostUp)
      (fun t => t.rd (Reg.vfmMeter 0 3 + 0x80) = 44 ∧ t.rf Reg.timSnapStatus F.timSnapStatus_seq = 1) = true := by decide +kernel

/-- A hatch list of port 0 on: entries of 10 ns and 20 ns. -/
def hatch0 : State :=
  withFields [(Reg.timHlCtrl 0, F.timHlCtrl_en, 1), (Reg.timCtrl, F.timCtrl_open_unlocked, 0), (Reg.timHlCycle 0 0, F.timHlCycle_len, 2),
    (Reg.timHlEnt 0 0 0, F.timHlEnt_duration, 10), (Reg.timHlEnt 0 0 1, F.timHlEnt_duration, 20)] { hostUp with time := 45 }

theorem test_hatch : hatch0.hlOff 0 = false ∧ hatch0.hlOrigin 0 = 0 ∧ hatch0.check 0 (regBase + Reg.timHlCtrl 0) = none ∧
    gives (.hatchEntryBoundary 0) hatch0 (fun t => t.rf (Reg.timHlStatus 0) F.timHlStatus_entry = 1) = true ∧
    gives (.hatchSwapRequest 0 0 (BitVec.ofNat 64 (2 ^ 63 + 2 ^ 60))) hatch0 (fun t => (mget t.tim.hatch 0).bind (·.swapAt) = some 60) = true ∧
    gives (.hatchSwapRequest 0 0 (BitVec.ofNat 64 (2 ^ 63 + 2 ^ 60))) (withFields [(Reg.timHlCtrl 0, F.timHlCtrl_swap, 1)] hatch0)
      (fun t => t.on (Reg.timHlCtrl 0) F.timHlCtrl_err) = true ∧
    gives (.hatchSwap 0) { hatch0 with tim.hatch := [(0, ⟨none, some 45⟩)] } (fun t => t.hlBank 0 = 1 ∧ mget t.tim.hatch 0 = some ⟨some 45, none⟩) = true := by
  decide +kernel

/-- A bucket's value: enabled, burst 5, quantum 3, period 2. -/
def bucketV : Word := BitVec.ofNat 64 (2 ^ 63 + 5 * 2 ^ 32 + 3 * 2 ^ 16 + 2)

theorem test_bucket : bucketKey (Reg.timShpFn 0) = true ∧ hostUp.check 0 (regBase + Reg.timShpFn 0) = none ∧
    gives (.bucketWrite 0 (Reg.timShpFn 0) bucketV) hostUp (fun t => (mget t.tim.buckets (Reg.timShpFn 0)).map (·.count) = some 5) = true ∧
    gives (.bucketWrite 0 (Reg.timShpFn 0) 0) { hostUp.wr (Reg.timShpFn 0) bucketV with tim.buckets := [(Reg.timShpFn 0, bucketOf bucketV 1 0)] } (fun t => t.tim.buckets = []) = true ∧
    gives (.bucketRefill (Reg.timShpFn 0)) { hostUp.wr (Reg.timShpFn 0) bucketV with clk := 16, tim.buckets := [(Reg.timShpFn 0, bucketOf bucketV 1 0)] }
      (fun t => (mget t.tim.buckets (Reg.timShpFn 0)).map (fun b => (b.count, b.last)) = some (4, 16)) = true := by decide +kernel

/-! ### The cipher engine -/

/-- Arguments and keys staged for SA 6 of function 0, its remote number 9. -/
def cipArgs : State :=
  ((hostUp.wr (Reg.cipArg 0) (BitVec.ofNat 64 (6 + 9 * 2 ^ 27 + 8 * 2 ^ 44))).wr (Reg.cipKeyStage 3) 5).wr (Reg.cipArg 1) 77
/-- An SA of the PF. -/
def sa6 : Sa := { owner := 0, st := .active, remoteSa := 9, txKey := 5, rxKey := 5, txSalt := 1, rxSalt := 1, ctr := 77 }
/-- The PF with it, its number in the arguments; the record at 0x4000. -/
def withSa (a : Sa) : State := withFields [(Reg.cipCtrl, F.cipCtrl_clear_ok, 1)] { cipArgs.wr (Reg.cipArg 4) 0x4000 with cip.sas := [(6, a)] }

theorem test_cip : CipIdle cipArgs ∧ cipArgs.saFull 0 = false ∧
    gives .install cipArgs (fun t => (mget t.cip.sas 6).map (fun a => (a.remoteSa, a.txKey, a.ctr)) = some (9, 5, 77) ∧ t.rd (Reg.cipKeyStage 3) = 0 ∧
      t.rf Reg.cipCmd F.cipCmd_status = 0) = true ∧ (withSa sa6).liveSa 6 = some sa6 ∧
    gives .install (withSa sa6) (fun t => t.rf Reg.cipCmd F.cipCmd_status = 0x81) = true ∧
    gives .replace (withSa sa6) (fun t => (mget t.cip.sas 6).map (fun a => (a.st, a.succ)) = some (.retiring, some 8)) = true ∧
    gives .delete (withSa sa6) (fun t => t.on Reg.cipCmd F.cipCmd_go) = true ∧
    gives .query (withSa sa6) (fun t => t.rd (Reg.cipArg 1) = 77 ∧ t.rd (Reg.cipArg 5) = 1) = true ∧
    gives (.saDeleteDrainEnd 6) (withFields [(Reg.cipCmd, F.cipCmd_go, 1)] (withSa { sa6 with ending := some false }))
      (fun t => t.cip.sas = [] ∧ !t.on Reg.cipCmd F.cipCmd_go) = true ∧
    gives .setKek cipArgs (fun t => t.cip.kek = some 5 ∧ t.on Reg.cipCtrl F.cipCtrl_kek_set) = true := by unfold CipIdle; decide +kernel

/-- The PF's memory with that SA's record. -/
def recorded : State := match exec .save (withSa sa6) with | .next t => t | _ => hostUp

theorem test_save : (withSa sa6).recordAt 128 = some 0x4000 ∧ (withSa sa6).biased 0x4000 128 = false ∧
    recorded.bytes 0x4000 128 = sa6.record.flatMap (leBytes 8) ∧ wordsOf 16 (recorded.bytes 0x4000 128) = sa6.record ∧
    gives .restore { withSa sa6 with cip.sas := [], mem := recorded.mem } (fun t => (mget t.cip.sas 6).map (fun a => (a.ctr, a.txKey, a.st)) = some (77, 5, .active)) = true ∧
    gives .save (withFields [(Reg.cipCtrl, F.cipCtrl_clear_ok, 0)] (withSa sa6)) (fun t => t.rf Reg.cipCmd F.cipCmd_status = 0x84) = true := by decide +kernel

/-- The packet of `pktR 1 0 0 0 [8, 9]` as AES-256-GCM seals it under that SA; ciphertext and tag are from a second implementation of
SP 800-38D, outside this package. -/
def sealed : Packet :=
  { type := 1, plen := 2, dstQpn := 7, srcNode := 9, srcQpn := 4, enc := true, keyId := 9, ctr := 77, payload := [0x07, 0xFA],
    tail := 3183453716220461362 }
/-- The other end. -/
def otherEnd : State := { hostUp with cip.sas := [(9, { sa6 with ctr := 0 })] }

theorem test_seal : ((withSa sa6).seal 6 (pktR 1 0 0 0 [8, 9])).2 = sealed := by decide +kernel

theorem test_open : (otherEnd.cipherIn (some (0, true)) sealed {}).2 = .ok { sealed with payload := [8, 9] } := by decide +kernel

theorem test_openTwice : (({ otherEnd with cip.sas := [(9, { sa6 with ctr := 0, top := 78, seen := [77] })] } : State).cipherIn
    (some (0, true)) sealed {}).2 = .drop := by decide +kernel

/-- The vectors of FIPS 197, C.3, FIPS 180-4 ("abc"), and test case 14 of the GCM specification. -/
theorem test_aes : aesEnc (roundKeys (List.range 32)) ((List.range 16).map (· * 17)) = toBe 16 0x8EA2B7CA516745BFEAFC49904B496089 ∧
    aesDec (roundKeys (List.range 32)) (toBe 16 0x8EA2B7CA516745BFEAFC49904B496089) = (List.range 16).map (· * 17) := by decide +kernel

theorem test_sha384 : sha384 [97, 98, 99] =
    0xCB00753F45A35E8BB5A03D699AC65007272C32AB0EDED1631A8B605A43FF5BED8086072BA1E7CC2358BAECA134C825A7 := by decide +kernel

theorem test_gcm : gcmTag (roundKeys (List.replicate 32 0)) 0 [] (toBe 16 0xCEA7403D4D606B6E074EC5D3BAF39D18) =
    toBe 16 0xD0D1C8A799996BF0265B98B5D48AB919 := by decide +kernel

/-! ### Plates -/

/-- Plate 0's domain On, owned by the PF. -/
def plateOn : State := withFields [(Reg.vfmPlateOwner 0, F.vfmPlateOwner_owner, 0)] (withOn [0] hostUp)
/-- Loaded with an image for burins 0 and 2. -/
def loaded : State := withFields [(Reg.pltStatus 0, F.pltStatus_loaded, 1)]
  (plateOn.setPlate 0 { image := { burins := 5, text := 64, seqEntry := 16, burinEntry := 32 } })
/-- Running. -/
def running : State := withFields [(Reg.pltStatus 0, F.pltStatus_run, 1)] loaded

theorem test_start : loaded.check 0 (regBase + Reg.pltCtrl 0) = none ∧ loaded.substPend 0 = false ∧ loaded.lost 0 = false ∧
    gives (.start 0 0) loaded (fun t => t.runs 0 ∧ t.running 0 = 5 ∧ (t.core (.seq 0)).pc = 16 ∧ (t.core (.burin 0 2)).sr 1 = 2 ∧ (t.core (.burin 0 1)).run = .halted) = true ∧
    gives (.start 0 0) plateOn (fun t => (t.mon.evQ.map (·.code)) = [0x1202]) = true ∧
    gives (.stop 0 0) running (fun t => (t.plate 0).stopping = some 2 ∧ t.runs 0) = true := by decide +kernel

theorem test_plateEnds : gives (.stopDrainEnd 0) (running.setPlate 0 { stopping := some 2 }) (fun t => !t.runs 0 ∧ t.rf (Reg.pltStatus 0) F.pltStatus_end = 2) = true ∧
    gives (.programEnd 0) running (fun t => !t.runs 0 ∧ t.rf (Reg.pltStatus 0) F.pltStatus_end = 1) = true ∧
    gives (.plateReset 0 0) loaded (fun t => (t.plate 0).resetting ∧ t.on (Reg.pltStatus 0) F.pltStatus_scrubbing) = true ∧
    gives (.plateScrubEnd 0) { withFields [(Reg.pltStatus 0, F.pltStatus_scrubbing, 1)] (loaded.setPlate 0 { resetting := true }) with mem := [(5, 1), (0x4000000005, 2)] }
      (fun t => t.mem = [(5, 1)] ∧ !t.on (Reg.pltStatus 0) F.pltStatus_loaded ∧ t.rf (Reg.pltStatus 0) F.pltStatus_spares = 2) = true := by decide +kernel

/-- An image of one bundle of text, 4 bytes of data at 64 and 2 bytes of local store. -/
def imageBytes : List Byte :=
  [0x55, 0x56, 0x39, 0x50, 0x4C, 0x41, 0x54, 0x45] ++ leBytes 2 1 ++ leBytes 2 0 ++ leBytes 4 1 ++ leBytes 4 16 ++ leBytes 4 0 ++ leBytes 4 0 ++
    leBytes 4 64 ++ leBytes 4 4 ++ leBytes 4 2 ++ List.replicate 24 0 ++ (leBytes 16 7 ++ List.replicate 48 0) ++ ([1, 2, 3, 4] ++ List.replicate 60 0) ++
    ([8, 9] ++ List.replicate 62 0)
/-- It in memory at 0x10000, its digest right or not, its load begun. -/
def loading (x : Nat) : State :=
  let d := sha384 (imageBytes.map (·.toNat)) + x
  let s : State := (List.range 6).foldl (fun t i => t.wr (Reg.pltDigest 0 i) (BitVec.ofNat 64 (d / 2 ^ (64 * (5 - i))))) plateOn
  { s.setPlate 0 { load := some (0x10000, 3) } with mem := storeBytes [] 0x10000 imageBytes }

theorem test_load : plateOn.check 0 (regBase + Reg.pltLoad 0) = none ∧
    gives (.loadGo 0 0 0x10030) plateOn (fun t => (t.plate 0).load = some (0x10000, 3) ∧ t.on (Reg.pltStatus 0) F.pltStatus_loading) = true ∧
    gives (.loadGo 0 0 0x10030) running (fun t => t.rf (Reg.pltStatus 0) F.pltStatus_load_result = 6) = true ∧ headerCheck (imageBytes.take 64) = 0 ∧
    (imageOf imageBytes).len = 256 ∧ imageBytes.length = 256 := by decide +kernel

theorem test_loadEnd : gives (.loadEnd 0 []) (loading 0) (fun t => t.on (Reg.pltStatus 0) F.pltStatus_loaded ∧ t.byte (imBase 0) = 7 ∧ t.byte (winBase 0 + 66) = 3 ∧
      t.byte (lsBase 0 31 + 1) = 9) = true ∧
    gives (.loadEnd 0 []) (loading 1) (fun t => !t.on (Reg.pltStatus 0) F.pltStatus_loaded ∧ t.rf (Reg.pltStatus 0) F.pltStatus_load_result = 5) = true ∧
    gives (.loadEnd 0 []) { loading 0 with mem := [] } (fun t => t.rf (Reg.pltStatus 0) F.pltStatus_load_result = 2) = true := by decide +kernel

/-- A descriptor of one row of 4 bytes from plate memory at 0x100 to local store 1 at 8. -/
def desc1 : List Nat := [0x100, 8, 4 + 2 ^ 32, 0, 1 * 8 + 1 * 2 ^ 11]

theorem test_descriptorEnd : dRows desc1 = 1 ∧ dSrcKind desc1 < 2 ∧ dDstKind desc1 < 2 ∧ dDst 0 desc1 0 = 0x4000440008 ∧
    gives (.descriptorEnd 0 0 {}) { plateOn.setMq 0 0 { q := [desc1] } with mem := [(0x4000000101, 5)] } (fun t => t.byte 0x4000440009 = 5 ∧ (t.mq 0 0).ended = 1) = true ∧
    gives (.descriptorEnd 0 0 {}) (plateOn.setMq 0 0 { q := [desc1], err := true }) (fun t => t.mem = [] ∧ (t.mq 0 0).ended = 1) = true := by decide +kernel

theorem test_plateRest : plateOn.rf (Reg.pltCtrl 0) F.pltCtrl_bar_stall_us ≠ 0 ∧ plateOn.check 0 (regBase + Reg.pltDisp 0 1) = none ∧
    gives (.barrierStall 0 1) { plateOn.setBar 0 1 { mask := 3, arrived := 1 } with clk := 100000000000 }
      (fun t => (t.bar 0 1).told ∧ (t.mon.logVol.map (·.code)) = [0x1203]) = true ∧
    gives (.dispLimitWrite 0 0 1 9) (plateOn.setPlate 0 { claims := [(33, 2)] }) (fun t => t.rf (Reg.pltDisp 0 1) F.pltDisp_limit = 9 ∧ (t.plate 0).claims = []) = true := by
  decide +kernel

theorem test_substitution : plateOn.exposedOf 0 3 = some 3 ∧ plateOn.rf (Reg.pltStatus 0) F.pltStatus_spares = 2 ∧
    gives (.burinSubstitution 0 (some 3)) plateOn (fun t => (t.plate 0).retired = [3] ∧ t.substPend 0) = true ∧
    gives (.burinSubstitution 0 none) (plateOn.setPlate 0 { retired := [3] }) (fun t => t.phys 0 3 = plateOn.spareOf 0 ∧ t.rf (Reg.pltStatus 0) F.pltStatus_spares = 1) = true := by
  decide +kernel

/-! ### The instruction set -/

/-- A word of format R, of format I, of format M. -/
def rWord (o d a b c ty rnd : Nat) (mv m : Nat := 0) : Nat :=
  o * 2 ^ 56 + d * 2 ^ 48 + a * 2 ^ 43 + b * 2 ^ 38 + c * 2 ^ 33 + mv * 2 ^ 32 + m * 2 ^ 29 + ty * 2 ^ 24 + rnd * 2 ^ 20
@[inherit_doc rWord] def iWord (o d a i : Nat) : Nat := o * 2 ^ 56 + 2 ^ 53 + d * 2 ^ 48 + a * 2 ^ 43 + i
@[inherit_doc rWord] def mWord (o d a b sh ty disp : Nat) : Nat :=
  o * 2 ^ 56 + 4 * 2 ^ 53 + d * 2 ^ 48 + a * 2 ^ 43 + b * 2 ^ 38 + sh * 2 ^ 34 + ty * 2 ^ 24 + disp

/-- Burin 2 of plate 0 at PC 32 with some registers, and the bundle there. -/
def atBundle (sw vw : Nat) (x : CoreSt := {}) (s : State := running) (c : Core := .burin 0 2) : State :=
  let y : CoreSt := { x with run := .running, pc := 32, s := x.s ++ [(30, 6), (31, 3)] }
  { s.setCore c y with mem := storeBytes s.mem (imBase 0 + 32) (leBytes 8 sw ++ leBytes 8 vw) }
/-- Whether a core is ready for the bundle. -/
def ready (s : State) (sw vw : Nat) (c : Core := .burin 0 2) (e : Env := {}) : Bool :=
  decide ((s.core c).run = .running) && decide ((s.core c).pc < pcEnd c) && s.bundleAt c (s.core c).pc == (sw, vw) &&
    !(s.core c).alone && fetchDbe c (s.core c).pc e == none && wordOk (kindOf c) false sw && wordOk (kindOf c) true vw && pairOk sw vw

theorem test_nop : ready (atBundle nopWord vnopWord) nopWord vnopWord ∧
    gives (.nop (.burin 0 2) {}) (atBundle nopWord vnopWord) (fun t => (t.core (.burin 0 2)).pc = 48) = true ∧
    gives (.vnop (.burin 0 2) {}) (atBundle nopWord vnopWord) (fun t => (t.core (.burin 0 2)).pc = 48) = true ∧
    ready (atBundle (0x4C * 2 ^ 56) vnopWord) (0x4C * 2 ^ 56) vnopWord ∧
    gives (.msync (.burin 0 2) {}) (atBundle (0x4C * 2 ^ 56) vnopWord) (fun t => (t.core (.burin 0 2)).pc = 48) = true := by decide +kernel

theorem test_integers : intRows.all (fun r =>
    let w := if r.2.1 < 0x18 then rWord r.2.1 4 30 31 0 0 0 else iWord r.2.1 4 30 3
    ready (atBundle w vnopWord) w vnopWord && decide (opc w = r.2.1) &&
    gives (r.1 (.burin 0 2) {}) (atBundle w vnopWord) (fun t => (t.core (.burin 0 2)).sr 4 = r.2.2 6 3 ∧ (t.core (.burin 0 2)).pc = 48)) = true := by
  decide +kernel

theorem test_li : let w := 0x20 * 2 ^ 56 + 3 * 2 ^ 53 + 4 * 2 ^ 48 + 2 ^ 47
    let u := iWord 0x21 4 30 0x80000000
    ready (atBundle w vnopWord) w vnopWord ∧ ready (atBundle u vnopWord) u vnopWord ∧
    gives (.li (.burin 0 2) {}) (atBundle w vnopWord) (fun t => (t.core (.burin 0 2)).sr 4 = 0xFFFF800000000000) = true ∧
    gives (.lih (.burin 0 2) {}) (atBundle u vnopWord) (fun t => (t.core (.burin 0 2)).sr 4 = 0x8000000000000006) = true := by decide +kernel

theorem test_scalarFp : fpRows.all (fun r =>
    let w := rWord r.2.1 4 30 31 31 8 0
    ready (atBundle w vnopWord) w vnopWord &&
    gives (r.1 (.burin 0 2) {}) (atBundle w vnopWord) (fun t => (t.core (.burin 0 2)).pc = 48)) = true := by
  decide +kernel

/-- 1.0 + 2^-53 draws under stochastic rounding; 1.5 to INT32 is 2; -1 in INT32 to FP32. -/
theorem test_fp : let w := rWord 0x28 4 5 6 0 8 5
    let u := rWord 0x33 4 5 0 1 8 0
    let x : CoreSt := { s := [(5, 0x3FF8000000000000), (6, 0x3CA0000000000000)], srseed := 7 }
    ready (atBundle u vnopWord x) u vnopWord ∧
    gives (.fadd (.burin 0 2) {}) (atBundle w vnopWord x) (fun t => (t.core (.burin 0 2)).flags = 1 ∧ (t.core (.burin 0 2)).srseed.toNat = srNext 7) = true ∧
    gives (.fcvt (.burin 0 2) {}) (atBundle u vnopWord x) (fun t => (t.core (.burin 0 2)).sr 4 = 2 ∧ (t.core (.burin 0 2)).flags = 1) = true := by decide +kernel

/-- Whether n bytes at an address are reached at a DPA. -/
def reaches (s : State) (c : Core) (a n d : Nat) (wr : Bool) : Bool :=
  inSegment c a n && !isScratch c a && dpaOf c a == d && decide (d + n ≤ regBase) && !s.biased d n &&
    (segOf a != 2 || (s.dpaCheck (coreMaster c) d n wr).isNone)

/-- A core of plate 0 whose s5 addresses its plate's memory at 0x100, s6 HBM at 0x200. -/
def addrs : CoreSt := { s := [(5, 0x1000000000000100), (6, 0x2000000000000200), (7, 8), (8, 0x1000000000000104)], v := [(1, 0x0807060504030201)] }
/-- Memory that holds F3 F2 F1 F0 there. -/
def filled (s : State := running) : State := { s with mem := storeBytes (storeBytes [] 0x200 [0xF3, 0xF2, 0xF1, 0xF0]) 0x4000000100 [0xF3, 0xF2, 0xF1, 0xF0, 1, 0, 0, 0] }

theorem test_isaLoad : let w := mWord 0x38 4 5 0 0 1 0
    let u := mWord 0x39 4 6 0 0 1 0
    ready (atBundle w vnopWord addrs filled) w vnopWord ∧ reaches (atBundle w vnopWord addrs filled) (.burin 0 2) 0x1000000000000100 4 0x4000000100 false ∧
    ready (atBundle u vnopWord addrs filled) u vnopWord ∧ reaches (atBundle u vnopWord addrs filled) (.burin 0 2) 0x2000000000000200 4 0x200 false ∧
    gives (.ld (.burin 0 2) {}) (atBundle w vnopWord addrs filled) (fun t => (t.core (.burin 0 2)).sr 4 = 0xFFFFFFFFF0F1F2F3) = true ∧
    gives (.ldu (.burin 0 2) {}) (atBundle u vnopWord addrs filled)
      (fun t => (t.core (.burin 0 2)).sr 4 = 0xF0F1F2F3 ∧ t.rf (Reg.vfmMeter 0 4) F.vfmMeter_count = 32) = true := by decide +kernel

theorem test_store : let w := mWord 0x3A 31 6 0 0 1 4
    let u := iWord 0x3C 4 5 0 + 31 * 2 ^ 38 + 4 * 2 ^ 53
    ready (atBundle w vnopWord addrs filled) w vnopWord ∧ reaches (atBundle w vnopWord addrs filled) (.burin 0 2) 0x2000000000000204 4 0x204 true ∧
    gives (.st (.burin 0 2) {}) (atBundle w vnopWord addrs filled) (fun t => t.bytes 0x200 8 = [0xF3, 0xF2, 0xF1, 0xF0, 3, 0, 0, 0]) = true ∧
    ready (atBundle u vnopWord addrs filled) u vnopWord ∧
    gives (.aadd (.burin 0 2) {}) (atBundle u vnopWord addrs filled)
      (fun t => t.byte 0x4000000100 = 0xF6 ∧ (t.core (.burin 0 2)).sr 4 = 0x1F0F1F2F3) = true := by decide +kernel

theorem test_atomics : let w (o : Nat) := o * 2 ^ 56 + 5 * 2 ^ 53 + 4 * 2 ^ 48 + 5 * 2 ^ 43 + 31 * 2 ^ 38
    ([(Instr.aswap (.burin 0 2) {}, 0x3D), (.acas (.burin 0 2) {}, 0x3E), (.afadd (.burin 0 2) {}, 0x3F)].all fun r =>
      ready (atBundle (w r.2) vnopWord addrs filled) (w r.2) vnopWord &&
      gives r.1 (atBundle (w r.2) vnopWord addrs filled) (fun t => (t.core (.burin 0 2)).sr 4 = 0x1F0F1F2F3)) = true := by decide +kernel

theorem test_vld : let w := mWord 0xB8 4 5 0 0 0 0
    let u := mWord 0xB9 1 5 0 0 0 0
    let z := mWord 0xBE 4 5 0 0 0 0
    ready (atBundle 0 w addrs filled) 0 w ∧ ready (atBundle 0 u addrs filled) 0 u ∧ ready (atBundle 0 z addrs filled) 0 z ∧
    gives (.vld (.burin 0 2) {}) (atBundle 0 w addrs filled) (fun t => (t.core (.burin 0 2)).vr 4 = 0x1F0F1F2F3) = true ∧
    gives (.vld2 (.burin 0 2) {}) (atBundle 0 z addrs filled) (fun t => (t.core (.burin 0 2)).vr 4 = 0x1F0F1F2F3 ∧ (t.core (.burin 0 2)).vr 5 = 0) = true ∧
    gives (.vst (.burin 0 2) {}) (atBundle 0 u addrs filled) (fun t => t.bytes 0x4000000100 9 = [1, 2, 3, 4, 5, 6, 7, 8, 0]) = true := by decide +kernel

theorem test_strided : let w (o : Nat) := mWord o 1 5 7 0 9 0
    ([0xBA, 0xBB].all fun o => ready (atBundle 0 (w o) addrs filled) 0 (w o)) ∧
    gives (.vlds (.burin 0 2) {}) (atBundle 0 (w 0xBA) addrs filled) (fun t => (t.core (.burin 0 2)).vr 1 = 0xF0F1F2F3) = true ∧
    gives (.vsts (.burin 0 2) {}) (atBundle 0 (w 0xBB) addrs filled) (fun t => t.bytes 0x4000000100 9 = [1, 2, 3, 4, 1, 0, 0, 0, 5]) = true := by decide +kernel

theorem test_gather : let w (o : Nat) := mWord o 1 5 2 0 9 0
    ([0xBC, 0xBD].all fun o => ready (atBundle 0 (w o) addrs filled) 0 (w o)) ∧
    gives (.vgath (.burin 0 2) {}) (atBundle 0 (w 0xBC) addrs filled) (fun t => eltAt 32 ((t.core (.burin 0 2)).vr 1) 63 = 0xF0F1F2F3) = true ∧
    gives (.vscat (.burin 0 2) {}) (atBundle 0 (w 0xBD) addrs filled) (fun t => t.bytes 0x4000000100 5 = [0, 0, 0, 0, 1]) = true := by decide +kernel

theorem test_accMemory : let w := mWord 0xC4 2 5 0 0 0 0
    let u := mWord 0xC5 2 5 0 0 0 0
    ready (atBundle 0 w addrs filled) 0 w ∧ ready (atBundle 0 u addrs filled) 0 u ∧
    reaches (atBundle 0 w addrs filled) (.burin 0 2) 0x1000000000000100 4096 0x4000000100 true := by decide +kernel

/-- A format B word. -/
def bWord (o a b off : Nat) : Nat := o * 2 ^ 56 + 2 * 2 ^ 53 + a * 2 ^ 48 + b * 2 ^ 43 + off

theorem test_branches : ([(Instr.beq (.burin 0 2) {}, 0x40, 64), (.bne (.burin 0 2) {}, 0x41, 16), (.blt (.burin 0 2) {}, 0x42, 64),
      (.bge (.burin 0 2) {}, 0x43, 16), (.bltu (.burin 0 2) {}, 0x44, 64), (.bgeu (.burin 0 2) {}, 0x45, 16)] : List (Instr × Nat × Nat)).all (fun r =>
    let w := bWord r.2.1 31 30 (2 ^ 32 - 1)
    ready (atBundle w vnopWord) w vnopWord &&
    gives r.1 (atBundle w vnopWord) (fun t => (t.core (.burin 0 2)).pc = 48 ∧
      (t.core (.burin 0 2)).delay = some (32, if r.2.1 = 0x41 ∨ r.2.1 = 0x42 ∨ r.2.1 = 0x44 then 16 else 64))) = true := by decide +kernel

theorem test_links : let w := bWord 0x46 4 0 2
    let u := rWord 0x47 4 5 0 0 0 0
    ready (atBundle w vnopWord) w vnopWord ∧ ready (atBundle u vnopWord) u vnopWord ∧
    gives (.call (.burin 0 2) {}) (atBundle w vnopWord) (fun t => (t.core (.burin 0 2)).sr 4 = 64 ∧ (t.core (.burin 0 2)).delay = some (32, 64)) = true ∧
    gives (.jr (.burin 0 2) {}) (atBundle u vnopWord { s := [(5, 0x100)] }) (fun t => (t.core (.burin 0 2)).delay = some (32, 0x100)) = true := by
  decide +kernel

/-- The bundle after the branch of test_links goes to its target. -/
theorem test_delaySlot : gives (.nop (.burin 0 2) {}) (atBundle 0 vnopWord { delay := some (16, 0x100) })
    (fun t => (t.core (.burin 0 2)).pc = 0x100 ∧ (t.core (.burin 0 2)).delay = none) = true := by decide +kernel

theorem test_loop : let w := iWord 0x48 1 0 (3 * 2 ^ 16 + 2)
    let u := iWord 0x48 0 0 2
    ready (atBundle w vnopWord) w vnopWord ∧ ready (atBundle u vnopWord) u vnopWord ∧
    gives (.loop (.burin 0 2) {}) (atBundle w vnopWord) (fun t => (t.core (.burin 0 2)).loop1.toNat = 3 + 4 * 2 ^ 14 + 3 * 2 ^ 32 ∧ (t.core (.burin 0 2)).pc = 48) = true ∧
    gives (.loop (.burin 0 2) {}) (atBundle u vnopWord) (fun t => (t.core (.burin 0 2)).pc = 80) = true ∧
    gives (.nop (.burin 0 2) {}) (atBundle 0 vnopWord { loop0 := 0x300008001 }) (fun t => (t.core (.burin 0 2)).pc = 16 ∧ (t.core (.burin 0 2)).loop0 = 0x200008001) = true ∧
    gives (.nop (.burin 0 2) {}) (atBundle 0 vnopWord { loop1 := 0x200008001, loop0 := 0x100008001 }) (fun t => (t.core (.burin 0 2)).loop1 = 0x100008001) = true ∧
    gives (.nop (.burin 0 2) {}) (atBundle 0 vnopWord { loop1 := 0x100008001 }) (fun t => (t.core (.burin 0 2)).pc = 48) = true := by decide +kernel

theorem test_control : let w := iWord 0x49 0 0 4
    let u := 0x4A * 2 ^ 56 + 6 * 2 ^ 53 + 4 * 2 ^ 48 + 7
    let v := 0x4B * 2 ^ 56 + 6 * 2 ^ 53 + 30 * 2 ^ 43 + 8
    ready (atBundle w vnopWord) w vnopWord ∧ ready (atBundle u vnopWord) u vnopWord ∧ ready (atBundle v vnopWord) v vnopWord ∧
    gives (.setmode (.burin 0 2) {}) (atBundle w vnopWord { mode := 0x8010 }) (fun t => (t.core (.burin 0 2)).mode = 0x8004 ∧ (t.core (.burin 0 2)).shadow = 2) = true ∧
    gives (.crd (.burin 0 2) {}) (atBundle u vnopWord { evec := 9 }) (fun t => (t.core (.burin 0 2)).sr 4 = 9) = true ∧
    gives (.cwr (.burin 0 2) {}) (atBundle v vnopWord) (fun t => (t.core (.burin 0 2)).srseed = 6) = true := by decide +kernel

theorem test_phaseHalt : let w := iWord 0x4D 0 0 5
    let u := 0x4E * 2 ^ 56
    ready (atBundle w vnopWord {} running (.seq 0)) w vnopWord (.seq 0) ∧ ready (atBundle u vnopWord) u vnopWord ∧
    gives (.phase (.seq 0) {}) (atBundle w vnopWord {} running (.seq 0)) (fun t => (t.plate 0).phase = 5) = true ∧
    gives (.halt (.burin 0 2) {}) (withFields [(Reg.pltStatus 0, F.pltStatus_running, 5)] (atBundle u vnopWord))
      (fun t => t.running 0 = 1 ∧ (t.core (.burin 0 2)).run = .halted) = true := by decide +kernel

/-- A core with its handler at bundle 7. -/
def handled : CoreSt := { evec := 0x8000000000000007, s := [(5, 0x1000000000000101), (6, 0x3000000000000000), (7, 0x2000004000C00000)] }

theorem test_exceptions : let w := iWord 0x50 0 0 77
    let u := 0x51 * 2 ^ 56
    ready (atBundle w vnopWord handled) w vnopWord ∧ ready (atBundle u vnopWord handled) u vnopWord ∧
    gives (.trap (.burin 0 2) {}) (atBundle w vnopWord handled) (fun t => (t.core (.burin 0 2)).pc = 112 ∧ (t.core (.burin 0 2)).epc = 48 ∧
      (t.core (.burin 0 2)).ecause = 0x0000004D00001009 ∧ (t.core (.burin 0 2)).eaddr = 32) = true ∧
    gives (.brk (.burin 0 2) {}) (atBundle (iWord 0x4F 0 0 77) vnopWord) (fun t => (t.plate 0).stopping = some 3 ∧ t.rf (Reg.pltExc 0) F.pltExc_cause = 8 ∧
      t.rf (Reg.pltExc 0) F.pltExc_burin = 2) = true ∧
    gives (.eret (.burin 0 2) {}) (atBundle u vnopWord { handler := true, epc := 0x45, ecause := 0x7 * 2 ^ 16 + 2 * 2 ^ 9 })
      (fun t => (t.core (.burin 0 2)).pc = 0x40 ∧ (t.core (.burin 0 2)).shadow = 2 ∧ (t.core (.burin 0 2)).oldMode = 7) = true := by decide +kernel

theorem test_before :
    gives (.nop (.burin 0 2) {}) (running.setCore (.burin 0 2) { handled with run := .running, pc := 0x40000 }) (fun t => (t.core (.burin 0 2)).ecause = 10) = true ∧
    gives (.add (.burin 0 2) {}) (atBundle (rWord 0x01 4 30 31 0 1 0) vnopWord handled) (fun t => (t.core (.burin 0 2)).ecause = 1) = true ∧
    gives (.add (.burin 0 2) {}) (atBundle (rWord 0x01 4 30 31 0 0 0) (vnopWord + 1) handled) (fun t => (t.core (.burin 0 2)).ecause = 0x801) = true ∧
    gives (.ld (.burin 0 2) {}) (atBundle (mWord 0x38 4 5 0 0 0 0) vnopWord handled) (fun t => (t.core (.burin 0 2)).ecause = 2 ∧ (t.core (.burin 0 2)).eaddr = 0x1000000000000101) = true ∧
    gives (.ld (.burin 0 2) {}) (atBundle (mWord 0x38 4 6 0 0 0 0) vnopWord handled) (fun t => (t.core (.burin 0 2)).ecause = 3) = true ∧
    gives (.st (.burin 0 2) {}) (atBundle (mWord 0x3A 4 7 0 0 0 0) vnopWord handled) (fun t => (t.core (.burin 0 2)).ecause.toNat % 256 = 4) = true ∧
    gives (.ld (.burin 0 2) { dbe := [0x4000000100 / 8] }) (atBundle (mWord 0x38 4 5 0 0 2 0) vnopWord handled) (fun t => (t.core (.burin 0 2)).ecause = 5) = true ∧
    gives (.fdiv (.burin 0 2) {}) (atBundle (rWord 0x2C 4 30 0 0 8 0) vnopWord { handled with mode := 8 * 32 }) (fun t => (t.core (.burin 0 2)).ecause = 0x800000006) = true := by
  decide +kernel

/-- Plate 0 running with barrier 1 for burins 0 and 2, burin 0 running or waiting there. -/
def barred (a : Nat) : State := (running.setBar 0 1 { mask := 5, arrived := a, gen := 8 }).setCore (.burin 0 0) { run := if a = 0 then .running else .barrier 1 }

theorem test_barw : let w := iWord 0x58 0 0 1
    ready (atBundle w vnopWord {} (barred 0)) w vnopWord ∧ ready (atBundle w vnopWord {} (barred 1)) w vnopWord ∧
    gives (.barw (.burin 0 2) {}) (atBundle w vnopWord {} (barred 0)) (fun t => (t.core (.burin 0 2)).run = .barrier 1 ∧ (t.core (.burin 0 2)).pc = 48) = true ∧
    gives (.barw (.burin 0 2) {}) (atBundle w vnopWord {} (barred 1))
      (fun t => (t.core (.burin 0 2)).run = .running ∧ (t.core (.burin 0 0)).run = .running ∧ (t.bar 0 1).gen = 9) = true ∧
    gives (.barw (.burin 0 2) {}) (atBundle w vnopWord {} running) (fun t => (t.core (.burin 0 2)).run = .running) = true := by decide +kernel

theorem test_barrierRest : let w := iWord 0x59 0 31 1
    let u := iWord 0x5A 4 0 1
    ready (atBundle w vnopWord {} (barred 0)) w vnopWord ∧ ready (atBundle u vnopWord {} (barred 0)) u vnopWord ∧
    gives (.barmask (.burin 0 2) {}) (atBundle w vnopWord {} (barred 0)) (fun t => (t.bar 0 1).mask = 1) = true ∧
    gives (.bargen (.burin 0 2) {}) (atBundle u vnopWord {} (barred 0)) (fun t => (t.core (.burin 0 2)).sr 4 = 8) = true := by decide +kernel

/-- Dispenser 3 at index 4 of 5. -/
def dispensing : State := withFields [(Reg.pltDisp 0 3, F.pltDisp_next, 4), (Reg.pltDisp 0 3, F.pltDisp_limit, 5)] running

theorem test_claim : let w := iWord 0x5B 4 0 3
    ready (atBundle w vnopWord {} dispensing) w vnopWord ∧
    gives (.claim (.burin 0 2) {}) (atBundle w vnopWord {} dispensing) (fun t => (t.core (.burin 0 2)).sr 4 = 4 ∧ t.rf (Reg.pltDisp 0 3) F.pltDisp_next = 5) = true ∧
    gives (.claim (.burin 0 2) {}) (withFields [(Reg.pltCtrl 0, F.pltCtrl_dmode, 1)] (atBundle w vnopWord {} dispensing)) (fun t => (t.core (.burin 0 2)).sr 4 = 2) = true ∧
    gives (.claim (.burin 0 2) {}) (atBundle w vnopWord {} running) (fun t => (t.core (.burin 0 2)).sr 4 = 0xFFFFFFFF) = true ∧
    gives (.claim (.seq 0) {}) (atBundle w vnopWord {} dispensing (.seq 0)) (fun t => (t.core (.seq 0)).sr 4 = 0xFFFFFFFF) = true := by decide +kernel

/-- The sequencer at an XPOST of a descriptor of 4 bytes at 0x100. -/
def posting (q : Nat) : State :=
  let w := iWord 0xD0 4 5 1
  let t := atBundle 0 w addrs (running.setMq 0 1 { q := List.replicate q [0, 0, 1, 0, 0], ended := 9 }) (.seq 0)
  { t with mem := storeBytes t.mem 0x4000000100 ([0x40, 8, 4, 0, 0].flatMap (leBytes 8)) }

theorem test_xpost : ready (posting 2) 0 (iWord 0xD0 4 5 1) (.seq 0) ∧ dFaults (wordsOf 8 ((posting 2).bytes 0x4000000100 64)) = 0 ∧
    reaches (posting 2) (.seq 0) 0x1000000000000100 64 0x4000000100 false ∧
    gives (.xpost (.seq 0) {}) (posting 2) (fun t => (t.core (.seq 0)).sr 4 = 12 ∧ (t.mq 0 1).q.length = 3) = true ∧
    gives (.xpost (.seq 0) {}) (posting 16) (fun t => (t.core (.seq 0)).pc = 32) = true := by decide +kernel

theorem test_queues : let w (o : Nat) := iWord o 4 30 1
    let s (o n : Nat) : State := atBundle 0 (w o) {} (running.setMq 0 1 { ended := n, err := true })
    ready (s 0xD1 7) 0 (w 0xD1) ∧ ready (s 0xD2 7) 0 (w 0xD2) ∧ ready (s 0xD3 7) 0 (w 0xD3) ∧ ready (s 0xD4 7) 0 (w 0xD4) ∧
    gives (.xcount (.burin 0 2) {}) (s 0xD1 7) (fun t => (t.core (.burin 0 2)).sr 4 = 7) = true ∧
    gives (.xwait (.burin 0 2) {}) (s 0xD2 6) (fun t => (t.core (.burin 0 2)).pc = 48) = true ∧
    gives (.xwait (.burin 0 2) {}) (s 0xD2 5) (fun t => (t.core (.burin 0 2)).pc = 32) = true ∧
    gives (.xerr (.burin 0 2) {}) (s 0xD3 5) (fun t => (t.core (.burin 0 2)).sr 4 = 1) = true ∧
    gives (.xclr (.burin 0 2) {}) (s 0xD4 5) (fun t => !(t.mq 0 1).err ∧ (t.mq 0 1).ended = 5) = true := by decide +kernel

/-- A group of plate 0 with one ring, Ready, and a barrier descriptor of it at 0x100. -/
def issuing (bad : Nat) (l : Nat) : State :=
  let w := rWord 0xD8 4 5 0 0 0 0
  let g : Group := { owner := 0, plates := [0], dims := 1, tc := 0, align := false, weight := 1, slots := 1, slotKib := 1, stageOff := 0, carry := 0, carryLen := 0,
                     region := 0, st := .ready, rings := [(0, { size := 2, pos := 0, next := 5, prev := 6, key := 0 })], pkind := 2 }
  let t := atBundle 0 w addrs ((running.setGroup 3 g).setPlate 0 { tickets := (List.range l).map fun i => (i, {}) })
  let ws := [0, 0, 0, 7 * 2 ^ 56 + 3 * 2 ^ 32, 2 ^ 26, 0, 0, bad]
  { t with mem := storeBytes t.mem 0x4000000100 (ws.flatMap (leBytes 8)) }

theorem test_cissue : let ws := wordsOf 8 ((issuing 0 2).bytes 0x4000000100 64)
    ready (issuing 0 2) 0 (rWord 0xD8 4 5 0 0 0 0) ∧ (issuing 0 2).freeTicket 0 = some 2 ∧ collReserved ws = 0 ∧ (issuing 0 2).pd 93 ≠ 3 ∧
    (issuing 0 2).collCheck 0 ws = none ∧ (issuing 0 2).plateOwner 0 = 0 ∧
    gives (.cissue (.burin 0 2) {}) (issuing 0 2) (fun t => (t.core (.burin 0 2)).sr 4 = 2 ∧ ((t.group 3).map (·.queue.length)) = some 1) = true ∧
    gives (.cissue (.burin 0 2) {}) (issuing 1 2) (fun t => mget (t.plate 0).tickets 2 = some { status := some 1 }) = true ∧
    gives (.cissue (.burin 0 2) {}) (issuing 0 16) (fun t => (t.core (.burin 0 2)).pc = 32) = true := by decide +kernel

theorem test_cwait : let w := rWord 0xD9 4 30 0 0 0 0
    let s (x : Option Nat) : State := atBundle 0 w {} (running.setPlate 0 { tickets := [(6, { status := x })] })
    ready (s none) 0 w ∧ gives (.cwait (.burin 0 2) {}) (s none) (fun t => (t.core (.burin 0 2)).pc = 32) = true ∧
    gives (.cwait (.burin 0 2) {}) (s (some 9)) (fun t => (t.core (.burin 0 2)).sr 4 = 9 ∧ (t.plate 0).tickets = []) = true ∧
    gives (.cwait (.burin 0 2) {}) (atBundle 0 w {} running) (fun t => (t.core (.burin 0 2)).sr 4 = 1) = true := by decide +kernel

/-- Registers v1 and v2 of a few elements, mask m1 for element 0 alone. -/
def lanes : CoreSt := { v := [(1, 0x0000000340000000), (2, 0x0000000540400000), (3, 0xFFFFFFFFFFFFFFFF)], m := [(1, 1), (2, 3)] }

theorem test_vecFp : vecRows.all (fun r =>
    let w := rWord r.2.1 3 1 2 1 9 0 1 1
    ready (atBundle 0 w lanes) 0 w &&
    gives (r.1 (.burin 0 2) {}) (atBundle 0 w lanes) (fun t => (t.core (.burin 0 2)).pc = 48 ∧ eltAt 32 ((t.core (.burin 0 2)).vr 3) 1 = 0xFFFFFFFF)) = true := by
  decide +kernel

theorem test_vecAdd : gives (.vadd (.burin 0 2) {}) (atBundle 0 (rWord 0x81 3 1 2 0 9 0 1 1) lanes) (fun t => eltAt 32 ((t.core (.burin 0 2)).vr 3) 0 = 0x40A00000) = true ∧
    gives (.vsub (.burin 0 2) {}) (atBundle 0 (rWord 0x82 3 1 2 0 1 0) lanes) (fun t => eltAt 32 ((t.core (.burin 0 2)).vr 3) 1 = 0xFFFFFFFE) = true := by
  decide +kernel

theorem test_plain : ([(.vand, 0x8C), (.vor, 0x8D), (.vxor, 0x8E), (.vshl, 0x8F), (.vshr, 0x90), (.vsra, 0x91), (.vmov, 0xA0), (.vperm, 0xA2),
      (.vbcast, 0xA3)] : List ((Core → Env → Instr) × Nat)).all (fun r =>
    let w := rWord r.2 3 1 2 0 1 0 1 1
    ready (atBundle 0 w lanes) 0 w &&
    gives (r.1 (.burin 0 2) {}) (atBundle 0 w lanes) (fun t =>
      eltAt 32 ((t.core (.burin 0 2)).vr 3) 0 = plainValue r.2 ((atBundle 0 w lanes).core (.burin 0 2)) w 32 0 ∧
      eltAt 32 ((t.core (.burin 0 2)).vr 3) 1 = 0xFFFFFFFF)) = true := by decide +kernel

theorem test_select : let w := rWord 0xA1 3 1 2 0 1 0 1 1
    let u := rWord 0xA4 4 1 31 0 1 0
    let z := rWord 0xA5 3 30 0 0 1 0
    ready (atBundle 0 w lanes) 0 w ∧ ready (atBundle 0 u lanes) 0 u ∧ ready (atBundle 0 z lanes) 0 z ∧
    gives (.vsel (.burin 0 2) {}) (atBundle 0 w lanes) (fun t => (t.core (.burin 0 2)).vr 3 = 0x0000000540000000) = true ∧
    gives (.vext (.burin 0 2) {}) (atBundle 0 u lanes) (fun t => (t.core (.burin 0 2)).sr 4 = 0) = true ∧
    gives (.vins (.burin 0 2) {}) (atBundle 0 z lanes) (fun t => (t.core (.burin 0 2)).vr 3 = 0xFFFFFFFF00000006) = true := by decide +kernel

theorem test_compares : ([(Instr.vcmpeq (.burin 0 2) {}, 0x94, 2), (.vcmplt (.burin 0 2) {}, 0x95, 3), (.vcmple (.burin 0 2) {}, 0x96, 3), (.vcmpun (.burin 0 2) {}, 0x97, 2)] : List (Instr × Nat × Nat)).all (fun r =>
    let w := rWord r.2.1 2 1 2 0 9 0 1 1
    ready (atBundle 0 w lanes) 0 w && gives r.1 (atBundle 0 w lanes) (fun t => (t.core (.burin 0 2)).mr 2 = r.2.2)) = true := by decide +kernel

theorem test_masks : ([(Instr.mand (.burin 0 2) {}, 0xA8, 1), (.mor (.burin 0 2) {}, 0xA9, 3), (.mxor (.burin 0 2) {}, 0xAA, 2), (.mnot (.burin 0 2) {}, 0xAB, 2 ^ 64 - 2)] : List (Instr × Nat × Nat)).all (fun r =>
    let w := rWord r.2.1 5 1 (if r.2.1 = 0xAB then 0 else 2) 0 0 0
    ready (atBundle 0 w lanes) 0 w && gives r.1 (atBundle 0 w lanes) (fun t => (t.core (.burin 0 2)).mr 5 = r.2.2)) = true := by decide +kernel

theorem test_maskMoves : let w (o : Nat) := rWord o 4 2 0 0 0 0
    ready (atBundle 0 (rWord 0xAC 4 30 0 0 0 0) lanes) 0 (rWord 0xAC 4 30 0 0 0 0) ∧ ready (atBundle 0 (w 0xAD) lanes) 0 (w 0xAD) ∧
    gives (.mset (.burin 0 2) {}) (atBundle 0 (rWord 0xAC 4 30 0 0 0 0) lanes) (fun t => (t.core (.burin 0 2)).mr 4 = 6) = true ∧
    gives (.mget (.burin 0 2) {}) (atBundle 0 (w 0xAD) lanes) (fun t => (t.core (.burin 0 2)).sr 4 = 3) = true ∧
    gives (.mpopc (.burin 0 2) {}) (atBundle 0 (w 0xAE) lanes) (fun t => (t.core (.burin 0 2)).sr 4 = 2) = true := by decide +kernel

/-- Every conversion, reduction and matrix word is legal where it stands, and no flag traps there. -/
theorem test_matReady : [rWord 0x98 3 1 0 9 8 0, rWord 0x98 3 1 0 8 9 0 0 1, rWord 0x99 3 1 0 16 9 0, rWord 0x9A 3 1 2 16 9 0 0 1, rWord 0x9B 3 1 2 17 9 0 0 2,
      rWord 0x9C 3 1 0 0 1 0, rWord 0x9C 3 1 0 0 9 0, rWord 0x9D 3 1 0 0 1 0 1 1, rWord 0x9E 3 1 0 0 9 0 1 1, rWord 0xB0 3 1 0 0 8 0, rWord 0xB1 3 1 0 0 0 0,
      rWord 0xB2 3 1 0 0 8 0, rWord 0xC0 1 4 8 0 2 0, rWord 0xC0 1 4 8 5 16 0, rWord 0xC1 1 0 0 0 0 0, rWord 0xC2 3 1 0 5 0 0, rWord 0xC3 1 1 0 5 0 0].all (fun w =>
      ready (atBundle 0 w lanes) 0 w && decide (trapsOf ((atBundle 0 w lanes).core (.burin 0 2)) = 0)) = true := by decide +kernel

theorem test_convert : gives (.vcvt (.burin 0 2) {}) (atBundle 0 (rWord 0x98 3 1 0 1 9 0) lanes) (fun t => eltAt 32 ((t.core (.burin 0 2)).vr 3) 0 = 2) = true ∧
    gives (.vcvt (.burin 0 2) {}) (atBundle 0 (rWord 0x98 3 1 0 8 9 0 0 1) lanes) (fun t => (t.core (.burin 0 2)).vr 3 = 0) = true := by decide +kernel

theorem test_blocks : gives (.vscale (.burin 0 2) {}) (atBundle 0 (rWord 0x99 3 2 0 16 9 0) lanes) (fun t => (t.core (.burin 0 2)).sr 3 = 127 * 256 + 120) = true ∧
    gives (.vqnt (.burin 0 2) {}) (atBundle 0 (rWord 0x9A 3 1 4 16 9 0) { lanes with s := [(4, 0x7F7F)] }) (fun t => eltAt 8 ((t.core (.burin 0 2)).vr 3) 0 = 0x40) = true ∧
    gives (.vdq (.burin 0 2) {}) (atBundle 0 (rWord 0x9B 3 4 4 16 9 0) { lanes with s := [(4, 0x7F7F)], v := [(4, 0x38)] })
      (fun t => eltAt 32 ((t.core (.burin 0 2)).vr 3) 0 = 0x3F800000) = true := by decide +kernel

theorem test_reductions : gives (.vredadd (.burin 0 2) {}) (atBundle 0 (rWord 0x9C 3 1 0 0 1 0) lanes) (fun t => (t.core (.burin 0 2)).vr 3 = 0x40000003) = true ∧
    gives (.vredadd (.burin 0 2) {}) (atBundle 0 (rWord 0x9C 3 1 0 0 9 0 1 1) lanes) (fun t => (t.core (.burin 0 2)).vr 3 = 0x40000000) = true ∧
    gives (.vredmax (.burin 0 2) {}) (atBundle 0 (rWord 0x9D 3 2 0 0 1 0) lanes) (fun t => (t.core (.burin 0 2)).vr 3 = 0x40400000) = true ∧
    gives (.vredmin (.burin 0 2) {}) (atBundle 0 (rWord 0x9E 3 2 0 0 9 0 1 1) lanes) (fun t => (t.core (.burin 0 2)).vr 3 = 0x40400000) = true := by decide +kernel

/-- 1.0 is added twice and merged: the sum rounds to 4.0. -/
theorem test_binned : bsAdd .fp64 (bsAdd .fp64 0 0x3FF0000000000000).1 0x3FF0000000000000 = (bsMake 2 0 (2 ^ 921), 0) ∧
    gives (.vbmrg (.burin 0 2) {}) (atBundle 0 (rWord 0xB1 3 1 0 0 0 0) { v := [(1, BitVec.ofNat 2048 (bsMake 2 0 (2 ^ 921))), (3, BitVec.ofNat 2048 (bsMake 2 0 (2 ^ 921)))] })
      (fun t => (t.core (.burin 0 2)).vr 3 = bsMake 4 0 (2 ^ 922)) = true ∧
    gives (.vbrnd (.burin 0 2) {}) (atBundle 0 (rWord 0xB2 3 1 0 0 8 0) { v := [(1, BitVec.ofNat 2048 (bsMake 4 0 (2 ^ 922)))] })
      (fun t => (t.core (.burin 0 2)).vr 3 = 0x4010000000000000) = true ∧
    gives (.vbadd (.burin 0 2) {}) (atBundle 0 (rWord 0xB0 3 1 0 0 8 0) { v := [(1, 0x3FF0000000000000)] }) (fun t => bsN ((t.core (.burin 0 2)).vr 3) = 2 ^ 920 ∧
      bsCount ((t.core (.burin 0 2)).vr 3) = 32) = true := by decide +kernel

theorem test_accumulators : gives (.accget (.burin 0 2) {}) (atBundle 0 (rWord 0xC2 3 1 0 5 0 0) { acc := [(1024 + 10 * 32 + 33, 7)] }) (fun t => eltAt 32 ((t.core (.burin 0 2)).vr 3) 33 = 7) = true ∧
    gives (.accput (.burin 0 2) {}) (atBundle 0 (rWord 0xC3 1 1 0 5 0 0) lanes) (fun t => (t.core (.burin 0 2)).accE 1 10 0 = 0x40000000 ∧ (t.core (.burin 0 2)).accE 1 10 1 = 3) = true := by
  decide +kernel

/-! ### Collectives -/

/-- The PF with arguments for a group on plate 0 of one ring and slots of 1 KiB; a group 3 of plate 0 with one ring of two, Created or Ready. -/
def colOn : State :=
  (((withOn [93] plateOn).wr (Reg.colArg 0 0) 1).wr (Reg.colArg 0 1) (1 + 2 ^ 7 + 2 ^ 15 + 2 ^ 20)).wr (Reg.colArg 0 2) 0
@[inherit_doc colOn] def grp (st : GroupSt) : Group :=
  { owner := 0, plates := [0], dims := 1, tc := 0, align := false, weight := 1, slots := 1, slotKib := 1, stageOff := 0, carry := 0, carryLen := 0,
    region := 0, st := st, rings := [(0, ⟨2, 0, 5, 6, 0⟩)], pkind := 2 }
@[inherit_doc colOn] def grouped (st : GroupSt) (s : State := colOn) : State := s.setGroup 3 (grp st)

theorem test_createGroup : (colOn.argGroup 0).plates = [0] ∧ (colOn.argGroup 0).dims = 1 ∧ (colOn.argGroup 0).slots = 1 ∧ (colOn.argGroup 0).weight = 1 ∧
    (colOn.argGroup 0).slotKib = 1 ∧ colOn.mapped (regBase + Reg.colCmd 0) = true ∧ colOn.freeIndex = some 0 ∧
    gives (.createGroup 0) colOn (fun t => (t.group 0).isSome ∧ t.rf (Reg.colCmd 0) F.colCmd_status = 0 ∧ t.colArg 0 0 = 1) = true := by decide +kernel

theorem test_groupCommands :
    gives (.setRing 0 3) ((grouped .created (((colOn.wr (Reg.colArg 0 0) 8).wr (Reg.colArg 0 1) (5 + 6 * 2 ^ 18)).setQp 5 { qpI with st := .active })).setQp 6 { qpI with st := .active })
      (fun t => (t.group 3).map (·.rings) = some [(0, ⟨2, 0, 5, 6, 0⟩)] ∧ t.rf (Reg.colCmd 0) F.colCmd_status = 0) = true ∧
    gives (.setProg 0 3) (grouped .created) (fun t => (t.group 3).map (·.pkind) = some 1) = true ∧
    gives (.enableGroup 0 3 []) (grouped .created) (fun t => (t.group 3).map (·.st) = some .ready) = true ∧
    gives (.enableGroup 0 3 []) (colOn.setGroup 3 { grp .created with pkind := 0 }) (fun t => (t.plate 0).load = some (0, builtIn) ∧ t.on (Reg.colCmd 0) F.colCmd_go) = true ∧
    gives (.disableGroup 0 3) (grouped .ready) (fun t => (t.group 3).map (·.st) = some .created) = true ∧
    gives (.destroyGroup 0 3) { grouped .created with qpe.regions := [(0, { owner := some 0, lastOwner := 0, gen := 1, len := 0 })] }
      (fun t => ((mget t.qpe.regions 0).map fun r => (r.gen, r.revoking)) = some (2, some true)) = true ∧
    gives (.queryGroup 0 3) (grouped .ready) (fun t => t.colArg 0 0 = 1) = true ∧
    gives (.queryGroup 0 3) (colOn.setGroup 3 { grp .ready with owner := 9 }) (fun t => t.rf (Reg.colCmd 0) F.colCmd_status = 0x61) = true := by decide +kernel

/-- A descriptor of a kind for group 3: 64 INT32 elements, or none of a BARRIER; with an operator where the kind has one. -/
def collWords (k : Nat) : List Nat :=
  [0, 0, 0, k * 2 ^ 56 + (if k = 1 ∨ k = 2 ∨ k = 5 then 2 ^ 48 else 0) + 3 * 2 ^ 32 + (if k = 7 then 0 else 64), 2 ^ 26 + 2 ^ 19 + 2 ^ 14 + 2 ^ 9, 0, 15]

/-- WQ 2 with a COLL entry of a kind; its group is 3. -/
def collQ (k : Nat) : State :=
  let e : Ent := { slot := 0, words := collWords k ++ [0x10 * 2 ^ 48] }
  { grouped .ready with wqe.wqs := [(2, { wqOn with ents := [e] })] }

theorem test_collEntries : ([(Instr.allreduce 2 [], 1), (.reduceScatter 2 [], 2), (.allgather 2 [], 3), (.broadcast 2 [], 4), (.reduce 2 [], 5), (.alltoall 2 [], 6),
      (.barrier 2 [], 7)] : List (Instr × Nat)).all (fun r =>
    let s : State := { collQ r.2 with col.groups := [(3, { grp .ready with pkind := 0, carryLen := 1 })] }
    ((s.nextEnt 2 0x10).map fun y => (y.1.ents.length, cKind y.2.words)) == some (1, r.2) && collReserved (collWords r.2) == 0 &&
    decide (s.collCheck 0 (collWords r.2 ++ [0x10 * 2 ^ 48]) = none) && decide (s.pd 93 = 2) &&
    gives r.1 s (fun t => (t.group 3).map (·.queue.length) = some 1 ∧ ((mget t.wqe.wqs 2).map fun q => q.ents.map (·.st)) = some [.started])) = true := by
  decide +kernel

theorem test_launch : let e : Ent := { slot := 0, words := [0, 0x10000, 0x20000, 0, 0, 0, 15, 0x10 * 2 ^ 48] }
    let s : State := { withOn [93] loaded with wqe.wqs := [(2, { wqOn with ents := [e] })] }
    s.collCheck 0 e.words = none ∧ gives (.launch 2 []) s (fun t => (t.plate 0).load = some (0x10000, 3) ∧ t.digest 0 = 0 ∧ (mget t.col.launches 0).isSome) = true := by
  decide +kernel

/-- A barrier of group 3 that ticket 4 of plate 0 waits for: queued, or running. -/
def job : CollJob := ⟨collWords 7, 0, .ticket 0 4, 0⟩
@[inherit_doc job] def barring (r : Option CollRun) (q : List CollJob) : State :=
  let s := (colOn.setQp 5 { qpI with st := .active }).setQp 6 { qpI with st := .active }
  (s.setPlate 0 { tickets := [(4, {})] }).setGroup 3 { grp .ready with run := r, queue := q, seq := 9 }

theorem test_collectiveStart : gives (.collectiveStart 3 []) (barring none [job])
      (fun t => ((t.group 3).bind (·.run)).map (·.seq) = some 9 ∧ (t.group 3).map (·.seq) = some 10) = true ∧
    gives (.collectiveStart 3 []) (barring (some ⟨job, 9, [], [], [], [], [], [], [], [], 0, 0⟩) [job]) (fun t => (t.group 3).map (·.seq) = some 9) = true := by decide +kernel

/-- The running barrier with its first chunk ready. -/
def ringing : State := barring (some { job := job, seq := 9, ready := [(0, 0)], data := [(0, [])] }) []

theorem test_chunkStart : (ringing.chunkTurn (ringing.ringPort ⟨2, 0, 5, 6, 0⟩)).map (·.1) = some 3 ∧ ringing.trkFree 5 { qpI with st := .active } = true ∧
    gives (.chunkStart (ringing.ringPort ⟨2, 0, 5, 6, 0⟩) []) ringing (fun t => ((mget t.qpe.qps 5).map fun q => q.txq.map (·.argA)) = some [2 ^ 30 + 9 * 2 ^ 20] ∧
      (t.group 3).map (·.busy) = some [0]) = true := by decide +kernel

/-- The same with a notice waiting on QP 6, or on QP 5. -/
def noticed (q v : Nat) : State := { ringing with col.notices := [(q, v, 0)] }

theorem test_notices :
    gives (.chunkNoticeReceived 6 []) (noticed 6 (2 ^ 30 + 9 * 2 ^ 20)) (fun t => ((t.group 3).bind (·.run)).map (·.spent) = some [0] ∧ t.col.notices = []) = true ∧
    gives (.chunkNoticeReceived 6 []) (noticed 6 (2 ^ 30 + 5 * 2 ^ 20)) (fun t => (t.group 3).map (·.st) = some .broken ∧
      mget (t.plate 0).tickets 4 = some { status := some 0x67 }) = true ∧
    gives (.slotReturnReceived 5) { (ringing.setGroup 3 { grp .ready with busy := [0] }) with col.notices := [(5, 2 ^ 31, 0)] } (fun t => (t.group 3).map (·.busy) = some []) = true := by
  decide +kernel

theorem test_recordDone : let k : Chunk := { ring := 0, stripe := 0, ph := 0, stage := 0, step := 0, unit := 0, units := 1, link := 0 }
    let s : State := { barring (some { job := ⟨collWords 1, 0, .ticket 0 4, 0⟩, seq := 9, asked := (List.range 8), live := 1 }) [] with
      col.bound := [(0, 0, 0)], col.recs := [(0, { count := 1, open_ := [(0, some (3, ⟨1, k, 0⟩))] })],
      mem := storeBytes (storeBytes [] (winBase 0 + 56) (leBytes 8 (2 ^ 63))) (winBase 0 + 2048) [7] }
    gives (.recordDone 0 0 []) s (fun t => ((t.group 3).bind (·.run)).map (·.data) = some [(0, [7, 0, 0, 0])] ∧ (t.recRing 0).open_ = []) = true := by decide +kernel

theorem test_collectiveEnd : gives (.collectiveEnd 3) (barring (some { job := job, seq := 9, started := [0, 1], spent := [0, 1] }) [])
      (fun t => mget (t.plate 0).tickets 4 = some { status := some 0 } ∧ ((t.group 3).bind (·.run)).isNone) = true ∧
    gives (.collectiveEnd 3) ringing (fun t => ((t.group 3).bind (·.run)).isSome) = true ∧
    gives (.collectiveTimeout 3) { barring (some { job := ⟨[0, 0, 0, 7 * 2 ^ 56, 5 * 2 ^ 32, 0, 0], 0, .ticket 0 4, 0⟩, seq := 9 }) [] with clk := 6000 }
      (fun t => mget (t.plate 0).tickets 4 = some { status := some 0x63 } ∧ (t.group 3).map (·.st) = some .broken) = true ∧
    gives (.collectiveTimeout 3) ringing (fun t => ((t.group 3).bind (·.run)).isSome) = true := by decide +kernel

/-! ### Counterproof -/

/-- Counterproof in a role and a state. -/
def cpfIn (role st : Nat) (s : State := hostUp) : State := withFields [(Reg.cpfCtrl, F.cpfCtrl_role, role), (Reg.cpfStatus, F.cpfStatus_state, st)] s
/-- One trace link up and the time locked, as an origin needs. -/
def originUp (role : Nat) : State :=
  cpfIn role 1 (withFields [(Reg.cpfCtrl, F.cpfCtrl_tlinks, 1), (Reg.timStatus, F.timStatus_lock, 1), (Reg.fabPortStatus 0, F.fabPortStatus_lstate, 4)] hostUp)

theorem test_cpfGo : (cpfIn 1 0).check 0 (regBase + Reg.cpfCtrl) = none ∧ gives (.cpfGo 0) (cpfIn 1 0) (fun t => t.cpfAt = (1, 0)) = true ∧
    gives (.cpfGo 0) (cpfIn 0 0) (fun t => t.cpfAt = (0, 0)) = true ∧ gives (.cpfStop 0) (cpfIn 2 1) (fun t => t.cpfAt = (3, 1)) = true ∧
    gives (.cpfStop 0) (cpfIn 1 2) (fun t => t.cpfAt = (3, 1) ∧ t.out.length = 1) = true ∧ gives (.cpfStop 0) (cpfIn 1 3) (fun t => t.cpfAt.1 = 0) = true := by decide +kernel

/-- The conditions of the origin hold when the partner's digest is this module's, for either role; an origin in the future is awaited; a
partner without lock ends it. -/
theorem test_originOk (r : Nat) (h : r = 1 ∨ r = 2) :
    (originUp r).originOk ((originUp r).rd Reg.topId).toNat ((originUp r).rf Reg.topBootStatus F.topBootStatus_version) (originUp r).cfgDig 12500 true = true := by
  rw [State.originOk, decide_eq_true (rfl : (originUp r).cfgDig = (originUp r).cfgDig)]
  obtain rfl | rfl := h <;> decide +kernel

theorem test_origin : gives (.cpfOriginReached 0 0 0 1250 true [] []) (withFields [(Reg.cpfOrigin, F.cpfOrigin_time, 9)] (originUp 1)) (fun t => t.cpfAt.1 = 1) = true ∧
    (originUp 1).originOk 0 0 0 1250 false = false ∧ (originUp 1).pd 94 = 2 ∧
    gives (.cpfOriginReached 0 0 0 1250 false [] []) (originUp 1) (fun t => t.cpfAt = (3, 7)) = true := by decide +kernel

/-- A record of cycle 5 and a follower 1,260 cycles after its origin. -/
def rec5 (k : Nat) (d : List Byte) : TraceRec := ⟨3, k, 5, d⟩
@[inherit_doc rec5] def following (fifo own : List TraceRec) : State := { withFields [(Reg.cpfCtrl, F.cpfCtrl_delay, 1250)] (cpfIn 2 2) with clk := 1008, cpf := { fifo := fifo, own := own } }

theorem test_arrival : gives (.traceRecordArrival (rec5 8 [1]) 0 false) (cpfIn 2 1) (fun t => t.cpf.fifo.length = 1) = true ∧
    gives (.traceRecordArrival (rec5 8 [1]) 1260 false) (following [] []) (fun t => t.cpfAt = (3, 5)) = true ∧
    gives (.traceRecordArrival ⟨3, 8, 50, []⟩ 1260 false) (following [] []) (fun t => t.cpf.fifo.length = 1) = true := by decide +kernel

theorem test_replay : (following [] []).follows = true ∧ (following [] []).cpfOwn = 1260 ∧
    gives (.replayInput false false) (following [rec5 8 [7]] []) (fun t => t.time = 7 ∧ t.cpf.fifo = []) = true ∧
    gives (.replayInput false false) (following [rec5 0x10 [7]] [rec5 0x10 [7]]) (fun t => t.cpf.own = [] ∧ t.cpfAt.1 = 2) = true ∧
    gives (.replayInput false false) (following [rec5 0x10 [7]] [rec5 0x10 [8]]) (fun t => t.cpfAt = (3, 2) ∧ t.rd (Reg.cpfMismatchFoll 0) = 8) = true ∧
    gives (.replayInput true false) (following [rec5 0x10 [7]] [rec5 0x10 [7]]) (fun t => t.cpfAt = (3, 3)) = true ∧
    gives (.replayInput false false) (following [rec5 0x1F []] []) (fun t => t.cpfAt = (3, 11)) = true ∧
    gives (.replayInput false false) (following [⟨3, 8, 50, []⟩] []) (fun t => t.cpf.fifo.length = 1) = true := by decide +kernel

theorem test_selftest : gives (.comparatorSelftest false false) (following [rec5 0x10 [7]] []) (fun t => t.rf Reg.cpfStatus F.cpfStatus_selftests = 1) = true ∧
    gives (.comparatorSelftest false true) (following [rec5 0x10 [7]] []) (fun t => t.cpfAt = (3, 3)) = true ∧
    gives (.verifiedReport 77) (cpfIn 1 2) (fun t => t.rf Reg.cpfVerified F.cpfVerified_cycle = 77) = true ∧
    gives (.verifiedReport 0) (following [] [rec5 0x10 [7]]) (fun t => t.rf Reg.cpfVerified F.cpfVerified_cycle = 4) = true := by decide +kernel

/-! ### Proof jobs -/

/-- Members 0 and 1 hold data, 2 holds P and 3 holds Q; this module is member 0. -/
def members4 : List Member := [⟨0, 0, 0, 0, true, false⟩, ⟨1, 1, 0, 1, true, false⟩, ⟨2, 2, 0, 0, false, false⟩, ⟨3, 3, 0, 0, false, false⟩]
@[inherit_doc members4] def group1 : ParityGroup := ⟨List.replicate 8 2, List.replicate 8 3, 8⟩
@[inherit_doc members4] def jobA : Job :=
  { id := 9, self := 0, rebuild := false, members := members4, groups := [group1], table := 0x50000, undo := 0x100000, undoPages := 16,
    parity := 0x200000, parityPages := 1024, flashEvery := 0, region := 0, pickable := 4 }
/-- The PF's arguments, and its job in a state. -/
def prfArgs (l : List Nat) (s : State) : State := l.zipIdx.foldl (fun t e => t.wr (Reg.prfArg 0 e.2) (BitVec.ofNat 64 e.1)) s
@[inherit_doc prfArgs] def withJob (st : Nat) (j : Job) (s : State := hostUp) : State := { s.setJobSt 0 st with prf.jobs := [(0, j)] }

/-- The job table of the four members at DPA 0x50000, mapped there for the PF. -/
def tabled : State := prfArgs [9 + 3 * 2 ^ 48, 0x50000, 0x100000, 16 + 1024 * 2 ^ 32, 0x200000]
  { hostUp with
    mem := [(0x50006, 1), (0x50010, 1), (0x50012, 1), (0x50015, 0x10), (0x50016, 1), (0x50020, 2), (0x50022, 2), (0x50030, 3), (0x50032, 3)] ++
      ((List.range 8).flatMap fun i => [(0x50040 + 4 * i, 2), (0x50042 + 4 * i, 3)]) ++ [(0x50060, 8)]
    xlt.cache := [⟨0, 0, 0, 16, 5, 0x50000, true, true⟩] }

theorem test_createJob : tabled.mapped (regBase + Reg.prfCmd 0) = true ∧
    ((tabled.prfBegun 0 1 0).readTable 0 0x50000 4 1 []).2 = some (members4, [group1]) ∧
    gives (.createJob 0 []) tabled (fun t => t.job 0 = some jobA ∧ t.jobSt 0 = 1 ∧ t.prfArg 0 5 = 1 ∧
      t.rf (Reg.prfCmd 0) F.prfCmd_status = 0 ∧ !t.on (Reg.prfCmd 0) F.prfCmd_go) = true := by decide +kernel

theorem test_createJob_data : tableBad jobA = false ∧ jobA.parityHeld 0 = 0 ∧ tabled.regionUse 0 < tabled.quota 0 F.vfmFnQuota_reg 4096 (2 ^ 24) ∧
    tabled.freeIndex = some 0 := by decide +kernel

theorem test_createJob_refused : gives (.createJob 0 []) (withJob 1 jobA) (fun t => t.rf (Reg.prfCmd 0) F.prfCmd_status = 0x70) = true ∧
    gives (.createJob 0 []) { hostUp with prf.jobs := (List.range 16).map fun i => (i + 1, jobA) } (fun t => t.rf (Reg.prfCmd 0) F.prfCmd_status = 0x72) =
      true := by decide +kernel

/-- A region of one page at DVA 0x50000 asked for. -/
def addingS : State := prfArgs [0x50000, 65536, 0] { withJob 1 jobA with xlt.cache := [⟨0, 0, 0, 16, 5, 0x50000, true, true⟩] }
@[inherit_doc addingS] def region1 : ProtRegion := ⟨0x50000, 65536, 0, 0, 0, [5], false⟩

theorem test_addRegion : ((addingS.prfBegun 0 2 0).xlRange 0 0 .write false 5 0 (xlFuel 65536) 0x50000 65536).2 = .ok [(.dpa 0x50000, 65536)] ∧
    gives (.addRegion 0) addingS (fun t => (t.job 0).map (fun j => j.regions) = some [(0, { region1 with fresh := true })] ∧
      t.rf (Reg.prfCmd 0) F.prfCmd_status = 0) = true ∧
    gives (.addRegion 0) (prfArgs [1, 65536, 0] (withJob 1 jobA)) (fun t => t.rf (Reg.prfCmd 0) F.prfCmd_status = 0x71) = true ∧
    gives (.addRegion 0) (withJob 3 jobA) (fun t => t.rf (Reg.prfCmd 0) F.prfCmd_status = 0x70) = true := by decide +kernel

theorem test_removeRegion : gives (.removeRegion 0 0) { withJob 2 { jobA with regions := [(0, region1)] } with mem := [(0x50003, 7)] }
    (fun t => (t.job 0).map (fun j => (j.regions, j.gone)) = some ([], [(0, [(3, 7)])]) ∧ t.rf (Reg.prfCmd 0) F.prfCmd_status = 0) = true := by
  decide +kernel

/-- QP 7 of the PF offered for member 2. -/
def bindingS (st : QpSt) : State := prfArgs [7 + 2 * 2 ^ 18, 0x305] { withJob 1 jobA with qpe.qps := [(7, { qpI with st := st })] }

theorem test_bindQp : (bindingS .active).engineQp 7 = false ∧
    gives (.bindQp 0) (bindingS .active) (fun t => (t.job 0).map (·.qps) = some [(2, 7, 0x305)]) = true ∧
    gives (.bindQp 0) (bindingS .idle) (fun t => t.rf (Reg.prfCmd 0) F.prfCmd_status = 0x71) = true := by decide +kernel

theorem test_bindCommitWq : gives (.bindCommitWq 0) (prfArgs [4] { withJob 1 jobA with wqe.wqs := [(4, { wq0 with completed := 9 })] })
      (fun t => (t.job 0).map (·.commitWq) = some (some 4) ∧ (mget t.wqe.wqs 4).map (·.completed) = some 0) = true ∧
    gives (.bindCommitWq 0) (prfArgs [4] { withJob 1 jobA with wqe.wqs := [(4, wqOn)] }) (fun t => t.rf (Reg.prfCmd 0) F.prfCmd_status = 0x71) =
      true := by decide +kernel

theorem test_step : gives (.step 0) (prfArgs [1] (withJob 2 jobA)) (fun t => t.jobSt 0 = 3 ∧ (t.job 0).map (fun j => (j.cut, j.stepping)) = some (1, true) ∧
      t.rf (Reg.vfmDlogCmd 0) F.vfmDlogCmd_active1 = 1) = true ∧
    gives (.step 0) (prfArgs [2] (withJob 3 { jobA with cut := 1, stepping := true })) (fun t => (t.job 0).map (·.waiting) = some (some 2)) = true ∧
    gives (.step 0) (prfArgs [5] (withJob 2 jobA)) (fun t => t.rf (Reg.prfCmd 0) F.prfCmd_status = 0x71) = true := by decide +kernel

theorem test_step_logged : (withJob 2 { jobA with regions := [(0, region1)] }).loggedIn 0 5 = false ∧
    ({ withJob 2 jobA with mem := [(0, 0x20)] } : State).loggedIn 0 5 = true := by decide +kernel

theorem test_resume : gives (.resume 0) (withJob 4 { jobA with recovered := true }) (fun t => t.jobSt 0 = 2 ∧ t.rf (Reg.prfCmd 0) F.prfCmd_status = 0) = true ∧
    gives (.resume 0) (withJob 4 jobA) (fun t => t.rf (Reg.prfCmd 0) F.prfCmd_status = 0x70) = true ∧
    gives (.resume 0) (withJob 5 jobA) (fun t => t.rf (Reg.prfCmd 0) F.prfCmd_status = 0x73) = true := by decide +kernel

/-- A usable flash proof 50 of the PF in volume 4. -/
def flashed (j : Job) : State := { prfArgs [50] (withJob 5 j) with
  ps.vols := [(4, { kind := .proof, owner := 0, segs := [0], proofs := [{ n := 50, regions := [], image := [], parity := [(3, [(0, 1)])], usable := true }] })] }

theorem test_restoreFlash : gives (.restoreFlash 0) (flashed jobA) (fun t => (t.job 0).map (·.loading) = some (some 50) ∧ t.on (Reg.prfCmd 0) F.prfCmd_go) = true ∧
    gives (.restoreFlash 0) (prfArgs [49] (flashed jobA)) (fun t => t.rf (Reg.prfCmd 0) F.prfCmd_status = 0x74) = true ∧
    gives (.flashRestoreDone 0 true) (flashed { jobA with loading := some 50 }) (fun t => t.committed 0 = 50 ∧ t.jobSt 0 = 4 ∧
      (t.job 0).map (·.parityMem) = some [(3, [(0, 1)])]) = true ∧
    gives (.flashRestoreDone 0 false) (flashed { jobA with loading := some 50 }) (fun t => t.rf (Reg.prfCmd 0) F.prfCmd_status = 0x74 ∧
      t.mon.evQ.map (·.code) = [0xF0A]) = true := by decide +kernel

theorem test_destroyJob : gives (.destroyJob 0) { withJob 2 { jobA with self := 1 } with
      qpe.regions := [(0, { owner := some 0, lastOwner := 0, gen := 3, base := 0, len := 65536, space := 0, remoteW := true, use := .job 0 })] }
    (fun t => t.job 0 = none ∧ (mget t.qpe.regions 0).map (fun r => (r.gen, r.revoking)) = some (4, some true) ∧
      t.out.map (·.dst) = [[7, 0, 111, 9, 1]]) = true := by decide +kernel

/-- A fifth member, a spare, in the table of `tabled`. -/
def spares (self : Nat) : State := prfArgs [4 * 2 ^ 48, 0x50000] { withJob 2 { jobA with self := self } with
  mem := (tabled.mem.take 9) ++ [(0x50040, 4), (0x50046, 2)] ++ ((List.range 8).flatMap fun i => [(0x50080 + 4 * i, 2), (0x50082 + 4 * i, 3)]) ++ [(0x500A0, 8)]
  xlt.cache := [⟨0, 0, 0, 16, 5, 0x50000, true, true⟩] }

theorem test_addSpares : ((((spares 1).prfBegun 0 10 0).readTable 0 0x50000 5 1 []).1.rd (Reg.prfCmd 0)).getLsbD 63 = true ∧
    gives (.addSpares 0 []) (spares 1) (fun t => (t.job 0).map (fun j => j.newMembers.map (·.length)) = some (some 5) ∧
      (t.out.drop (t.out.length - 1)).map (·.dst) = [[7, 0, 112, 9, 5, 1]]) = true ∧
    gives (.addSpares 0 []) (spares 0) (fun t => (t.job 0).map (·.members.length) = some 5 ∧ t.rf (Reg.prfCmd 0) F.prfCmd_status = 0) = true ∧
    gives (.addSpares 0 []) { spares 1 with prf.jobs := [(0, { jobA with self := 1, groups := [] })] }
      (fun t => t.rf (Reg.prfCmd 0) F.prfCmd_status = 0x71) = true := by decide +kernel

theorem test_addSparesReport : gives (.addSparesReportReceived 9 0 4 true) ((withJob 2 { jobA with newMembers := some members4 }).prfBegun 0 10 0)
      (fun t => t.rf (Reg.prfCmd 0) F.prfCmd_status = 0 ∧ (t.job 0).map (·.newMembers) = some none) = true ∧
    gives (.addSparesReportReceived 9 1 5 false) (withJob 2 jobA) (fun t => t.out.map (·.dst) = [[7, 1, 113, 9, 5]] ∧
      (t.job 0).map (·.spareReports) = some [1]) = true := by decide +kernel

/-! ### Proof steps, losses and recovery -/

theorem test_undoCopyDone : gives (.undoCopyDone 5) { withJob 2 { jobA with regions := [(0, region1)] } with mem := [(0x50003, 7)] }
      (fun t => ((t.job 0).map fun j => mget ((mget j.gens 1).getD []) 0) = some (some [(3, 7)])) = true ∧
    gives (.undoCopyDone 5) (withJob 2 { jobA with regions := [(0, region1)], gens := [(1, [(0, [])])] }) (fun t => ((t.job 0).map fun j => mget ((mget j.gens 1).getD []) 0) =
      some (some [])) = true := by decide +kernel

/-- Member 1 of the job, whose parent is member 0. -/
def jobB : Job := { jobA with self := 1 }

theorem test_peerCopyDone : (({ jobA with regions := [(3, { region1 with len := 0 })], peersLeft := [3] } : Job).regions.length = 1) ∧
    gives (.peerCopyDone 0 3 true []) (withJob 3 { jobA with regions := [(3, { region1 with len := 0 })], peersLeft := [3] })
      (fun t => (t.job 0).map (·.peersLeft) = some []) = true ∧
    gives (.peerCopyDone 0 3 false []) (withJob 3 { jobB with regions := [(3, region1)], peersLeft := [3], stepping := true })
      (fun t => t.out.map (·.dst) = [[7, 0, 103, 9, 0]] ∧ (t.job 0).map (·.failSent) = some true) = true := by decide +kernel

/-- Member 2, the holder of P, with QP 7 to member 1 and a notice waiting. -/
def holder (v : Nat) (j : Job := jobA) : State :=
  { withJob 3 { j with self := 2, qps := [(1, 7, 0x305)] } with
    col := { notices := [(7, v, 0)] }, qpe.qps := [(7, { qpI with st := .active })], xlt.cache := [⟨0, 0, 0, 16, 0x30, 0x300000, true, true⟩] }

theorem test_deltaNotice : gives (.deltaNoticeReceived 7 []) (holder (2 * 2 ^ 28 + 5)) (fun t => (t.job 0).map (·.announced) = some [(1, 5)] ∧
      t.col.notices = []) = true ∧
    gives (.deltaNoticeReceived 7 []) (holder (3 * 2 ^ 28 + 5) { jobA with slots := [(1, [5, 6])] }) (fun t => (t.job 0).map (·.slots) = some [(1, [6])]) = true := by
  decide +kernel

/-- The holder's parity area is mapped so that member 1's slot is read. -/
theorem test_deltaNotice_reads : ({ holder (2 ^ 28 + 5) with col.notices := [] } : State).xlRange 0 0 .read false 5 0 (xlFuel pageSize)
    (0x200000 + (16 * ({ jobA with self := 2 } : Job).slotRank 2 1) * pageSize) pageSize = ({ holder (2 ^ 28 + 5) with col.notices := [] }, .ok [(.dpa 0x300000, 65536)]) := by
  decide +kernel

/-- A member whose step is complete but for the end. -/
def readyB : Job := { jobB with cut := 1, stepping := true, told := [2, 3] }

theorem test_memberPrepared : (withJob 3 readyB).isPrepared readyB = true ∧ readyB.parent 1 = some 0 ∧ readyB.kidList = [] ∧ readyB.leads = false ∧
    gives (.memberPrepared 0) ((withJob 3 readyB).prfBegun 0 6 0) (fun t => t.rf (Reg.prfCmd 0) F.prfCmd_status = 0 ∧ !t.on (Reg.prfCmd 0) F.prfCmd_go ∧
      t.out.map (·.dst) = [[7, 0, 101, 9, 1, 1]]) = true ∧ gives (.memberPrepared 0) (withJob 3 jobB) (fun t => t.out = []) = true := by decide +kernel

theorem test_preparedReceived : gives (.preparedReceived 9 1 2) (withJob 3 jobA) (fun t => (t.job 0).map (·.kids) = some [2]) = true ∧
    ({ jobA with cut := 1, ready := true } : Job).kidList = [1, 2, 3] ∧
    gives (.preparedReceived 9 1 3) (withJob 3 { jobA with cut := 1, ready := true, stepping := true, kids := [1, 2] }) (fun t => t.committed 0 = 1 ∧ t.jobSt 0 = 2) =
      true := by decide +kernel

theorem test_commitReceived : gives (.commitReceived 9 1 none) { withOn [94, 95] (withJob 3 { readyB with gens := [(1, [(0, [])]), (2, [])], commitWq := some 4 }) with
      wqe.wqs := [(4, wq0)] } (fun t => t.committed 0 = 1 ∧ (t.job 0).map (fun j => j.gens.map (·.1)) = some [2] ∧ (mget t.wqe.wqs 4).map (·.completed) = some 1 ∧
      t.mon.evQ.map (·.code) = [0xF04]) = true ∧
    gives (.commitReceived 9 5 none) (withJob 3 readyB) (fun t => t.committed 0 = 0) = true ∧
    gives (.commitReceived 9 5 (some 2)) (withJob 3 { jobA with asking := true }) (fun t => (t.job 0).map (·.answers) = some [(2, 5)]) = true ∧
    ({ jobA with asking := true, members := members4.take 2 } : Job).kidList = [1] := by decide +kernel

theorem test_settled : (withJob 3 jobA).cpfRuns = false ∧ (withJob 3 jobA).logs = true ∧ (withJob 3 jobA).rf Reg.cpfStatus F.cpfStatus_state = 0 ∧
    ((List.range 64).all fun p => !(withJob 3 jobA).runs p) = true ∧ (withJob 3 jobA).wqe.wqs = [] ∧ (withJob 3 jobA).qpe.qps = [] ∧
    (withJob 3 jobA).col.groups = [] := by decide +kernel

theorem test_failReceived : gives (.failReceived 9 1) ((withJob 3 { jobA with cut := 1, stepping := true }).prfBegun 0 6 0) (fun t => t.jobSt 0 = 4 ∧
      t.rf (Reg.prfCmd 0) F.prfCmd_status = 0x0F ∧ (t.job 0).map (fun j => (j.target, j.restoring)) = some (0, true) ∧
      (t.mon.logVol.map (·.code)) = [0xF05]) = true ∧ gives (.failReceived 9 1) (withJob 4 jobA) (fun t => t.mon.logVol = []) = true := by decide +kernel

/-- A member with volume 4, whose flash proof 50 is being written or has been. -/
def flashes (st : Nat) (j : Job) : State := { withFields [(Reg.prfPsHealth, F.prfPsHealth_state, st)] (withJob 2 { j with flashN := 50 }) with
  ps.vols := [(4, { kind := .proof, owner := 0, segs := [0], proofs := [{ n := 50, regions := [], image := [], parity := [] }] })] }

theorem test_flashProofWritten : gives (.flashProofWritten 0) (flashes 0 { jobB with snap := some { n := 50, regions := [], image := [], parity := [] } })
      (fun t => t.out.map (·.dst) = [[7, 0, 104, 9, 50, 1]] ∧ (mget t.ps.vols 4).map (·.proofs.length) = some 2) = true ∧
    gives (.flashProofWritten 0) (flashes 2 { jobB with snap := some { n := 50, regions := [], image := [], parity := [] } })
      (fun t => t.mon.evQ.map (·.code) = [0xF0B] ∧ (t.job 0).map (·.flashFailed) = some true) = true := by decide +kernel

theorem test_flashReceived : gives (.flashDoneReceived 9 50 2) (flashes 0 jobA) (fun t => (t.job 0).map (·.flashKids) = some [2]) = true ∧
    gives (.flashDoneReceived 9 50 3) (flashes 0 { jobA with flashSelf := true, flashKids := [1, 2] }) (fun t => t.rd (Reg.prfFlash 0) = 50) = true ∧
    gives (.flashDoneReceived 9 7 3) (flashes 0 jobA) (fun t => (t.job 0).map (·.flashKids) = some []) = true ∧
    gives (.flashFailedReceived 9 50 3) (flashes 0 { jobB with members := (List.range 18).map fun i => ⟨i, i, 0, 0, false, false⟩ })
      (fun t => (t.job 0).map (·.flashFailed) = some false) = true ∧
    gives (.flashUsableReceived 9 50) (flashes 0 jobB) (fun t => t.rd (Reg.prfFlash 0) = 50 ∧ (mget t.ps.vols 4).map (fun y => y.proofs.map (·.usable)) =
      some [true]) = true := by decide +kernel

/-- Member 1 of eighteen: its parent is member 0 and its child member 17. -/
theorem test_flashFailed : ({ jobB with members := (List.range 18).map fun i => ⟨i, i, 0, 0, false, false⟩ } : Job).kidList = [17] ∧
    gives (.flashFailedReceived 9 50 17) (flashes 0 { jobB with members := (List.range 18).map fun i => ⟨i, i, 0, 0, false, false⟩ })
      (fun t => t.out.map (·.dst) = [[7, 0, 105, 9, 50, 1]]) = true := by decide +kernel

/-- A ring of four nodes; this is node 0. -/
def ring4 : State := withFields [(Reg.fabGeom, F.fabGeom_dims, 1), (Reg.fabGeom, F.fabGeom_size, 4)] (withOn [94])

theorem test_heartbeats : ring4.node = 0 ∧ ring4.neighbours 0 = [1, 3] ∧ ring4.neighbours 1 = [0, 2] ∧ ring4.on Reg.prfCtrl F.prfCtrl_hb_en = true ∧
    gives .heartbeatDue ring4 (fun t => t.out.map (·.dst) = [[7, 1, 120, 0], [7, 3, 120, 0]]) = true ∧
    gives (.heartbeatReceived 1) { ring4 with clk := 5, prf.suspects := [65536] } (fun t => mget t.prf.heard 1 = some 5 ∧ t.prf.suspects = []) = true ∧
    gives (.heartbeatSilence 1) { ring4 with clk := 50000000, prf.heard := [(1, 0)] } (fun t => t.prf.suspects = [65536] ∧ t.mon.evQ.map (·.code) = [0xF01] ∧
      t.out.map (·.dst) = [[7, 2, 121, 1, 0, 0]]) = true ∧
    gives (.heartbeatSilence 1) { ring4 with clk := 49999999, prf.heard := [(1, 0)] } (fun t => t.prf.suspects = []) = true := by decide +kernel

theorem test_suspectReceived : gives (.suspectReceived 1 2 false) { ring4 with prf.suspects := [65536] } (fun t => (t.fab.faults.map fun e => (e.lost, e.node)) =
      [(true, 1)] ∧ t.mon.logVol.map (·.code) = [0xF02]) = true ∧ ring4.nodeLostAt 1 = false ∧ ((List.range 12).all fun n => !ring4.fabActive n) = true := by decide +kernel

theorem test_lostReceived : gives (.lostReceived 0) (withJob 2 jobA) (fun t => t.jobSt 0 = 6 ∧ t.mon.logVol.map (·.code) = [0xF06]) = true ∧
    gives (.lostReceived 5) (withJob 2 jobA) (fun t => t.jobSt 0 = 2) = true := by decide +kernel

theorem test_leaveReceived : gives (.leaveReceived 9 1) ((withJob 2 jobA).wr (Reg.prfCommitted 0) 4) (fun t => t.jobSt 0 = 4 ∧
      (t.job 0).map (fun j => (j.lostSet, j.target)) = some ([1], 4)) = true ∧ ({ jobA with lostSet := [1] } : Job).broken = none ∧
    ({ jobA with lostSet := [1] } : Job).leads = true ∧ gives (.leaveReceived 9 2) (withJob 2 jobB) (fun t => (t.job 0).map (·.lostSet) = some [2]) = true := by
  decide +kernel

theorem test_faultReport : gives (.faultReportReceived 7 3 0x7010005 99 2 []) hostUp (fun t => (mget t.prf.windows 0x7010005).map (fun w => (w.count, w.origins)) =
      some (3, [7])) = true ∧
    gives (.faultReportReceived 8 3 5 99 2 []) { hostUp with prf.windows := [(5, ⟨⟨7, 1, 5, 4, 0, none⟩, 1, 4, [7], []⟩)] }
      (fun t => (mget t.prf.windows 5).map (fun w => (w.count, w.origins, w.opened)) = some (7, [7, 8], 1)) = true ∧
    gives (.faultReportReceived 8 3 5 99 2 []) (withFields [(Reg.prfCtrl, F.prfCtrl_sink_node, 4)]) (fun t => t.prf.windows = []) = true := by decide +kernel

/-- The window of a link's two reports: this end's with a reason and acknowledgement, the other's with reason 2 or 1 and good frame 6. -/
def window (ra aa rb clk : Nat) : State := { hostUp with
  clk := clk
  prf.windows := [(0x7010003, ⟨⟨2, 7, 0x7010003, 0, 0, none⟩, 0, 9, [2], [⟨2, 7, 0x7010003, 0, 0, some (ra, 0, aa, 3, 1)⟩]⟩)]
  prf.downs := [⟨3, 7, 0x7010002, 0, 0, some (rb, 6, 0, 2, 1)⟩] }

theorem test_windowEnd : gives (.faultReportWindowEnd 0x7010003) (window 3 7 1 1000000) (fun t => t.prf.windows = [] ∧ t.prf.blames = [.direction 2 3] ∧
      t.mon.evQ.map (fun e => (e.code, e.count)) = [(0xF03, 9)]) = true ∧
    gives (.faultReportWindowEnd 0x7010003) (window 3 8 1 1000000) (fun t => t.prf.blames = [.direction 3 2]) = true ∧
    gives (.faultReportWindowEnd 0x7010003) (window 2 8 2 1000000) (fun t => t.prf.blames = [.cable 2 3]) = true ∧
    gives (.faultReportWindowEnd 0x7010003) (window 2 8 2 999999) (fun t => t.prf.windows.length = 1) = true := by decide +kernel

theorem test_rollbackReceived : gives (.rollbackReceived 9 0 [3] false) (withJob 3 { jobA with members := members4.take 2 ++ [⟨3, 3, 0, 0, false, true⟩] }) (fun t => t.jobSt 0 = 4 ∧
      (t.out.map (·.dst)) = [[7, 1, 107, 9, 0, 0, 3]]) = true ∧
    gives (.rollbackReceived 9 0 [3] false) (withJob 6 jobB) (fun t => t.jobSt 0 = 6) = true ∧
    gives (.rollbackReceived 9 0 [3] true) (withJob 3 jobB) (fun t => t.jobSt 0 = 5) = true := by decide +kernel

/-- The hypotheses of a restore and of a rebuild of one page. -/
theorem test_restorable : ({ jobB with restoring := true, gens := [(1, [(0, [(3, 7)])])], regions := [(0, region1)] } : Job).leads = false ∧
    5 * pageSize + pageSize ≤ hbmEnd ∧
    gives (.rollbackRestoreDone 0) (withJob 4 { jobB with restoring := true }) (fun t => t.out.map (·.dst) = [[7, 0, 108, 9, 0, 1]] ∧
      (t.job 0).map (·.rolledSelf) = some true) = true := by
  decide +kernel

theorem test_rebuildPage : (rebuildPage [⟨0, 0, 0, [5, 0, 1]⟩, ⟨0, 0, 16, [7, 0, 3]⟩] [0, 1] 0 0 1) = some [(0, 2), (2, 2)] ∧
    rebuildPage [⟨0, 0, 0, [5, 0, 1]⟩, ⟨0, 0, 17, [1, 0, 5]⟩] [0, 1] 0 0 1 = some [(0, 2), (2, 2)] ∧
    rebuildPage [⟨0, 0, 16, [7, 0, 3]⟩, ⟨0, 0, 17, [1, 0, 5]⟩] [0, 1] 0 0 1 = some [(0, 2), (2, 2)] := by decide +kernel

theorem test_rolledReceived : gives (.rolledReceived 9 2 false) (withJob 4 jobA) (fun t => (t.job 0).map (·.rolled) = some [2]) = true ∧
    gives (.rolledReceived 9 2 true) (withJob 4 { jobA with rolledSelf := true, rolled := [1, 3], lostSet := [2] }) (fun t => t.jobSt 0 = 4 ∧
      (t.job 0).map (fun j => (j.recovered, j.lostSet)) = some (true, [])) = true := by decide +kernel

theorem test_takeover : gives (.takeoverReceived 77) hostUp (fun t => t.rf Reg.topReset F.topReset_node_ovr = 77 ∧
      t.on Reg.topReset F.topReset_node_ovr_en ∧ t.rf Reg.topBootStatus F.topBootStatus_cause = 4 ∧ t.rf Reg.topBootStatus F.topBootStatus_ready = 0) = true ∧
    gives (.takeoverReceived 77) { hostUp with top.stopped := true } (fun t => t.rf Reg.topReset F.topReset_node_ovr = 0) = true := by decide +kernel

theorem test_moveReceived : gives (.moveReceived 5 9 0) hostUp (fun t => t.fab.moves = [(5, 9)] ∧ t.fab.routeDue) = true ∧
    gives (.moveReceived 5 9 0) { hostUp with fab.moves := [(5, 9)] } (fun t => !t.fab.routeDue) = true := by decide +kernel

theorem test_recoveredReceived : gives (.recoveredReceived 9 6) (withJob 4 jobB) (fun t => t.committed 0 = 6 ∧ (t.job 0).map (·.recovered) = some true) = true ∧
    gives (.recoveredReceived 9 6) (withJob 2 jobB) (fun t => t.committed 0 = 0) = true := by decide +kernel

/-! ### The proof store -/

/-- Store arguments, and volume 5 as given. -/
def psArgs (l : List Nat) (s : State := hostUp) : State := l.zipIdx.foldl (fun t e => t.wr (Reg.prfPsArg e.2) (BitVec.ofNat 64 e.1)) s
@[inherit_doc psArgs] def vol5 (x : Vol) (s : State := hostUp) : State := { s with ps.vols := [(5, x)] }
@[inherit_doc psArgs] def trace5 : Vol := { kind := .trace, owner := 1025, segs := [7], data := List.replicate 4096 3 }

theorem test_createVol : hostUp.check 0 (regBase + Reg.prfPsCmd) = none ∧
    gives (.createVol 0) (psArgs [5 + 64 + 2 * 2 ^ 32]) (fun t => (mget t.ps.vols 5).map (fun x => (x.kind, x.segs)) = some (.trace, [0, 0]) ∧
      t.rf Reg.prfPsCmd F.prfPsCmd_result = 0 ∧ t.ps.free = [(0, 55368)]) = true ∧
    gives (.createVol 0) (psArgs [1 + 64 + 2 * 2 ^ 32]) (fun t => t.rf Reg.prfPsCmd F.prfPsCmd_result = 2) = true ∧
    gives (.createVol 0) { psArgs [5 + 64 + 2 * 2 ^ 32] with ps.free := [(0, 1)] } (fun t => t.rf Reg.prfPsCmd F.prfPsCmd_result = 3) = true ∧
    gives (.createVol 0) (psArgs [5 + 128]) (fun t => t.rf Reg.prfPsCmd F.prfPsCmd_result = 1) = true := by decide +kernel

theorem test_deleteVol : gives (.deleteVol 0) (psArgs [5] (vol5 trace5)) (fun t => mget t.ps.vols 5 = none ∧ t.ps.free = [(0, 55370), (8, 1)]) = true ∧
    gives (.deleteVol 0) (psArgs [1]) (fun t => t.rf Reg.prfPsCmd F.prfPsCmd_result = 2) = true ∧
    gives (.queryVol 0) (psArgs [5] (vol5 trace5)) (fun t => t.rd (Reg.prfPsArg 1) = 4096 ∧ t.psArg 0 18 8 = 1025 ∧ t.psArg 0 47 32 = 1) = true := by decide +kernel

theorem test_volumeRead : gives (.volumeRead 0 0 0 none) (psArgs [5, 4096, 4096] (vol5 trace5)) (fun t => t.rf Reg.prfPsCmd F.prfPsCmd_result = 4) = true ∧
    hostUp.check 0 0x40 = none ∧ hostUp.biased 0x40 4096 = false ∧
    gives (.volumeRead 0 0 0 none) (psArgs [5, 0, 0, 0x40] (vol5 trace5)) (fun t => t.rf Reg.prfPsCmd F.prfPsCmd_result = 0) = true ∧
    gives (.volumeRead 0 0 0 (some 9)) (psArgs [5, 0, 4096, 0x40] (vol5 trace5)) (fun t => t.rf Reg.prfPsCmd F.prfPsCmd_result = 5 ∧
      t.mon.evQ.map (fun e => (e.code, e.arg1)) = [(0xF0A, 9)]) = true := by decide +kernel

theorem test_volumeWrite : gives (.volumeWrite 0 []) (psArgs [5, 0, 0] (vol5 { trace5 with kind := .proof })) (fun t => t.rf Reg.prfPsCmd F.prfPsCmd_result = 2) = true ∧
    gives (.volumeWrite 0 []) (withFields [(Reg.prfPsHealth, F.prfPsHealth_state, 2)] (psArgs [5, 0, 0] (vol5 trace5)))
      (fun t => t.rf Reg.prfPsCmd F.prfPsCmd_result = 6) = true ∧
    gives (.volumeWrite 0 []) (psArgs [5, 0, 0] (vol5 { trace5 with buf := [1] })) (fun t => t.rf Reg.prfPsCmd F.prfPsCmd_result = 0 ∧
      (mget t.ps.vols 5).map (·.buf) = some []) = true ∧
    gives (.volumeWrite 0 []) (psArgs [5, 0, 4096] (vol5 { trace5 with segs := [] })) (fun t => t.rf Reg.prfPsCmd F.prfPsCmd_result = 3 ∧
      t.mon.evQ.map (·.code) = [0xF0B]) = true := by decide +kernel

theorem test_truncate : gives (.truncate 0) (psArgs [5] (vol5 trace5)) (fun t => (mget t.ps.vols 5).map (·.data) = some []) = true ∧
    gives (.truncate 0) (psArgs [5] (vol5 { trace5 with kind := .proof })) (fun t => t.rf Reg.prfPsCmd F.prfPsCmd_result = 2) = true ∧
    gives (.truncate 0) (withFields [(Reg.prfPsHealth, F.prfPsHealth_state, 3)] (psArgs [5] (vol5 trace5))) (fun t => t.rf Reg.prfPsCmd F.prfPsCmd_result = 5) =
      true := by decide +kernel

theorem test_powerFail : gives (.powerFail true) hostUp (fun t => t.top.held ∧ !t.top.pgIn ∧ t.ps.failed ∧ t.pd 84 = 0 ∧ !t.on Reg.topBootStatus F.topBootStatus_ready) =
      true ∧ gives (.powerFail false) { hostUp with top.held := true } (fun t => t.pd 84 = 2) = true := by decide +kernel

theorem test_psCheckpoint : gives .psCheckpoint { vol5 trace5 with ps.clean := false, ps.waitCkpt := true } (fun t => t.ps.clean ∧ (t.ps.ckpt.map (·.1)) = [5]) =
      true ∧ gives .psCheckpoint hostUp (fun t => t.ps.clean) = true := by decide +kernel

theorem test_holdup : gives (.holdupTest 6000) hostUp (fun t => !t.ps.holdupLow) = true ∧
    gives (.holdupTest 4000) hostUp (fun t => t.ps.holdupLow ∧ t.mon.logVol.map (fun e => (e.code, e.arg0)) = [(0xF0D, 4000)]) = true := by decide +kernel

theorem test_upkeep : gives (.psScrub 5 0 96 false 0 0) (vol5 trace5) (fun t => (mget t.ps.vols 5).map (·.segs) = some [7]) = true ∧
    gives (.psScrub 5 0 97 false 0 0) (vol5 trace5) (fun t => (mget t.ps.vols 5).map (·.segs) = some [0] ∧ t.ps.free = [(0, 55369), (8, 1)]) = true ∧
    gives (.wearLevelMove 5 0 30) (withFields [(Reg.prfPsHealth, F.prfPsHealth_max_pe, 308)] (vol5 trace5)) (fun t => (mget t.ps.vols 5).map (·.segs) = some [0]) = true ∧
    gives (.wearLevelMove 5 0 30) (withFields [(Reg.prfPsHealth, F.prfPsHealth_max_pe, 307)] (vol5 trace5)) (fun t => (mget t.ps.vols 5).map (·.segs) = some [7]) = true ∧
    gives (.programFailure 4 100 false) hostUp (fun t => t.spareBlocks 4 = 222 ∧ t.rf (Reg.prfPsStat 5) F.prfPsStat_count = 1) = true ∧
    gives (.eraseFailure 4 true) hostUp (fun t => t.ps.dies = [4] ∧ t.mon.evQ.map (fun e => (e.code, e.inst)) = [(0xF0E, 4)]) = true := by decide +kernel

/-! ### Mailboxes, interrupts and monitors -/

/-- Channel 3 from the PF to control core 0x8A0's neighbour 0x801, with a queue. -/
def chan3 (q : List MbxNotice) (s : State := hostUp) : State := { withFields [(Reg.mbxChan 3, F.mbxChan_en, 1), (Reg.mbxChan 3, F.mbxChan_sender, 0),
  (Reg.mbxChan 3, F.mbxChan_receiver, 0x801)] s with icu.mbx := [(3, { q := q, nextSeq := 9 })] }

theorem test_mbxSend : (chan3 []).mbxEn 3 = true ∧
    gives (.mbxSend 0 3 7) (chan3 []) (fun t => (t.chan 3).q = [⟨7, 9, 0⟩] ∧ (t.chan 3).nextSeq = 10) = true ∧
    gives (.mbxSend 0 3 7) (chan3 [⟨1, 8, 0⟩]) (fun t => (t.chan 3).q.length = 1 ∧ t.on (Reg.mbxTxStat 3) F.mbxTxStat_full ∧
      t.mon.evQ.map (fun e => (e.code, e.arg0)) = [(0xB01, 65539)]) = true ∧
    gives (.mbxSend 5 3 7) (chan3 []) (fun t => (t.chan 3).q = [] ∧ t.mon.evQ.map (·.code) = [3]) = true := by decide +kernel

theorem test_mbxPop : gives (.mbxPop 0x801 3) (chan3 [⟨1, 8, 0⟩, ⟨2, 9, 0⟩]) (fun t => (t.chan 3).q = [⟨2, 9, 0⟩]) = true ∧
    gives (.mbxPop 0x801 3) (chan3 [⟨1, 8, 0⟩] { hostUp with clk := 5, icu.woken := [(127, none)] }) (fun t => (t.chan 3).q = [] ) = true ∧
    gives (.mbxPop 0x801 3) (chan3 []) (fun t => t.on (Reg.mbxRxStat 3) F.mbxRxStat_underflow) = true ∧
    gives (.mbxPop 0 3) (chan3 [⟨1, 8, 0⟩]) (fun t => (t.chan 3).q.length = 1) = true := by decide +kernel

theorem test_wakeHold : gives (.wakeHoldExpiry 9) { hostUp with clk := 5, icu.woken := [(9, some 5)] } (fun t => t.icu.woken = []) = true ∧
    gives (.wakeHoldExpiry 9) { hostUp with clk := 4, icu.woken := [(9, some 5)] } (fun t => t.icu.woken.length = 1) = true := by decide +kernel

theorem test_edge : gives (.edgeSourceEvent 0x500) (withFields [(Reg.icuSrc 0x500, F.icuSrc_trig, 1)] hostUp) (fun t => t.on (Reg.icuSrc 0x500) F.icuSrc_pend) = true ∧
    gives (.edgeSourceEvent 0x500) (withFields [(Reg.icuSrc 0x500, F.icuSrc_trig, 1), (Reg.icuSrc 0x500, F.icuSrc_insvc, 1)] hostUp)
      (fun t => !t.on (Reg.icuSrc 0x500) F.icuSrc_pend ∧ t.on (Reg.icuSrc 0x500) F.icuSrc_latch) = true ∧
    gives (.edgeSourceEvent 0x500) (withFields [(Reg.icuSrc 0x500, F.icuSrc_trig, 1), (Reg.icuSrc 0x500, F.icuSrc_latch, 1)] hostUp)
      (fun t => t.rf Reg.icuLatchOvf F.icuLatchOvf_count = 1) = true ∧
    gives (.levelSourceChange 0x500 true) hostUp (fun t => t.on (Reg.icuSrc 0x500) F.icuSrc_pend ∧ t.icu.level = [0x500]) = true := by decide +kernel

/-- The PF's vector 4 unmasked, with an event counted. -/
def vec4 (mask : Bool) (clk : Nat) : State := { withFields [(Reg.icuCoalPf 4, F.icuCoalPf_events, 1), (Reg.icuCoalPf 4, F.icuCoalPf_time, 10)] hostUp with
  clk := clk, icu.pci := [(0, { msixEn := true })], icu.msix := [(4, { addr := 0xFEE00000, data := 33, mask := mask, first := some 0, pend := true })] }

theorem test_msix : gives (.msixCoalesceTimeout 0 4) (vec4 false 1000) (fun t => t.out.map (·.dst) = [[0, 4, 0xFEE00000, 33]] ∧
      t.rf (Reg.icuCoalPf 4) F.icuCoalPf_events = 0) = true ∧
    gives (.msixCoalesceTimeout 0 4) (vec4 true 1000) (fun t => t.out = [] ∧ (t.msixEnt 0 4).pend) = true ∧
    gives (.msixCoalesceTimeout 0 4) (vec4 false 999) (fun t => t.out = []) = true ∧
    gives (.msixUnmask 0 4) (vec4 false 0) (fun t => t.out.length = 1 ∧ !(t.msixEnt 0 4).pend) = true ∧
    gives (.msixUnmask 0 4) (vec4 true 0) (fun t => t.out = []) = true ∧
    gives (.edgeSourceEvent 0x500) (withFields [(Reg.icuSrc 0x500, F.icuSrc_trig, 1), (Reg.icuSrc 0x500, F.icuSrc_host, 1), (Reg.icuSrc 0x500, F.icuSrc_en, 1),
      (Reg.icuSrc 0x500, F.icuSrc_vec, 4), (Reg.icuCoalPf 4, F.icuCoalPf_time, 0)] (vec4 false 0)) (fun t => t.out.map (·.dst) = [[0, 4, 0xFEE00000, 33]]) = true := by
  decide +kernel

/-- Sources 0x20 and 0x500 pending at core 1, the latter of the higher priority. -/
def pends : State := withFields ([0x20, 0x500].flatMap fun i => [(Reg.icuSrc i, F.icuSrc_pend, 1), (Reg.icuSrc i, F.icuSrc_en, 1), (Reg.icuSrc i, F.icuSrc_core, 1),
  (Reg.icuSrc i, F.icuSrc_prio, if i = 0x20 then 3 else 4)]) hostUp

theorem test_icu : pends.eligible 1 = [0x20, 0x500] ∧ pends.check 0x801 (regBase + Reg.icuClaim 1) = none ∧
    gives (.icuClaim 0x801 1) pends (fun t => t.out.map (·.data) = [leBytes 8 (2 ^ 63 + 0x500)] ∧ t.on (Reg.icuSrc 0x500) F.icuSrc_insvc) = true ∧
    gives (.icuClaim 0x801 1) hostUp (fun t => t.out.map (·.data) = [leBytes 8 0]) = true ∧ pends.check 0x801 (regBase + Reg.icuComplete 1) = none ∧
    gives (.icuComplete 0x801 1 0x20) (withFields [(Reg.icuSrc 0x20, F.icuSrc_insvc, 1)] pends) (fun t => !t.on (Reg.icuSrc 0x20) F.icuSrc_insvc ∧
      !t.on (Reg.icuSrc 0x20) F.icuSrc_pend) = true ∧
    gives (.icuComplete 0x801 1 0x20) pends (fun t => t.on (Reg.icuThresh 1) F.icuThresh_err) = true := by decide +kernel

theorem test_icuSrcWrite : hostUp.check 0 (regBase + Reg.icuSrc 0x20) = none ∧ hostUp.check 0 (regBase + Reg.icuSrc 0x400) = none ∧
    gives (.icuSrcWrite 0 0x20 (BitVec.ofNat 64 (2 ^ 63 + 2 ^ 61 + 5 * 2 ^ 52))) hostUp (fun t => t.on (Reg.icuSrc 0x20) F.icuSrc_en ∧
      !t.on (Reg.icuSrc 0x20) F.icuSrc_pend ∧ t.rf (Reg.icuSrc 0x20) F.icuSrc_prio = 5) = true ∧
    gives (.icuSrcWrite 0 0x400 (-1)) hostUp (fun t => t.rd (Reg.icuSrc 0x400) = 0) = true := by decide +kernel

/-- Unit 5 as the worked example of the monitors' chapter sets it. -/
def unit5 : State := withFields [(Reg.monCapCfg 5, F.monCapCfg_en, 1), (Reg.monCapCfg 5, F.monCapCfg_src, 2), (Reg.monCapCfg 5, F.monCapCfg_shift, 6),
  (Reg.monCapCfg 5, F.monCapCfg_log, 1), (Reg.monCapBase 5, F.monCapBase_base, 2000)] hostUp

theorem test_capture : gives (.captureSample 5 2100) unit5 (fun t => t.rd (Reg.monCapCount 5) = 1 ∧ t.rd (Reg.monCapSum 5) = 2100 ∧
      t.rd (Reg.monCapMin 5) = 2100 ∧ t.rd (Reg.monCapMax 5) = 2100 ∧ t.rf (Reg.monCapBin 5 1) F.monCapBin_even = 1) = true ∧
    gives (.captureSample 5 7) hostUp (fun t => t.rd (Reg.monCapCount 5) = 0) = true ∧ hostUp.check 0 (regBase + Reg.monCapCfg 5) = none ∧
    gives (.captureClear 0 5 false (BitVec.ofNat 64 (2 ^ 62))) (unit5.wr (Reg.monCapCount 5) 9) (fun t => t.rd (Reg.monCapCount 5) = 0) = true ∧
    gives (.captureClear 0 5 true 1) (unit5.wr (Reg.monCapCount 5) 9) (fun t => t.rd (Reg.monCapCount 5) = 0 ∧ t.rd (Reg.monCapBase 5) = 1) = true := by
  decide +kernel

/-- A fault record of the PF. -/
def fault1 : EvRec := { time := 5, cls := .fault, code := 0x101, block := 1, fn := 0x7FF, inst := 2, arg0 := 3, arg1 := 4 }
@[inherit_doc fault1] def ring0 (en : Nat) : State := { withFields [(Reg.monLog 0, F.monLog_en, en), (Reg.monLog 0, F.monLog_base, 1)] hostUp with mon.evQ := [fault1] }

theorem test_drain : gives .eventQueueDrain (ring0 0) (fun t => t.mon.evQ = [] ∧ t.rf Reg.monLogNoring F.monLogNoring_count = 1) = true ∧
    gives .eventQueueDrain { ring0 0 with mon.evQ := [{ fault1 with cls := .trace }] } (fun t => t.rf Reg.monLogStat F.monLogStat_trace_dropped = 1) = true ∧
    (ring0 1).ringRoom 0 = true ∧ (ring0 1).ringDue 0 = false ∧ gives .eventQueueDrain (ring0 1) (fun t =>
      t.bytes 0x1000 8 = leBytes 8 5 ∧ t.byte 0x100F = 0x90 ∧ fld (t.rd (Reg.monLogIdx 0)) 63 32 = 1) = true := by decide +kernel

theorem test_rings : hostUp.check 0 (regBase + Reg.monLogIdx 0) = none ∧ gives (.logHeadWrite 0 0 7) hostUp (fun t => t.rd (Reg.monLogIdx 0) = 7) = true ∧
    hostUp.check 0 (regBase + Reg.monLog 3) = none ∧
    gives (.logRingEnable 0 3 (BitVec.ofNat 64 (2 ^ 63 + 0x10000))) (withFields [(Reg.vfmFnPart 3, F.vfmFnPart_size, 1), (Reg.monLogIdx 3, F.monLogIdx_head, 5)] hostUp)
      (fun t => fld (t.rd (Reg.monLog 3)) 39 12 = 0x10 ∧ t.rd (Reg.monLogIdx 3) = 0) = true ∧
    gives (.logRingEnable 0 3 (BitVec.ofNat 64 (2 ^ 63))) hostUp (fun t => t.rd (Reg.monLog 3) = regReset t.grade (Reg.monLog 3) ∧ t.on (Reg.vfmFnCtrl 0) F.vfmFnCtrl_err ∧
      t.mon.evQ.map (·.code) = [0x301]) = true ∧ hostUp.check 0 (regBase + Reg.monAlarmStat) = none ∧
    gives (.alarmPop 0) { hostUp with mon.alarmQ := [fault1, { fault1 with time := 6 }] } (fun t => t.mon.alarmQ.map (·.time) = [6]) = true := by decide +kernel

/-! ### Power -/

theorem test_domainOn : hostUp.check 0 (regBase + Reg.pwrDomain 70) = none ∧
    gives (.domainOnRequest 0 70 1) hostUp (fun t => t.pd 70 = 1 ∧ t.pwr.rampQ = []) = true ∧
    gives (.domainOnRequest 0 70 1) (withFields [(Reg.pwrDomain 71, F.pwrDomain_state, 1), (Reg.pwrDomain 72, F.pwrDomain_state, 1)] hostUp)
      (fun t => t.pd 70 = 0 ∧ t.pwr.rampQ = [70]) = true ∧
    gives (.domainOnRequest 0 95 0) (withOn [95]) (fun t => t.pd 95 = 0) = true ∧ (withOn [95]).mayOff 95 = true ∧
    gives (.domainOnRequest 0 84 0) hostUp (fun t => t.pd 84 = 2 ∧ t.on (Reg.pwrDomain 84) F.pwrDomain_err) = true := by decide +kernel

/-- A domain Ramping, its ramp ended or not. -/
def ramps (d : Nat) (done : Bool) : State := { withFields [(Reg.pwrDomain d, F.pwrDomain_state, 1)] hostUp with pwr.rampDone := if done then [d] else [] }

theorem test_ramps : gives (.domainRampEnd 95) (ramps 95 false) (fun t => t.pwr.rampDone = [95]) = true ∧
    gives (.domainRampEnd 95) { ramps 95 false with pwr.paused := [(4, 0)] } (fun t => t.pwr.rampDone = []) = true ∧
    gives (.domainIsolationRelease 95) (ramps 95 true) (fun t => t.pd 95 = 2 ∧ t.pwr.rampDone = []) = true ∧
    gives (.domainIsolationRelease 3) (ramps 3 true) (fun t => t.pd 3 = 2 ∧ (t.plate 3).resetting) = true ∧
    gives (.domainIsolationRelease 95) (ramps 95 false) (fun t => t.pd 95 = 1) = true := by decide +kernel

theorem test_headswitch : gives (.headswitchFault 95) (withOn [95] hostUp) (fun t => t.pd 95 = 3 ∧ t.pwr.paused = [(4, 0)] ∧ (t.mon.logVol.map (·.code)).contains 0xD01) = true ∧
    gives (.headswitchFault 3) hostUp (fun t => t.pd 3 = 0) = true ∧
    gives (.rampPauseEnd 4) { hostUp with clk := 50000, pwr.paused := [(4, 0)] } (fun t => t.pwr.paused = []) = true ∧
    gives (.rampPauseEnd 4) { hostUp with clk := 49999, pwr.paused := [(4, 0)] } (fun t => t.pwr.paused = [(4, 0)]) = true := by decide +kernel

theorem test_capWrite : hostUp.check 0 (regBase + Reg.pwrCap) = none ∧ gives (.capWrite 0 200) hostUp (fun t => t.cap = 350) = true ∧
    gives (.capWrite 0 700) hostUp (fun t => t.cap = 700 ∧ t.rf Reg.pwrCap F.pwrCap_brake_w = 350) = true := by decide +kernel

/-- Plate 2 running. -/
def runs2 : State := withFields [(Reg.pltStatus 2, F.pltStatus_run, 1)] (withOn [2])

theorem test_controlInstant : runs2.runningPlates = [2] ∧ runs2.limitNow = 1000 ∧
    within runs2.limitNow 100000 [runs2.powerTarget ⟨100000, 120, [0, 0, 5000], [], 0, 5400, 20⟩ 2] 16 = true ∧
    (runs2.powerTarget ⟨100000, 120, [0, 0, 5000], [], 0, 5400, 20⟩ 2).t = 15 ∧ runs2.pm.instant ≠ 1 := by decide +kernel

theorem test_lowerAll : lowerAll 350 330000 16 [⟨2, 9000, 15, 16, 3, 15⟩, ⟨3, 9000, 15, 16, 3, 12⟩] ≠ [] ∧
    (lowerAll 350 349000 16 [⟨2, 9000, 15, 16, 3, 15⟩, ⟨3, 9000, 15, 16, 4, 12⟩]).map (·.t) = [3, 4] := by decide +kernel

theorem test_droop : gives (.droopDetect 2) runs2 (fun t => t.pm.stretched = [2] ∧ t.rf (Reg.pwrPlate 2) F.pwrPlate_droops = 1) = true ∧
    gives (.droopDetect 2) { withFields [(Reg.pwrPlate 2, F.pwrPlate_op, 9)] runs2 with pm.droopAt := [(2, List.replicate 15 0)] }
      (fun t => t.pm.droop = [(2, 8, 10000000)]) = true ∧
    gives (.droopRecovery 2) { runs2 with pm.stretched := [2] } (fun t => t.pm.stretched = []) = true := by decide +kernel

theorem test_brake : gives .brakeAssert hostUp (fun t => t.pm.brake ∧ t.on Reg.pwrStatus F.pwrStatus_brake ∧ t.mon.evQ.map (·.code) = [0xD05]) = true ∧
    gives .brakeRelease { hostUp with pm.brake := true } (fun t => !t.pm.brake) = true := by decide +kernel

theorem test_thermal : gives (.thermalSample (List.replicate 91 none ++ [some (-40)])) hostUp (fun t => t.rf (Reg.pwrTherm 91) F.pwrTherm_temp = 65496) = true ∧
    gives (.thermalSample [some 100, none]) { hostUp with clk := 1000000 } (fun t => t.on (Reg.pwrTherm 91) F.pwrTherm_fault ∧
      t.on Reg.pwrStatus F.pwrStatus_sensor_fault) = true ∧ hostUp.thermLim 91 F.pwrThermLim_trip ≤ 600 ∧
    gives (.thermalSample (List.replicate 91 none ++ [some 600])) { hostUp with pm.sensors := [(91, { seen := 0, trips := 1, hot := false, warnedAt := none })] }
      (fun t => t.top.stopped) = true := by decide +kernel

theorem test_supplyTrip : gives (.supplyTrip 0 6101 0) hostUp (fun t => t.top.stopped ∧ (t.mon.logVol.map (·.code)).contains 0xD09 ∧ t.pd 84 = 0) = true ∧
    gives (.supplyTrip 0 6100 0) hostUp (fun t => !t.top.stopped) = true ∧ gives (.supplyTrip 3 106 100) hostUp (fun t => t.top.stopped) = true := by decide +kernel

theorem test_burr : gives (.burrReport 2 5 77) runs2 (fun t => t.rf (Reg.pwrBurr 2 5) F.pwrBurr_drift = 77) = true ∧
    hostUp.check 0 (regBase + Reg.pwrReplan) = none := by decide +kernel

/-- A pool of two: node 0, this one, leads. -/
def pool : State := { withFields [(Reg.pwrCtrl, F.pwrCtrl_shift_en, 1)] hostUp with
  pm.pool := [(1, ⟨600, false, 10, 9, 600, 0⟩), (2, ⟨600, false, 10, 0, 600, 0⟩)], pm.steps := 4 }

theorem test_pool : poolRound 0 5 100 pool.pm.pool = [(1, ⟨600, false, 10, 9, 605, 0⟩), (2, ⟨600, false, 10, 0, 595, 0⟩)] ∧ pool.leadsPool = true ∧
    gives .shiftReportDue pool (fun t => (t.pm.pool.map (·.1)) = [0, 1, 2] ∧ t.pm.steps = 0) = true ∧
    gives .shiftReportDue (withFields [(Reg.pwrCtrl, F.pwrCtrl_pool_node, 7)] pool) (fun t => t.out.map (fun o => o.dst.take 4) = [[6, 7, 130, 0]]) = true ∧
    gives (.shiftReportReceived 3 1 500 500 true 1 1) pool (fun t => (mget t.pm.pool 3).map (·.shifted) = some 500) = true ∧
    gives (.shiftReportReceived 1 1 600 500 true 1 1) pool (fun t => (mget t.pm.pool 1).map (·.steps) = some 1) = true ∧
    gives (.shiftReportReceived 1 1 700 500 true 1 1) pool (fun t => t.pm.pool.map (·.2.shifted) = [700, 600]) = true ∧
    gives .shiftAllocation pool (fun t => t.out.map (·.dst) = [[6, 1, 131, 605], [6, 2, 131, 595]]) = true := by decide +kernel

theorem test_shiftReply : gives (.shiftReplyReceived 640) pool (fun t => t.capNow = 640) = true ∧ gives (.shiftReplyReceived 640) hostUp (fun t => t.pm.shifted = none) = true ∧
    gives .shiftLeaderSilence { withFields [(Reg.pwrStatus, F.pwrStatus_fallback, 0)] pool with clk := 10000000 } (fun t => t.capNow = 1000 ∧ t.mon.evQ.map (·.code) = [0xD03]) = true := by
  decide +kernel

/-! ### Boot, reset and access for service -/

/-- A module that holds something. -/
def warmed : State := { withFields [(Reg.topBootStatus, F.topBootStatus_stage, 6), (Reg.topReset, F.topReset_node_ovr_en, 1), (Reg.pwrDomain 70, F.pwrDomain_state, 3)] hostUp with
  time := 77, mem := [(5, 6#8)], top.pgIn := true }

theorem test_resets : gives (.pgInRise true) warmed (fun t => t.mem = [] ∧ t.time = 0 ∧ t.rf Reg.topBootStatus F.topBootStatus_cause = 0 ∧ t.top.refsel ∧ t.pd 84 = 0) = true ∧
    gives (.pgInRise true) { warmed with top.held := true } (fun t => t.mem ≠ [] ∧ t.top.refsel) = true ∧
    gives .resetNRelease warmed (fun t => t.mem = [] ∧ t.time = 0 ∧ t.rf Reg.topBootStatus F.topBootStatus_cause = 1 ∧ !t.on Reg.topReset F.topReset_node_ovr_en) = true ∧
    warmed.check 0 (regBase + Reg.topReset) = none ∧
    gives (.topResetCold 0) warmed (fun t => t.rf Reg.topBootStatus F.topBootStatus_cause = 2 ∧ !t.ready) = true ∧
    gives (.topResetWarm 0) warmed (fun t => t.rf Reg.topBootStatus F.topBootStatus_cause = 3 ∧ t.time = 77 ∧ t.on Reg.topReset F.topReset_node_ovr_en ∧ t.pd 70 = 3) = true ∧
    gives .watchdogExpiry warmed (fun t => t.rf Reg.topBootStatus F.topBootStatus_cause = 5 ∧ t.time = 77 ∧ t.mem = []) = true ∧
    gives .watchdogExpiry { warmed with top.stopped := true } (fun t => t.mem ≠ []) = true := by decide +kernel

theorem test_held : gives .vinInRange { warmed with top.held := true } (fun t => t.mem = [] ∧ !t.top.held) = true ∧
    gives .vinInRange warmed (fun t => t.mem ≠ []) = true ∧
    gives .refclkLost warmed (fun t => t.top.stopped ∧ (t.mon.logVol.map (·.code)).contains 4 ∧ t.pd 84 = 0) = true ∧
    gives .refclkLost { warmed with top.stopped := true } (fun t => t.mon.logVol = []) = true := by decide +kernel

theorem test_imageVerified : State.reset.bootSlot = none ∧
    gives (.bootImageVerified false true true 5) State.reset (fun t => t.rf Reg.topBootStatus F.topBootStatus_error = 1) = true ∧
    gives (.bootImageVerified true true true 5) State.reset (fun t => t.rf Reg.topBootStatus F.topBootStatus_error = 2 ∧ t.rf Reg.topBootStatus F.topBootStatus_stage = 255) = true ∧
    gives (.bootImageVerified true true true 5) warmed (fun t => t.rf Reg.topBootStatus F.topBootStatus_stage = 6) = true ∧
    (State.reset.newInc false false 70000).rf Reg.topInc F.topInc_inc = 4464 ∧ ({ State.reset with ps.ckptInc := 65535 }.newInc true false 9).inc = 0 := by
  decide +kernel

/-- Every domain On that there is, at the boot stage that asks for them. -/
def staged3 : State := withFields ([(Reg.topBootStatus, F.topBootStatus_stage, 3), (Reg.topReset, F.topReset_node_ovr_en, 1), (Reg.topReset, F.topReset_node_ovr, 9)])
  (withOn (List.range 96))

theorem test_bootReady : (List.range 96).all (fun d => decide (2 ≤ staged3.pd d)) = true ∧
    gives (.bootReady false true true) staged3 (fun t => t.rf Reg.topBootStatus F.topBootStatus_error = 3) = true ∧
    gives (.bootReady true true true) (withFields [(Reg.pwrDomain 70, F.pwrDomain_state, 1)] staged3) (fun t => t.rf Reg.topBootStatus F.topBootStatus_stage = 3) = true := by
  decide +kernel

theorem test_bootReady_locks : gives (.bootReady true true true) (withFields [(Reg.topBootStatus, F.topBootStatus_cause, 3)] staged3) (fun t => t.ready ∧ t.rf Reg.topBootStatus F.topBootStatus_stage = 6 ∧
  t.rf Reg.topBootStatus F.topBootStatus_error = 0 ∧ t.on Reg.fabCtrl F.fabCtrl_lock ∧ t.node = 9) = true := by decide +kernel

/-- A slot staged, and two descriptors. -/
def commits : State := { withFields [(Reg.topFwArg, F.topFwArg_length, 1)] hostUp with top.staged := some 1, top.flash.desc := [(4, 0, true), (3, 1, true)] }

theorem test_firmware : commits.check 0 (regBase + Reg.topFwCmd) = none ∧
    gives (.stage 0 true) commits (fun t => (mget t.top.flash.slots 1).map (·.length) = some 64 ∧ t.rf Reg.topFwCmd F.topFwCmd_result = 1 ∧ t.top.staged = none) = true ∧
    gives (.stage 0 false) commits (fun t => t.rf Reg.topFwCmd F.topFwCmd_result = 5 ∧ t.top.flash = commits.top.flash) = true ∧
    gives (.commit 0 true) commits (fun t => t.top.flash.desc = [(4, 0, true), (5, 1, true)] ∧ t.activeSlot = some 1) = true ∧
    gives (.commit 0 true) { commits with top.staged := none } (fun t => t.rf Reg.topFwCmd F.topFwCmd_result = 6) = true ∧
    gives (.raiseSvn 0) { commits with top.flash.slots := [(0, List.replicate 11 0 ++ [7])] } (fun t => t.top.fuses.floor = 7) = true := by decide +kernel

theorem test_configuration : hostUp.linkUp 0 0 = true ∧ gives (.configurationRequest 0 (.bar2 40)) hostUp (fun t => (t.pci 0).bar2 = 40 ∧ t.out.map (·.dst) = [[0, 0, 0]]) = true ∧
    gives (.configurationRequest 0 (.bar2 40)) (withFields [(Reg.topBootStatus, F.topBootStatus_ready, 0)] hostUp) (fun t => t.out.map (·.dst) = [[0, 0, 1]]) = true ∧
    gives (.configurationRequest 2050 (.power true)) hostUp (fun t => t.out = []) = true := by decide +kernel

theorem test_service : gives (.mgmtRead 8 false) warmed (fun t => t.out.map (·.dst) = [[8]] ∧ t.out.map (·.data.length) = [8]) = true ∧
    gives (.tapBypass [true, false, true]) warmed (fun t => t.out.map (·.dst) = [[0, 1, 0]] ∧ t.top.ir = .bypass) = true ∧
    gives (.tapSamplePreload 4 10 3) warmed (fun t => t.out.map (·.dst) = [[0, 1, 0, 1]] ∧ t.top.preload = 3) = true ∧
    gives .tapExtest warmed (fun t => t.top.stopped ∧ t.top.ir = .extest ∧ t.pd 84 = 0) = true ∧
    gives .tapExtest { warmed with top.pgIn := false } (fun t => !t.top.stopped) = true := by decide +kernel

theorem test_tapIdcode : gives .tapIdcode warmed (fun t => t.top.ir = .idcode ∧ t.free = warmed.free + 1) = true := by decide +kernel

/-! ### Well-formedness: an ill-formed command for each check -/

theorem test_wf : (Instr.start 0 63).wf = true ∧ (Instr.start 0x8A0 0).wf = true ∧ (Instr.nop (.tport 15) {}).wf = true ∧
    (Instr.logHeadWrite 0 2000 0).wf = true := by decide

theorem test_wf_master : (Instr.start 0x401 0).wf = false := by decide
theorem test_wf_fn : (Instr.flrComplete 1025).wf = false := by decide
theorem test_wf_port_fn : (Instr.atsInvalidationComplete 2056 0).wf = false := by decide
theorem test_wf_plate : (Instr.start 0 64).wf = false := by decide
theorem test_wf_core : (Instr.nop (.burin 3 32) {}).wf = false := by decide
theorem test_wf_wq : (Instr.nopEntry 65536).wf = false := by decide
theorem test_wf_cq : (Instr.cqHeadReread 65536 0 []).wf = false := by decide
theorem test_wf_qp : (Instr.qpDrainEnd 262144).wf = false := by decide
theorem test_wf_node : (Instr.shiftReportReceived 65536 0 0 0 true 0 0).wf = false := by decide
theorem test_wf_chan : (Instr.mbxPop 0 512).wf = false := by decide
theorem test_wf_domain : (Instr.domainRampEnd 96).wf = false := by decide
theorem test_wf_window : (Instr.hostBar2Read (.vf 1025) 0 4).wf = false := by decide
theorem test_wf_target : (Instr.registerRead 0 (.page 1 65536) 8).wf = false := by decide
theorem test_wf_packet : (Instr.abortReceived { hops := 64 } {}).wf = false := by decide
theorem test_wf_small : (Instr.burrReport 0 35 0).wf = false := by decide
theorem test_wf_record : (Instr.traceRecordArrival ⟨256, 0, 0, []⟩ 0 false).wf = false := by decide

/-! ### Three rules -/

theorem test_rate : hostUp.check 0 (regBase + Reg.timRate) = none ∧ hostUp.timeRole.1 = 0 ∧
    gives (.timRateWrite 0 0x80000000) hostUp (fun t => t.rate = -2147484) = true ∧
    (match step (hostUp.wf Reg.timRate F.timRate_rate (2 ^ 32 - 1)) with
      | .next t => decide (t.time = 0 ∧ t.frac = 2 ^ 32 - 1)
      | _ => false) = true := by decide +kernel

/-- Two binned sums in v1 and v2 merged. -/
theorem test_merge : let w := 0xB1 * 2 ^ 56
    opc w = 0xB1 ∧ bsN (bsMake 3 1 (2 ^ 1984 - 1) + 0) = 2 ^ 1984 - 1 ∧ bsCount (bsMake (2 ^ 41) 0 0) = 2 ^ 40 - 1 := by decide +kernel

/-- Port 1, up, whose first segment is closed (reset) or read-only. -/
def inPort (m : Nat) : State := { withFields [(Reg.hifPortStatus 1, F.hifPortStatus_up0, 1), (Reg.hifInbOwner 1 0, F.hifInbOwner_master, m)] hostUp with
  icu.pci := [(portFn 1 0, { bar2 := 40 })] }

theorem test_closed : winIs (.port 1 0) = true ∧ (inPort 0xFFF).linkUp 1 0 = true ∧ (inPort 0).on (Reg.hifInbOwner 1 0) F.hifInbOwner_wr_en = false ∧
    gives (.hostBar2Read (.port 1 0) 64 300) (inPort 0xFFF) (fun t => t.out.map (·.data.length) = [256, 44] ∧ t.mon.evQ.map (·.code) = [3]) = true ∧
    gives (.hostBar2Write (.port 1 0) 64 [7] [true]) (inPort 0) (fun t => t.mem = [] ∧ t.mon.evQ.map (·.code) = [3]) = true ∧
    gives (.hostAtomicop (.port 1 0) .swap 64 4 9) (inPort 0) (fun t => t.mem = [] ∧ t.out.map (·.data) = [[0, 0, 0, 0]]) = true := by decide +kernel

end Sys2Proof.Tests
end

/-! Requests of the host through a port function's window that a closed segment refuses (02_attach_ports.md R56). -/

namespace Sys2Proof.Machine

variable {s t : State}

/-! ### A request of the host that is taken -/

/-- A request that the module takes has its effect. -/
theorem State.hostReq_of_takes {n h f : Nat} (posted : Bool) (kind : Nat) (args : List Nat) (data : List Byte) (act : State → State)
    (ht : HostTakes s n h f) : s.hostReq n h f posted kind args data act = act s := by
  obtain ⟨hup, hready, hd3, hvf, hleads, hfollows, hhalted⟩ := ht
  have hshown : ¬ (¬ s.ready ∨ (s.pci f).d3hot ∨ (1 ≤ f ∧ f ≤ 1024 ∧ ¬ s.icu.vfEnable)) := by
    rintro (hr | hd | ⟨h1, h2, hv⟩)
    · exact hr hready
    · simp [hd3] at hd
    · exact hv (hvf h1 h2)
  rw [State.hostReq, if_neg (not_not_intro hup), if_neg hshown, State.letIn_eq s _ _ _ _ hleads hfollows hhalted]

/-- A module that takes requests and runs no counterproof sends its outputs as they are made. -/
theorem HostTakes.quiet {n h f : Nat} (ht : HostTakes s n h f) (hr : s.cpfRuns = false) : Quiet s := by
  obtain ⟨-, -, -, -, -, -, hhalted⟩ := ht
  exact ⟨hr, hhalted⟩

/-! ### Completions -/

/-- A completion leaves as it is made. -/
theorem State.cpl_eq (hq : Quiet s) (p h st : Nat) (data : List Byte) :
    s.cpl p h st data = { s with out := s.out ++ [⟨.tlpCpl, [p, h, st], none, data⟩] } :=
  s.emit_eq _ _ _ _ hq.1 hq.2

/-- Successful completions leave in their order, and change nothing else. -/
theorem State.foldl_cpl_eq (p h : Nat) (bs : List (List Byte)) (hq : Quiet s) :
    bs.foldl (fun t b => t.cpl p h 0 b) s = { s with out := s.out ++ bs.map fun b => ⟨.tlpCpl, [p, h, 0], none, b⟩ } := by
  induction bs generalizing s with
  | nil => simp
  | cons b bs ih =>
    have hq' : Quiet { s with out := s.out ++ [⟨.tlpCpl, [p, h, 0], none, b⟩] } := hq
    rw [List.foldl_cons, State.cpl_eq hq, ih hq']
    simp

/-- The pieces of a completion's data are the data, where there are enough of them. -/
theorem flatten_pieces256 (k : Nat) (l : List Byte) (hl : l.length ≤ 256 * k) : (pieces256 k l).flatten = l := by
  induction k generalizing l with
  | zero => simp_all [pieces256]
  | succ k ih =>
    by_cases h : l.length ≤ 256
    · simp [pieces256, h]
    · have hd : (l.drop 256).length ≤ 256 * k := by rw [List.length_drop]; omega
      simp [pieces256, h, ih _ hd]

/-! ### The fault of R23 -/

/-- An access that its master may not make changes the monitors only: the fault with its address takes its place in the event queue. -/
theorem State.evViolation_eq (m a : Nat) (hp : s.pd 94 = 2) (hq : s.mon.evQ.length < 512) :
    ∃ x e, s.evViolation m a = { s with mon := x } ∧ x.evQ = s.mon.evQ ++ [e] ∧ e.cls = .fault ∧ e.code = 3 ∧ e.arg1 = a := by
  have hr := s.raise_fault 0 3 (s.masterFn m) 0 (m % 4096) a 0 1 hp hq rfl
  refine ⟨(s.evViolation m a).mon, s.record .fault 0 3 (s.masterFn m) 0 (m % 4096) a 0 1, ?_, ?_, rfl, rfl, rfl⟩
  · rw [State.evViolation, hr, State.toLog]
    split <;> rfl
  · rw [State.evViolation, hr]

/-- What a request refused under R23 comes to, its answer aside: the fault with its offset is queued, and memory, registers, the queue,
the grade and the timebase are as they were. -/
def RefusedAt (s t : State) (off : Nat) : Prop :=
  (∃ e, t.mon.evQ = s.mon.evQ ++ [e] ∧ e.cls = .fault ∧ e.code = 3 ∧ e.arg1 = off) ∧ Kept s t ∧ RegsKept s t []

/-- The fault of R23 and any outputs beside it are a refusal. -/
theorem evViolation_refusedAt (m a : Nat) (o : List Out) (hp : s.pd 94 = 2) (hq : s.mon.evQ.length < 512) :
    RefusedAt s { s.evViolation m a with out := o } a := by
  obtain ⟨x, e, hv, hx, he⟩ := s.evViolation_eq m a hp hq
  rw [hv]
  exact ⟨⟨e, hx, he⟩, ⟨rfl, rfl, rfl, rfl⟩, fun _ _ => rfl⟩

/-- A fault is no output. -/
theorem evViolation_out (m a : Nat) (hp : s.pd 94 = 2) (hq : s.mon.evQ.length < 512) : (s.evViolation m a).out = s.out := by
  obtain ⟨x, e, hv, -⟩ := s.evViolation_eq m a hp hq
  rw [hv]

/-- A fault does not start or stop counterproof. -/
theorem evViolation_quiet (m a : Nat) (hp : s.pd 94 = 2) (hq : s.mon.evQ.length < 512) (h : Quiet s) : Quiet (s.evViolation m a) := by
  obtain ⟨x, e, hv, -⟩ := s.evViolation_eq m a hp hq
  rw [hv]
  exact h

/-! ### Windows -/

/-- A closed segment answers a request with the fault of R23: MASTER 0xFFF any request, WR_EN 0 one that writes (R56). -/
theorem State.winCheck_port_closed {p h off k : Nat} (n : Nat) (wr : Bool) (hk : k = Reg.hifInbOwner p (s.winSeg (portFn p h) off))
    (hc : s.rf k F.hifInbOwner_master = 0xFFF ∨ (wr = true ∧ s.on k F.hifInbOwner_wr_en = false)) :
    s.winCheck (.port p h) off n wr = some (s.evViolation (s.rf k F.hifInbOwner_master) off) := by
  subst hk
  exact if_pos (hc.imp_right fun ⟨hwr, hen⟩ => ⟨hwr, Bool.eq_false_iff.1 hen⟩)

/-- A read that its window turns away is answered with zeros, in pieces. -/
theorem exec_hostBar2Read_refused {w : Bar2} {off n : Nat} (hw : winIs w = true) (hn : n ≤ 4096)
    (ht : HostTakes s (winFn w).1 (winFn w).2.1 (winFn w).2.2) (hc : s.winCheck w off n false = some t) :
    exec (.hostBar2Read w off n) s =
      .next ((pieces256 17 (List.replicate n 0)).foldl (fun t b => t.cpl (winFn w).1 (winFn w).2.1 0 b) t) := by
  have hg : ¬ (¬ winIs w ∨ 4096 < n) := by simp [hw, hn]
  show execHostBar2Read w off n s = _
  simp only [execHostBar2Read, if_neg hg, State.hostReq_of_takes _ _ _ _ _ ht, hc]

/-- A write that its window turns away is discarded. -/
theorem exec_hostBar2Write_refused {w : Bar2} {off : Nat} {data : List Byte} {be : List Bool} (hw : winIs w = true) (hb : true ∈ be)
    (hl : be.length = data.length) (ht : HostTakes s (winFn w).1 (winFn w).2.1 (winFn w).2.2)
    (hc : s.winCheck w off data.length true = some t) : exec (.hostBar2Write w off data be) s = .next t := by
  have hg : ¬ (¬ winIs w ∨ ¬ be.contains true ∨ be.length ≠ data.length) := by simp [hw, hb, hl]
  show execHostBar2Write w off data be s = _
  simp only [execHostBar2Write, if_neg hg, State.hostReq_of_takes _ _ _ _ _ ht, hc]

/-- An AtomicOp that its window turns away is answered with zeros. -/
theorem exec_hostAtomicop_refused {w : Bar2} {op : AtomicOp} {off n v : Nat} (hw : winIs w = true)
    (hn : n = 4 ∨ n = 8 ∨ (n = 16 ∧ ∃ c, op = .cas c)) (ha : off % n = 0)
    (ht : HostTakes s (winFn w).1 (winFn w).2.1 (winFn w).2.2) (hc : s.winCheck w off n true = some t) :
    exec (.hostAtomicop w op off n v) s = .next (t.cpl (winFn w).1 (winFn w).2.1 0 (List.replicate n 0)) := by
  have hg : ¬ ¬ winIs w := not_not_intro hw
  show execHostAtomicop w op off n v s = _
  simp only [execHostAtomicop, if_neg hg, State.hostReq_of_takes _ _ _ _ _ ht, hc]
  rw [if_neg]
  rintro (hs | hs)
  · apply hs
    obtain h4 | h8 | ⟨h16, c, rfl⟩ := hn
    · exact .inl h4
    · exact .inr (.inl h8)
    · exact .inr (.inr ⟨h16, rfl⟩)
  · exact hs ha

/-! ### The three requests to a closed segment -/

section
variable {p h off k : Nat} (hw : winIs (.port p h) = true) (ht : HostTakes s p h (portFn p h)) (hr : s.cpfRuns = false)
  (hp : s.pd 94 = 2) (hq : s.mon.evQ.length < 512) (hk : k = Reg.hifInbOwner p (s.winSeg (portFn p h) off))
include hw ht hp hq hk

include hr in
/-- A refused read is completed with zeros. -/
theorem hostBar2Read_closed {n : Nat} (hn : n ≤ 4096) (hc : s.rf k F.hifInbOwner_master = 0xFFF) :
    Gives (.hostBar2Read (.port p h) off n) s fun t =>
      (∃ l, t.out = s.out ++ l ∧ l.flatMap (·.data) = List.replicate n 0 ∧ ∀ o ∈ l, o.kind = .tlpCpl ∧ o.dst = [p, h, 0]) ∧
      RefusedAt s t off := by
  have hm := State.winCheck_port_closed n false hk (.inl hc)
  refine ⟨_, exec_hostBar2Read_refused hw hn ht hm, ?_⟩
  rw [State.foldl_cpl_eq _ _ _ (evViolation_quiet _ off hp hq (ht.quiet hr)), evViolation_out _ off hp hq]
  refine ⟨⟨_, rfl, ?_, ?_⟩, evViolation_refusedAt _ off _ hp hq⟩
  · have hf := flatten_pieces256 17 (List.replicate n (0 : Byte)) (by rw [List.length_replicate]; omega)
    rw [List.flatMap_map, List.flatMap_id', hf]
  · intro o ho
    obtain ⟨b, -, rfl⟩ := List.mem_map.1 ho
    exact ⟨rfl, rfl⟩

/-- A refused write is discarded. -/
theorem hostBar2Write_closed {data : List Byte} {be : List Bool} (hb : true ∈ be) (hl : be.length = data.length)
    (hc : s.rf k F.hifInbOwner_master = 0xFFF ∨ s.on k F.hifInbOwner_wr_en = false) :
    Gives (.hostBar2Write (.port p h) off data be) s fun t => t.out = s.out ∧ RefusedAt s t off := by
  have hm := State.winCheck_port_closed data.length true hk (hc.imp_right fun hen => ⟨rfl, hen⟩)
  exact ⟨_, exec_hostBar2Write_refused hw hb hl ht hm, evViolation_out _ off hp hq, evViolation_refusedAt _ off _ hp hq⟩

include hr in
/-- A refused AtomicOp is completed with zeros. -/
theorem hostAtomicop_closed {op : AtomicOp} {n v : Nat} (hn : n = 4 ∨ n = 8 ∨ (n = 16 ∧ ∃ c, op = .cas c)) (ha : off % n = 0)
    (hc : s.rf k F.hifInbOwner_master = 0xFFF ∨ s.on k F.hifInbOwner_wr_en = false) :
    Gives (.hostAtomicop (.port p h) op off n v) s fun t =>
      t.out = s.out ++ [⟨.tlpCpl, [p, h, 0], none, List.replicate n 0⟩] ∧ RefusedAt s t off := by
  have hm := State.winCheck_port_closed n true hk (hc.imp_right fun hen => ⟨rfl, hen⟩)
  refine ⟨_, exec_hostAtomicop_refused hw hn ha ht hm, ?_⟩
  rw [State.cpl_eq (evViolation_quiet _ off hp hq (ht.quiet hr)), evViolation_out _ off hp hq]
  exact ⟨rfl, evViolation_refusedAt _ off _ hp hq⟩

end

/-- Settles O60: each request to a closed segment meets the fault of R23 at the check of its window, which queues the fault and keeps
everything else, and is answered with zeros or not at all. -/
theorem closedSegmentsRefuseTheirRequests : Obligations.ClosedSegmentsRefuseTheirRequests := by
  intro s p h off n k hw ht hr hp hq hk
  have hq' : s.mon.evQ.length < 512 := by omega
  refine ⟨fun hc hn => hostBar2Read_closed hw ht hr hp hq' hk hn hc, fun hc => ⟨fun data be hb hl => ?_, fun op v hn ha => ?_⟩⟩
  · exact hostBar2Write_closed hw ht hp hq' hk hb hl hc
  · exact hostAtomicop_closed hw ht hr hp hq' hk hn ha hc

end Sys2Proof.Machine

/-! The rate of the timebase: what writes it, what it makes of the time, and that nothing leaves it outside its range
(10_time_and_gates.md R224, R227). -/

namespace Sys2Proof.Machine

/-! ### A field read back after it is written -/

/-- A field of a word holds what was set, cut to the field's width. -/
theorem fld_setFld (w : Word) {hi lo : Nat} (v : Nat) (hl : lo ≤ hi) (hh : hi ≤ 63) :
    fld (setFld w hi lo v) hi lo = v % 2 ^ (hi + 1 - lo) := by
  obtain ⟨n, rfl⟩ : ∃ n, hi = lo + n := ⟨hi - lo, by omega⟩
  have hw : lo + n + 1 - lo = n + 1 := by omega
  have h64 : 2 ^ 64 = 2 ^ lo * 2 ^ (64 - lo) := by rw [← pow_add]; congr 1; omega
  have hdvd : 2 ^ (n + 1) ∣ 2 ^ (64 - lo) := pow_dvd_pow 2 (by omega)
  rw [fld, setFld, nbits, nbits, hw, BitVec.toNat_ofNat, h64, Nat.mod_mul_right_div_self, Nat.mod_mod_of_dvd _ hdvd,
    Nat.add_mul_div_right _ _ (Nat.two_pow_pos lo), mul_comm _ (2 ^ lo), Nat.sub_mul_div]
  generalize w.toNat / 2 ^ lo = q
  rw [show q - q % 2 ^ (n + 1) = 2 ^ (n + 1) * (q / 2 ^ (n + 1)) by have := Nat.div_add_mod q (2 ^ (n + 1)); omega,
    Nat.mul_add_mod, Nat.mod_mod]

/-- A field of a register after it is set. -/
theorem State.rf_wf_self (s : State) (k : Nat) (f : Fld) (v : Nat) (hl : f.lo ≤ f.hi) (hh : f.hi ≤ 63) :
    (s.wf k f v).rf k f = v % 2 ^ (f.hi + 1 - f.lo) := by
  rw [State.rf, State.rd_wf_self, fld_setFld _ _ hl hh]

/-- An integer in the range of 32-bit two's complement is read back from its 32 bits. -/
theorem sgn_wrap_32 (i : Int) (hlo : -2 ^ 31 ≤ i) (hhi : i < 2 ^ 31) : sgn 32 (wrap 32 i) = i := by
  unfold sgn wrap
  split <;> omega

theorem wrap_lt (n : Nat) (i : Int) : wrap n i < 2 ^ n := by
  have hpos : (0 : Int) < (2 ^ n : Nat) := by exact_mod_cast Nat.two_pow_pos n
  have := Int.emod_lt_of_pos i hpos
  unfold wrap
  omega

/-! ### The rate after it is set -/

/-- The range of `TIM_RATE` (R224). -/
def timRateMax : Int := 2147484

theorem clampRate_bounds (r : Int) : -timRateMax ≤ clampRate r ∧ clampRate r ≤ timRateMax := by
  unfold clampRate timRateMax
  omega

/-- A rate set clamped is the rate in force. -/
theorem State.rate_wf_clampRate (s : State) (r : Int) :
    (s.wf Reg.timRate F.timRate_rate (wrap 32 (clampRate r))).rate = clampRate r := by
  obtain ⟨hlo, hhi⟩ := clampRate_bounds r
  unfold timRateMax at hlo hhi
  have hf := s.rf_wf_self Reg.timRate F.timRate_rate (wrap 32 (clampRate r)) (by decide) (by decide)
  have hm : wrap 32 (clampRate r) % 2 ^ 32 = wrap 32 (clampRate r) := Nat.mod_eq_of_lt (wrap_lt 32 _)
  have hs := sgn_wrap_32 (clampRate r) (by omega) (by omega)
  rw [State.rate, hf]
  exact (congrArg (sgn 32) hm).trans hs

/-! ### A step with an empty queue -/

theorem step_idle {s : State} (h : s.pending = []) : step s = .next s.tick := by
  rw [step, h]

/-- A tick moves the timebase, in units of 2⁻³² ns, on by one nanosecond and the rate. -/
theorem State.tick_timebase (s : State) :
    s.tick.time * 2 ^ 32 + s.tick.frac = wrap 96 (((s.time * 2 ^ 32 + s.frac : Nat) : Int) + 2 ^ 32 + s.rate) :=
  Nat.div_add_mod' _ _

/-! ### What leaves `TIM_RATE` as it is -/

section
variable (s : State)

@[simp] theorem State.draw_rd (k : Nat) : s.draw.rd k = s.rd k := rfl

@[simp] theorem State.withTim_rd (x : Tim) (k : Nat) : ({ s with tim := x } : State).rd k = s.rd k := rfl

@[simp] theorem State.meter_rd_timRate (f n : Nat) : (s.meter f 8 n).rd Reg.timRate = s.rd Reg.timRate := by
  unfold State.meter
  split
  · refine s.rd_incF_of_ne _ n ?_
    unfold Reg.timRate Reg.vfmMeter
    omega
  · rfl

@[simp] theorem State.incF_prfPsStat_rd_timRate (i n : Nat) :
    (s.incF (Reg.prfPsStat i) F.prfPsStat_count n).rd Reg.timRate = s.rd Reg.timRate := by
  refine s.rd_incF_of_ne _ n ?_
  unfold Reg.timRate Reg.prfPsStat
  omega

theorem State.volAppend_rd_timRate (v : Nat) (bs : List Byte) : (s.volAppend v bs).rd Reg.timRate = s.rd Reg.timRate := by
  unfold State.volAppend
  split
  · rfl
  · dsimp only
    split
    · rfl
    · rw [State.meter_rd_timRate, State.incF_prfPsStat_rd_timRate, State.incF_prfPsStat_rd_timRate]
      rfl

theorem State.traceOut_rd_timRate (src kind : Nat) (data : List Byte) :
    (s.traceOut src kind data).rd Reg.timRate = s.rd Reg.timRate := by
  unfold State.traceOut
  dsimp only
  split
  · split
    · exact State.volAppend_rd_timRate _ _ _
    · rfl
  · rfl

@[simp] theorem State.cpfNote_rd_timRate (src kind : Nat) (data : List Byte) :
    (s.cpfNote src kind data).rd Reg.timRate = s.rd Reg.timRate := by
  unfold State.cpfNote
  split
  · exact s.traceOut_rd_timRate src kind data
  · rfl

/-- A warning is queued, suppressed, or counted as lost while the monitors are off. -/
@[simp] theorem State.raise_warning_rd_timRate (b n fn inst arg0 arg1 arg2 count : Nat) :
    (s.raise .warning b n fn inst arg0 arg1 arg2 count).rd Reg.timRate = s.rd Reg.timRate := by
  simp only [State.raise, State.event, reduceCtorEq, or_self, if_false]
  split
  · exact s.rd_incF_of_ne _ 1 (by decide)
  · split <;> rfl

@[simp] theorem State.wf_timStatus_rd_timRate (f : Fld) (v : Nat) : (s.wf Reg.timStatus f v).rd Reg.timRate = s.rd Reg.timRate :=
  s.rd_wf_of_ne f v (by decide)

@[simp] theorem State.incF_timStatus_rd_timRate (f : Fld) (n : Nat) : (s.incF Reg.timStatus f n).rd Reg.timRate = s.rd Reg.timRate :=
  s.rd_incF_of_ne f n (by decide)

@[simp] theorem State.setTlock_rd_timRate (b : Bool) : (s.setTlock b).rd Reg.timRate = s.rd Reg.timRate := by
  unfold State.setTlock
  split
  · rfl
  · simp

theorem State.hlEntry_rd_timRate (n : Nat) : (s.hlEntry n).rd Reg.timRate = s.rd Reg.timRate := by
  unfold State.hlEntry
  split
  · rfl
  · refine s.rd_wf_of_ne _ _ ?_
    unfold Reg.timRate Reg.timHlStatus
    omega

theorem State.foldl_hlEntry_rd_timRate (l : List Nat) : (l.foldl State.hlEntry s).rd Reg.timRate = s.rd Reg.timRate := by
  induction l generalizing s with
  | nil => rfl
  | cons n l ih => exact (ih _).trans (s.hlEntry_rd_timRate n)

@[simp] theorem State.jump_rd_timRate (t frac : Nat) (bySet : Bool) : (s.jump t frac bySet).rd Reg.timRate = s.rd Reg.timRate := by
  unfold State.jump
  rw [State.raise_warning_rd_timRate, State.cpfNote_rd_timRate, State.foldl_hlEntry_rd_timRate]
  rfl

@[simp] theorem State.lockSample_rd_timRate (inside outside : Bool) :
    (s.lockSample inside outside).rd Reg.timRate = s.rd Reg.timRate := by
  unfold State.lockSample
  extract_lets _ t
  split
  · exact t.setTlock_rd_timRate true
  · split
    · exact t.setTlock_rd_timRate false
    · rfl

end

/-! ### The discipline loop -/

/-- From s to t `TIM_RATE` stays, or takes a rate within its range. -/
def RateStaysOrInRange (s t : State) : Prop := t.rd Reg.timRate = s.rd Reg.timRate ∨ (-timRateMax ≤ t.rate ∧ t.rate ≤ timRateMax)

/-- The rate is read from `TIM_RATE` alone. -/
theorem State.rate_congr {s t : State} (h : t.rd Reg.timRate = s.rd Reg.timRate) : t.rate = s.rate := by
  rw [State.rate, State.rate, State.rf, State.rf, h]

/-- The loop sets a clamped rate, whatever its gains make of the sample. -/
theorem State.slew_rate_bounds (s : State) : -timRateMax ≤ s.slew.rate ∧ s.slew.rate ≤ timRateMax := by
  rw [State.slew, State.rate_congr (State.draw_rd _ _), State.rate_wf_clampRate]
  exact clampRate_bounds _

/-- A sample that slews sets a clamped rate; one that steps the timebase, or is out of range, leaves the rate. -/
theorem State.applySample_rate (s : State) (theta : Int) (mayStep : Bool) : RateStaysOrInRange s (s.applySample theta mayStep) := by
  unfold State.applySample
  extract_lets lim win mag shown _ used i target stepped
  have hused : used.rd Reg.timRate = s.rd Reg.timRate := (shown.withTim_rd _ _).trans (s.wf_timStatus_rd_timRate _ _)
  clear_value used
  split
  · right
    rw [State.rate_congr (State.lockSample_rd_timRate _ _ _)]
    exact used.slew_rate_bounds
  · left
    split
    · rw [State.lockSample_rd_timRate, hused]
    · rw [State.lockSample_rd_timRate, State.jump_rd_timRate, State.incF_timStatus_rd_timRate, hused]

theorem exec_timeSample (s : State) : exec .timeSample s = execTimeSample s := rfl

/-- A sample is applied or discarded. -/
theorem exec_timeSample_rate (s : State) : Gives .timeSample s (RateStaysOrInRange s) := by
  rw [Gives, exec_timeSample]
  refine ⟨_, rfl, ?_⟩
  split
  · exact .inl rfl
  · rename_i theta port lock l _
    dsimp only
    have happly : ∀ b, RateStaysOrInRange s (({ s with tim.samples := l } : State).applySample theta b) :=
      fun b => State.applySample_rate { s with tim.samples := l } theta b
    split
    · exact happly false
    · split
      · exact happly true
      · split
        · exact happly true
        · exact .inl rfl

/-! ### The write of software -/

theorem exec_timRateWrite (m : Nat) (v : Word) (s : State) : exec (.timRateWrite m v) s = execTimRateWrite m v s := rfl

/-- A write that passes the checks of its address, while `ROLE` is 0, leaves the rate clamped. -/
theorem exec_timRateWrite_rate {s : State} {m : Nat} (v : Word) (hc : s.check m (regBase + Reg.timRate) = none) (hr : s.timeRole.1 = 0) :
    Gives (.timRateWrite m v) s fun t => t.rate = clampRate (sgn 32 (fld v 31 0)) := by
  rw [Gives, exec_timRateWrite]
  refine ⟨_, rfl, ?_⟩
  rw [State.sw, hc]
  dsimp only
  rw [if_pos hr]
  exact s.rate_wf_clampRate _

/-- Settles O58: a tick adds the signed rate to the timebase, and the two writers of `TIM_RATE`, software and the discipline loop, both
clamp what they write. -/
theorem theRateIsClampedAndRunsTheTimebase : Obligations.TheRateIsClampedAndRunsTheTimebase :=
  ⟨fun s h => ⟨s.tick, step_idle h, s.tick_timebase⟩, fun _ _ v hc hr => exec_timRateWrite_rate v hc hr, exec_timeSample_rate⟩

end Sys2Proof.Machine

/-! A bundle of a NOP and a word that writes the registers of its core, and the merge of two binned sums (13_burin_isa.md R286-R293,
15_arithmetic.md R354, R356). -/

namespace Sys2Proof.Machine

variable {s t u : State} {c : Core} {x y : CoreSt}

/-! ### Changes of one core -/

theorem State.core_setCore_of_ne {d : Core} (s : State) (x : CoreSt) (h : Core.key d ≠ Core.key c) : (s.setCore c x).core d = s.core d := by
  rw [State.core, State.core, State.setCore, mget_mput_of_ne _ _ h]

theorem CoreOnly.trans (h : CoreOnly s t c x) (h' : CoreOnly t u c y) : CoreOnly s u c y := by
  obtain ⟨hst, hrd, hcores, -⟩ := h
  obtain ⟨htu, hrd', hcores', hcore⟩ := h'
  refine ⟨?_, fun k hk => (hrd' k hk).trans (hrd k hk), fun d hd => (hcores' d hd).trans (hcores d hd), hcore⟩
  rw [htu, hst]

theorem CoreOnly.refl (s : State) (c : Core) : CoreOnly s s c (s.core c) := ⟨rfl, fun _ _ => rfl, fun _ _ => rfl, rfl⟩

theorem CoreOnly.core_eq (h : CoreOnly s t c x) : t.core c = x := by
  obtain ⟨-, -, -, hcore⟩ := h
  exact hcore

/-- A write of the core changes the core only. -/
theorem CoreOnly.setCore (h : CoreOnly s t c x) (y : CoreSt) : CoreOnly s (t.setCore c y) c y :=
  h.trans ⟨rfl, fun _ _ => rfl, fun _ => t.core_setCore_of_ne y, t.core_setCore c y⟩

/-- The count of free values is no core's. -/
theorem CoreOnly.withFree (h : CoreOnly s t c x) (n : Nat) : CoreOnly s { t with free := n } c x :=
  h.trans ⟨rfl, fun _ _ => rfl, fun _ _ => rfl, h.core_eq⟩

/-- Counting single-bit errors touches a register of the monitors, which no core holds. -/
theorem State.countSbe_coreOnly (s : State) (c : Core) (p n : Nat) : CoreOnly s (s.countSbe p n) c (s.core c) :=
  ⟨rfl, fun _ hk => s.rd_incF_of_ne _ n (hk p), fun _ _ => rfl, rfl⟩

/-! ### The bundle -/

/-- A bundle that goes on in sequence writes what `After` says, and nothing but its core. -/
theorem State.advance_seq (s : State) (c : Core) (x : CoreSt) (w0 w1 : Bool) :
    s.advance c x .seq w0 w1 = s.setCore c (After x (s.core c) w0 w1) := by
  unfold State.advance After
  cases x.delay <;> rfl

/-- What the V slot sees beside a NOP, when it draws nothing. -/
def State.vCtx (s : State) (c : Core) (e : Env) : Ctx :=
  { s := s, after := s, c := c, x := s.core c, e := e, mode := modeOf (s.core c), draws := [], free := s.free }

/-- A word that rounds nothing takes no draw. -/
theorem Ctx.take_none {k : Ctx} {w : Nat} (seed : Nat) (h : k.drawCount w = 0) : k.take w seed = ([], seed) := by
  rw [Ctx.take, h, ite_self, srTake]

/-- A NOP takes no draw. -/
theorem Ctx.drawCount_nop (k : Ctx) : k.drawCount nopWord = 0 := rfl

/-- A NOP may stand anywhere. -/
theorem Ctx.placed_nop (k : Ctx) (w : Nat) : k.placed nopWord w = true := rfl

/-- An effect without an exception and without flags takes no exception. -/
theorem slotExc_run (x : CoreSt) (both : Flags) (f : State → State) : slotExc x both { run := f } = none := by
  simp [slotExc]

theorem CoreSt.withSrseed_self (x : CoreSt) : ({ x with srseed := BitVec.ofNat 64 x.srseed.toNat } : CoreSt) = x := by
  rw [BitVec.ofNat_toNat, BitVec.setWidth_eq]

theorem CoreSt.withFlags_lor_zero (x : CoreSt) : ({ x with flags := BitVec.ofNat 64 (Nat.lor x.flags.toNat 0) } : CoreSt) = x := by
  have h : Nat.lor x.flags.toNat 0 = x.flags.toNat := Nat.or_zero _
  rw [h, BitVec.ofNat_toNat, BitVec.setWidth_eq]

/-- Beside a NOP, a V-slot word that neither draws, raises a flag nor stalls, and whose effect is the change f of its core, changes the
core by f. -/
theorem State.runBundle_nop_upd {e : Env} {w : Nat} {f : CoreSt → CoreSt} (halone : (s.core c).alone = false)
    (hsw : wordOk (kindOf c) false nopWord = true) (hvw : wordOk (kindOf c) true w = true) (hpair : pairOk nopWord w = true)
    (hdraw : ∀ k : Ctx, k.drawCount w = 0) (hsem : semV (opc w) (s.vCtx c e) w = { run := (s.vCtx c e).upd f }) :
    CoreOnly s (s.runBundle c e nopWord w) c (After (s.core c) (f (s.core c))) := by
  unfold State.runBundle
  extract_lets x kind vw k d1 d2 a t b both z t1 t2 t3 y t4 t5
  have hw : vw = w := if_neg (by simp [x, halone])
  rw [hw, if_neg (by simp [kind, hsw, hpair, Ctx.placed_nop]), if_neg (by simp [kind, hvw])]
  have hd2 : d2 = ([], x.srseed.toNat) := by
    have hd1 : d1 = ([], x.srseed.toNat) := Ctx.take_none _ (Ctx.drawCount_nop _)
    simp only [d2, hd1, hw, Ctx.take_none _ (hdraw _)]
  have ha : a = { run := id } := rfl
  have hb : b = { run := (s.vCtx c e).upd f } := by simp only [b, hd2, hw]; exact hsem
  have hboth : both = 0 := by simp only [both, ha, hb]; rfl
  have h1 : CoreOnly s t1 c x := by
    have ht : t1 = s.setCore c x := by simp only [t1, hd2]; exact congrArg (s.setCore c) x.withSrseed_self
    rw [ht]
    exact (CoreOnly.refl s c).setCore x
  have h3 : CoreOnly s t3 c (f x) := by
    have ht : t3 = t1.setCore c (f (t1.core c)) := by simp only [t3, hb]; rfl
    rw [ht, h1.core_eq]
    exact h1.setCore (f x)
  have h4 : CoreOnly s t4 c (f x) := by
    have ht : t4 = t3.setCore c y := by simp only [t4, hboth, CoreSt.withFlags_lor_zero]
    rw [ht, ← h3.core_eq]
    exact h3.setCore y
  have h5 : CoreOnly s t5 c (f x) := h4.withFree t5.free
  rw [ha, hb, slotExc_run, slotExc_run]
  show CoreOnly s (t5.advance c x .seq false false) c _
  rw [State.advance_seq, h5.core_eq]
  exact h5.setCore _

/-! ### The row of a burin's instruction -/

/-- A V-slot opcode that only burins have is executed by a burin (Table 13-11). -/
theorem eq_burin_of_wordOk {w : Nat} (h : wordOk (kindOf c) true w = true) (ho : 0x80 < opc w) (ho' : opc w < 0xD0) :
    ∃ p b, c = .burin p b := by
  have hp : inProfile (kindOf c) (opc w) = true := by simp_all [wordOk]
  cases c with
  | burin p b => exact ⟨p, b, rfl⟩
  | seq p => simp [kindOf, inProfile] at hp; omega
  | tport i => simp [kindOf, inProfile] at hp; omega

/-- The row of the V-slot word that a burin executes next runs its bundle, once the single-bit errors of the step are counted. -/
theorem Ready.isaRow_burin {p b : Nat} {e : Env} {sw w : Nat} (h : Ready s (.burin p b) e sw w) (ho : 0x80 ≤ opc w) :
    s.isaRow (opc w) (.burin p b) e = (s.countSbe p e.sbe).runBundle (.burin p b) e sw w := by
  obtain ⟨hrun, hpc, hbundle, halone, hdbe, -⟩ := h
  have hn : named (opc w) false sw w = true := by simp only [named, if_neg (Nat.not_lt.2 ho)]; simp
  unfold State.isaRow
  extract_lets u x l held v
  have hl : l = (sw, w) := hbundle
  have hx : x.alone = false := halone
  have hd : fetchDbe (.burin p b) x.pc e = none := hdbe
  rw [if_neg (not_not_intro hrun), if_neg (Nat.not_le.2 hpc), if_neg (by simp only [held, hl, hx, hn]; simp), hl, hd]
  rfl

/-! ### Binned sums -/

section
variable (n fl m : Nat)

/-- A binned sum of its parts gives back its integer modulo 2¹⁹⁸⁴. -/
theorem bsN_bsMake : bsN (bsMake n fl m) = m % 2 ^ 1984 := by
  have h : bsMake n fl m / 2 ^ 64 = m % 2 ^ bsBits := by unfold bsMake; omega
  rw [bsN, h, Nat.mod_mod, bsBits]

theorem bsFlags_bsMake : bsFlags (bsMake n fl m) = fl % 16 := by
  unfold bsFlags bsMake; omega

theorem bsCount_bsMake : bsCount (bsMake n fl m) = min n (2 ^ 40 - 1) := by
  unfold bsCount bsMake; omega

end

/-- The flag bits of two binned sums together are four bits. -/
theorem lor_bsFlags_lt (v v' : Nat) : Nat.lor (bsFlags v) (bsFlags v') < 16 :=
  Nat.or_lt_two_pow (n := 4) (Nat.mod_lt _ (by decide)) (Nat.mod_lt _ (by decide))

/-- What VBMRG leaves in vD (R356). -/
def mergedSum (x : CoreSt) (w : Nat) : Nat :=
  bsMake (bsCount (x.vr (rA w)) + bsCount (x.vr (rD w))) (Nat.lor (bsFlags (x.vr (rA w))) (bsFlags (x.vr (rD w))))
    (bsN (x.vr (rA w)) + bsN (x.vr (rD w)))

theorem exec_vbmrg (c : Core) (e : Env) (s : State) : exec (.vbmrg c e) s = .next (s.isaRow 0xB1 c e) := rfl

theorem semV_vbmrg (s : State) (c : Core) (e : Env) (w : Nat) :
    semV 0xB1 (s.vCtx c e) w = { run := (s.vCtx c e).upd fun x => x.setV (rD w) (mergedSum (s.core c) w) } := rfl

theorem Ctx.drawCount_vbmrg (k : Ctx) {w : Nat} (h : opc w = 0xB1) : k.drawCount w = 0 := by
  simp [Ctx.drawCount, h]

/-- The bundle of a NOP and a VBMRG writes the merged sum. -/
theorem State.runBundle_vbmrg {e : Env} {w : Nat} (halone : (s.core c).alone = false) (hsw : wordOk (kindOf c) false nopWord = true)
    (hvw : wordOk (kindOf c) true w = true) (hpair : pairOk nopWord w = true) (ho : opc w = 0xB1) :
    CoreOnly s (s.runBundle c e nopWord w) c (After (s.core c) ((s.core c).setV (rD w) (mergedSum (s.core c) w))) :=
  State.runBundle_nop_upd (f := fun x => x.setV (rD w) (mergedSum (s.core c) w)) halone hsw hvw hpair
    (fun k => k.drawCount_vbmrg ho) (ho ▸ semV_vbmrg s c e w)

/-- The row of VBMRG counts the single-bit errors, then runs the bundle. -/
theorem Ready.vbmrg_coreOnly {e : Env} {w : Nat} (h : Ready s c e nopWord w) (ho : opc w = 0xB1) :
    Gives (.vbmrg c e) s fun t => CoreOnly s t c (After (s.core c) ((s.core c).setV (rD w) (mergedSum (s.core c) w))) := by
  have ⟨_, _, _, halone, _, hsw, hvw, hpair⟩ := h
  obtain ⟨p, b, rfl⟩ := eq_burin_of_wordOk hvw (by omega) (by omega)
  have hrow := h.isaRow_burin (by omega)
  rw [ho] at hrow
  refine ⟨_, exec_vbmrg _ e s, ?_⟩
  rw [hrow]
  exact (s.countSbe_coreOnly _ p e.sbe).trans ((s.countSbe p e.sbe).runBundle_vbmrg halone hsw hvw hpair ho)

/-- Settles O59: the row runs the bundle, whose only effect is the write of the merged sum, and each part of a binned sum reads back. -/
theorem binnedSumsMerge : Obligations.BinnedSumsMerge := by
  intro s c e w h ho
  obtain ⟨t, ht, hcore⟩ := h.vbmrg_coreOnly ho
  refine ⟨t, ht, _, hcore, bsN_bsMake _ _ _, ?_, bsCount_bsMake _ _ _⟩
  exact (bsFlags_bsMake _ _ _).trans (Nat.mod_eq_of_lt (lor_bsFlags_lt _ _))

end Sys2Proof.Machine
